-- ==== Sys2Proof/Word.lean ====
section
/-!
DEFINITION. The words of the Norengon 940 and their plainest arithmetic: bytes, 64-bit words, instruction words.
-/

namespace Sys2Proof

/-- A byte of any storage. -/
abbrev Byte := BitVec 8

/-- A scalar register or memory word (R31). -/
abbrev Word := BitVec 64

/-- An instruction word (R46). -/
abbrev IWord := BitVec 32

/-- A vector register of 256 bytes; byte k stands in bits [8k + 7 : 8k] (R34). -/
abbrev VWord := BitVec 2048

/-- A 128-bit digest (R284). -/
abbrev Digest := BitVec 128

namespace Word

/-- The field x[lo + n − 1 : lo] as a number. -/
def field {w : Nat} (x : BitVec w) (lo n : Nat) : Nat := (x.extractLsb' lo n).toNat

/-- One bit of x. -/
def bit {w : Nat} (x : BitVec w) (k : Nat) : Bool := x.getLsbD k

end Word

end Sys2Proof
end

