-- ==== Sys2Proof/Config.lean ====
section
/-!
DEFINITION. What an implementation fixes and the specification leaves open: free values. They are opaque, so that no
proof can see what they are; each is named in a log entry (notes/assumptions).
-/

namespace Sys2Proof.Config

/-- Which of the events that may happen next does happen: R421 lists the orders the device does not give (DESIGN CHOICE, log 3). -/
opaque pick : Nat → Nat

/-- A choice the specification leaves to the implementation, drawn afresh with the counter State.draws (DESIGN CHOICE, log 4): whether
a unit keeps a translation (R379), an L1 returns its older copy (R349), B is read old or new (R28), and the like. -/
opaque coin : Nat → Bool

/-- A free word for a value that the specification leaves undefined, drawn afresh with the counter State.draws
(DESIGN CHOICE, log 5). -/
opaque freeWord : Nat → BitVec 64

/-- The hash that chooses a home among n slices (R103, R288, R397): the result is taken modulo n (DESIGN CHOICE, log 6). -/
opaque homeHash : Nat → Nat

/-- The HBM4E channel, 0 to 31, of a physical address (R396, R397; DESIGN CHOICE, log 6). -/
opaque channelOf : Nat → Nat

/-- The hidden key H_t of the n-th draw of a partition (R285; DESIGN CHOICE, log 7). -/
opaque hiddenKey : Nat → BitVec 128

/-- Ed25519 verification against the fused root key: message, signature (R8, R417; DESIGN CHOICE, log 8). -/
opaque ed25519Ok : List (BitVec 8) → List (BitVec 8) → Bool

/-- ML-DSA-65 verification against the fused root key: message, signature (R8, R417; DESIGN CHOICE, log 8). -/
opaque mldsaOk : List (BitVec 8) → List (BitVec 8) → Bool

/-- The Ed25519 evidence signature under the identity key of these measurements (R419; DESIGN CHOICE, log 8). -/
opaque ed25519Sign : List (BitVec 8) → List (BitVec 8) → BitVec (8 * 64)

/-- The ML-DSA-65 evidence signature under the identity key of these measurements (R419; DESIGN CHOICE, log 8). -/
opaque mldsaSign : List (BitVec 8) → List (BitVec 8) → BitVec (8 * 3309)

/-- A width request for a link still holds at a frequency: link, lanes, frequency (R412; DESIGN CHOICE, log 41). -/
opaque widthHolds : Nat → Nat → Nat → Bool

/-- The security version below which an image is rejected, held in fuses (R417; DESIGN CHOICE, log 8). -/
opaque minVersion : Nat

end Sys2Proof.Config
end

