-- ==== Sys2Proof/Syntax.lean ====
section
/-!
DEFINITION. The instructions and steps of the Norengon 940: one constructor of Instr for each row of the opcode table.
Rows with an encoding carry their operands; rows without one (the events) carry the names of what they act on.
-/

namespace Sys2Proof

/-- A scalar source field: a queue age or a named register (R40). -/
inductive Src
  | q (i : Fin 16)
  | n (i : Fin 16)
  deriving DecidableEq, Repr

/-- A destination field: none pushes only, some i also writes n(i) (R41). -/
abbrev Dest := Option (Fin 16)

/-- A vector register number (R46). -/
abbrev VReg := Fin 8

/-- A governing predicate m0 to m3 (R215). -/
abbrev Mask := Fin 4

/-- A completion counter number (R39). -/
abbrev Ctr := Fin 16

/-- The etype codes 0 to 7 (R46). -/
inductive EType
  | f64 | f32 | bf16 | f16 | s64 | s32 | s16 | s8
  deriving DecidableEq, Repr

/-- Branch conditions (R70). -/
inductive Cond
  | eq | ne | lt | ge | ltu | geu | z | nz
  deriving DecidableEq, Repr

/-- Load widths of format M (R46). -/
inductive LdWidth
  | s8 | z8 | s16 | z16 | s32 | z32 | d64
  deriving DecidableEq, Repr

/-- Store widths of format S (R46). -/
inductive StWidth
  | b8 | b16 | b32 | b64
  deriving DecidableEq, Repr

/-- AMO and CAS widths (R49). -/
inductive AmoWidth
  | w32 | w64
  deriving DecidableEq, Repr

/-- The order field of AMO and CAS (R82). -/
inductive Order
  | rlx | acq | rel | acqrel
  deriving DecidableEq, Repr

/-- The scope field of AMO and CAS (R82). -/
inductive AmoScope
  | die | package | domain
  deriving DecidableEq, Repr

/-- The agent scope of FNC (R84, R347). -/
inductive AgentScope
  | thread | core | die | package | domain
  deriving DecidableEq, Repr

/-- The rounding field of scalar FP; dyn is FFLAGS.FRM (R49, R92). -/
inductive Rnd
  | rne | rtz | rdn | rup | rmm | dyn
  deriving DecidableEq, Repr

/-- F[4] of scalar FP (R91). -/
inductive Prec
  | f64 | f32
  deriving DecidableEq, Repr

/-- FCMP predicates (R95). -/
inductive FPred
  | eq | lt | le | unord
  deriving DecidableEq, Repr

/-- FCVT kinds 0 to 3 (R96). -/
inductive CvtKind
  | ff | fromInt | toInt | toUint
  deriving DecidableEq, Repr

/-- VCMP conditions; codes 6 and 7 are LTU, GEU on integers and UNORD, ORD on floats (R232). -/
inductive VCond
  | eq | ne | lt | le | gt | ge | c6 | c7
  deriving DecidableEq, Repr

/-- VRED operations (R237). -/
inductive RedOp
  | sum | max | min
  deriving DecidableEq, Repr

/-- VSCAN operations (R238). -/
inductive ScanOp
  | isum | xsum | max | min
  deriving DecidableEq, Repr

/-- VMSK operations (R234). -/
inductive MskOp
  | and | or | xor | andn | not | nz | first
  deriving DecidableEq, Repr

/-- Narrow formats of VQNT and VDQ (R230). -/
inductive Narrow
  | ts8 | e4m3 | e5m2 | int8 | nat8 | int4
  deriving DecidableEq, Repr

/-- MRED operations (R209). -/
inductive MRedOp
  | sum | ssq | max
  deriving DecidableEq, Repr

/-- The control registers of R341. -/
inductive CReg
  | tid | task | prio | partid | cls | winsz | accn | vcsr | fflags | time | cycles
  | mxc (k : Fin 10)
  | cel (k : Fin 5)
  | vtStall | vtWonce | vtWaits | dupCollapse
  | trapvec | hearth | trapsave | asid | ptbase | gen | fbbase | fbstatus | fbheld | pagertab
  | celkey | celquota | slottab | ptpctl | ltol | pstate | partIl | partNb | partGroups | partCtl | cqStatus
  deriving DecidableEq, Repr

/-- The cause codes of R301. -/
inductive Cause
  | illegalOpcode | illegalBank | groupHazard | illegalOperand | privilege | align | pageFault | protection
  | wonce | vdead | vwindow | badHandle | spaceUndef | precision | purity | gangTooLarge | spawnClass
  | memUncorrectable | linkLost | trapInstr | watchdog
  deriving DecidableEq, Repr

/-- What a request without a use asks of a version (R129, R172, R173, R246). -/
inductive Look
  | handle | digest (hi : Bool) | info | bytes | key
  deriving DecidableEq, Repr

/-- The effect a tile request asks of its home (R120). -/
inductive TileBody
  | load (keep : Bool)
  | look (what : Look)
  | store (uses : Nat) (bytes : List Byte)
  | gather (uses : Nat)
  | talias (srcHandle : Word) (uses : Nat)
  | aliasOf (extent : Nat) (uses : Nat)
  | change (add : Bool) (c : Nat)
  | probe
  deriving DecidableEq, Repr

/-- The read-modify-write operations of R78 to R80. -/
inductive AtomOp
  | add | and | or | xor | min | max | minu | maxu | swap | fadd32 | fadd64 | cas
  deriving DecidableEq, Repr

/-- What a REQ flit asks of this package (R102, R361); handle is the one its issuer named. -/
inductive LinkReq
  | tile (handle : Word) (body : TileBody)
  | read (pa : Nat) (n : Nat)
  | write (pa : Nat) (bytes : List Byte)
  | watch (pa : Nat) (bound : Word)
  /-- The graph of the request with this tag has ended (R119). -/
  | leave
  deriving DecidableEq, Repr

/-- What an RSP or NOTICE flit returns (R115, R361). -/
inductive LinkRsp
  | served (value : Word) (bytes : List Byte)
  | refused (cause : Cause)
  | data (bytes : List Byte)
  | done
  /-- A TIMP has its reservation and its place in the window: its bytes may be gathered (R134). -/
  | begin
  deriving DecidableEq, Repr

/-- What an ATOM flit performs (R81). -/
structure LinkAtom where
  pa : Nat
  op : AtomOp
  width : AmoWidth
  operand : Word
  expected : Word
  deriving DecidableEq, Repr

/-- What an MGMT flit carries (R307, R413, R419). -/
inductive LinkMgmt
  | trapRecord (core : Nat) (asid : BitVec 16) (record : List Word)
  | trapAnswer (thread : Nat) (seq : Nat) (task : Nat) (action : Nat) (cause : Option Cause)
  | time (part : Nat) (sample : Word)
  | evidence (nonce : BitVec 256) (mask : BitVec 8)
  deriving DecidableEq, Repr

/-- One partition of the signed configuration (R399, R403, R417). (DESIGN CHOICE, log 18) (DESIGN CHOICE, log 44) -/
structure PartSpec where
  id : Nat
  groups : BitVec 28
  il : Word
  nb : Word
  vtshare : Nat
  hearth : Word
  vfs : List (Nat × BitVec 16)
  supervisor : List Byte
  loadAt : Nat
  entry : Word
  asid : BitVec 16
  root : Word
  frames : List (Nat × Nat × Nat)
  deriving DecidableEq, Repr

/-- A context that the firmware runs on at PKG, in a partition whose tables map its code (R332, R417). (DESIGN CHOICE, log 55)
(DESIGN CHOICE, log 44) -/
structure FwSpec where
  context : Nat
  part : Nat
  asid : BitVec 16
  entry : Word
  deriving DecidableEq, Repr

/-- A frequency change of a link: the new frequency, and the cycle in which it reaches the arbiter (R412). -/
structure FreqChange where
  freq : Nat
  cycle : Nat
  deriving DecidableEq, Repr

/-- What the boot ROM and the firmware find at package reset (R12, R417, R418). (DESIGN CHOICE, log 44) -/
structure BootInput where
  device : BitVec 12
  rom : List Byte
  image : List Byte
  imageEd : List Byte
  imageMl : List Byte
  version : Nat
  live : BitVec 8
  found : List Byte
  /-- Bytes of memory found behind expansion ports 0 and 1 (R391). -/
  ports : List Nat
  config : List Byte
  configEd : List Byte
  configMl : List Byte
  parts : List PartSpec
  /-- The contexts that the firmware runs on. -/
  firmware : List FwSpec := []
  /-- Devices that the fabric does not reach through a link, by link (R408, R411). -/
  fabric : List (Nat × List Nat) := []
  deriving DecidableEq, Repr

/-- One constructor for each row of spec/opcode_table.json, in its order. Names: sw is the marker S, d the destination,
a, b, c, e, s scalar sources, vd, va, vb, vc vector registers, cc the counter field, det the .det bit. -/
inductive Instr
  /-- NOP (R334). -/
  | nop (sw : Bool)
  /-- TRAP with its 10-bit code (R333, R334). -/
  | trap (sw : Bool) (code : BitVec 10)
  /-- TRET: the action for the record being handled (R309). -/
  | tret (sw : Bool) (a : Src)
  /-- GENBUMP (R335). -/
  | genbump (sw : Bool) (d : Dest) (a : Src)
  /-- PGDONE (R323). -/
  | pgdone (sw : Bool) (d : Dest) (a : Src) (b : Src)
  /-- PQUI (R337). -/
  | pqui (sw : Bool) (d : Dest) (a : Src) (b : Src)
  /-- PRES (R337). -/
  | pres (sw : Bool) (d : Dest) (a : Src)
  /-- CFLUSH (R338). -/
  | cflush (sw : Bool) (a : Src) (b : Src)
  /-- CELFL (R339). -/
  | celfl (sw : Bool)
  /-- INT function ADD (R61, R63, R64); w selects width 32. -/
  | add (sw : Bool) (d : Dest) (a : Src) (b : Src) (w : Bool)
  /-- INT function SUB (R61, R63, R64); w selects width 32. -/
  | sub (sw : Bool) (d : Dest) (a : Src) (b : Src) (w : Bool)
  /-- INT function MUL (R61, R63, R64); w selects width 32. -/
  | mul (sw : Bool) (d : Dest) (a : Src) (b : Src) (w : Bool)
  /-- INT function MULH (R61, R63, R64); w selects width 32. -/
  | mulh (sw : Bool) (d : Dest) (a : Src) (b : Src) (w : Bool)
  /-- INT function MULHU (R61, R63, R64); w selects width 32. -/
  | mulhu (sw : Bool) (d : Dest) (a : Src) (b : Src) (w : Bool)
  /-- INT function DIV (R61, R63, R64); w selects width 32. -/
  | div (sw : Bool) (d : Dest) (a : Src) (b : Src) (w : Bool)
  /-- INT function DIVU (R61, R63, R64); w selects width 32. -/
  | divu (sw : Bool) (d : Dest) (a : Src) (b : Src) (w : Bool)
  /-- INT function REM (R61, R63, R64); w selects width 32. -/
  | rem (sw : Bool) (d : Dest) (a : Src) (b : Src) (w : Bool)
  /-- INT function REMU (R61, R63, R64); w selects width 32. -/
  | remu (sw : Bool) (d : Dest) (a : Src) (b : Src) (w : Bool)
  /-- INT function AND (R61, R63, R64); w selects width 32. -/
  | and (sw : Bool) (d : Dest) (a : Src) (b : Src) (w : Bool)
  /-- INT function OR (R61, R63, R64); w selects width 32. -/
  | or (sw : Bool) (d : Dest) (a : Src) (b : Src) (w : Bool)
  /-- INT function XOR (R61, R63, R64); w selects width 32. -/
  | xor (sw : Bool) (d : Dest) (a : Src) (b : Src) (w : Bool)
  /-- INT function ANDN (R61, R63, R64); w selects width 32. -/
  | andn (sw : Bool) (d : Dest) (a : Src) (b : Src) (w : Bool)
  /-- INT function SHL (R61, R63, R64); w selects width 32. -/
  | shl (sw : Bool) (d : Dest) (a : Src) (b : Src) (w : Bool)
  /-- INT function SHR (R61, R63, R64); w selects width 32. -/
  | shr (sw : Bool) (d : Dest) (a : Src) (b : Src) (w : Bool)
  /-- INT function SRA (R61, R63, R64); w selects width 32. -/
  | sra (sw : Bool) (d : Dest) (a : Src) (b : Src) (w : Bool)
  /-- INT function ROR (R61, R63, R64); w selects width 32. -/
  | ror (sw : Bool) (d : Dest) (a : Src) (b : Src) (w : Bool)
  /-- INT function SLT (R61, R63, R64); w selects width 32. -/
  | slt (sw : Bool) (d : Dest) (a : Src) (b : Src) (w : Bool)
  /-- INT function SLTU (R61, R63, R64); w selects width 32. -/
  | sltu (sw : Bool) (d : Dest) (a : Src) (b : Src) (w : Bool)
  /-- INT function SEQ (R61, R63, R64); w selects width 32. -/
  | seq (sw : Bool) (d : Dest) (a : Src) (b : Src) (w : Bool)
  /-- INT function MIN (R61, R63, R64); w selects width 32. -/
  | min (sw : Bool) (d : Dest) (a : Src) (b : Src) (w : Bool)
  /-- INT function MAX (R61, R63, R64); w selects width 32. -/
  | max (sw : Bool) (d : Dest) (a : Src) (b : Src) (w : Bool)
  /-- INT function MINU (R61, R63, R64); w selects width 32. -/
  | minu (sw : Bool) (d : Dest) (a : Src) (b : Src) (w : Bool)
  /-- INT function MAXU (R61, R63, R64); w selects width 32. -/
  | maxu (sw : Bool) (d : Dest) (a : Src) (b : Src) (w : Bool)
  /-- INT function CLZ, one source (R61, R62). -/
  | clz (sw : Bool) (d : Dest) (a : Src) (w : Bool)
  /-- INT function CTZ, one source (R61, R62). -/
  | ctz (sw : Bool) (d : Dest) (a : Src) (w : Bool)
  /-- INT function POPC, one source (R61, R62). -/
  | popc (sw : Bool) (d : Dest) (a : Src) (w : Bool)
  /-- INT function SEXT (R61, R62). -/
  | sext (sw : Bool) (d : Dest) (a : Src) (b : Src) (w : Bool)
  /-- INT function ZEXT (R61, R62). -/
  | zext (sw : Bool) (d : Dest) (a : Src) (b : Src) (w : Bool)
  /-- ADDI (R65). -/
  | addi (sw : Bool) (d : Dest) (a : Src) (imm : BitVec 15)
  /-- ANDI (R65). -/
  | andi (sw : Bool) (d : Dest) (a : Src) (imm : BitVec 15)
  /-- ORI (R65). -/
  | ori (sw : Bool) (d : Dest) (a : Src) (imm : BitVec 15)
  /-- XORI (R65). -/
  | xori (sw : Bool) (d : Dest) (a : Src) (imm : BitVec 15)
  /-- SHLI (R65). -/
  | shli (sw : Bool) (d : Dest) (a : Src) (sh : BitVec 6)
  /-- SHRI (R65). -/
  | shri (sw : Bool) (d : Dest) (a : Src) (sh : BitVec 6)
  /-- SRAI (R65). -/
  | srai (sw : Bool) (d : Dest) (a : Src) (sh : BitVec 6)
  /-- SLTI (R65). -/
  | slti (sw : Bool) (d : Dest) (a : Src) (imm : BitVec 15)
  /-- SLTIU (R65). -/
  | sltiu (sw : Bool) (d : Dest) (a : Src) (imm : BitVec 15)
  /-- LDI (R66). -/
  | ldi (sw : Bool) (d : Dest) (imm : BitVec 20)
  /-- LDPC (R66, R47). -/
  | ldpc (sw : Bool) (d : Dest) (imm : BitVec 20)
  /-- HMAKE (R67 to R69). -/
  | hmake (sw : Bool) (d : Dest) (a : Src) (b : Src)
  /-- HIDX (R67 to R69). -/
  | hidx (sw : Bool) (d : Dest) (a : Src) (b : Src)
  /-- HVER (R67 to R69). -/
  | hver (sw : Bool) (d : Dest) (a : Src) (b : Src)
  /-- HFLD (R67 to R69). -/
  | hfld (sw : Bool) (d : Dest) (a : Src) (b : Src)
  /-- BR (R70). -/
  | br (sw : Bool) (cond : Cond) (a : Src) (b : Src) (disp : BitVec 12)
  /-- J (R71). -/
  | j (sw : Bool) (disp : BitVec 25)
  /-- CALL (R71). -/
  | call (sw : Bool) (disp : BitVec 25)
  /-- JR with F = 0 (R71). -/
  | jr (sw : Bool) (a : Src)
  /-- JR with F = 1 (R71). -/
  | jrCall (sw : Bool) (a : Src)
  /-- LD from byte memory (R72). -/
  | ld (sw : Bool) (d : Dest) (a : Src) (wd : LdWidth) (imm : BitVec 12)
  /-- ST to byte memory (R72). -/
  | st (sw : Bool) (data : Src) (base : Src) (wd : StWidth) (imm : BitVec 12)
  /-- LDL from local memory (R72, R73). -/
  | ldl (sw : Bool) (d : Dest) (a : Src) (wd : LdWidth) (imm : BitVec 12)
  /-- STL to local memory (R72, R73). -/
  | stl (sw : Bool) (data : Src) (base : Src) (wd : StWidth) (imm : BitVec 12)
  /-- AMO ADD (R78, R81, R82). -/
  | amoAdd (sw : Bool) (d : Dest) (a : Src) (b : Src) (wd : AmoWidth) (ord : Order) (sc : AmoScope)
  /-- AMO AND (R78, R81, R82). -/
  | amoAnd (sw : Bool) (d : Dest) (a : Src) (b : Src) (wd : AmoWidth) (ord : Order) (sc : AmoScope)
  /-- AMO OR (R78, R81, R82). -/
  | amoOr (sw : Bool) (d : Dest) (a : Src) (b : Src) (wd : AmoWidth) (ord : Order) (sc : AmoScope)
  /-- AMO XOR (R78, R81, R82). -/
  | amoXor (sw : Bool) (d : Dest) (a : Src) (b : Src) (wd : AmoWidth) (ord : Order) (sc : AmoScope)
  /-- AMO MIN (R78, R81, R82). -/
  | amoMin (sw : Bool) (d : Dest) (a : Src) (b : Src) (wd : AmoWidth) (ord : Order) (sc : AmoScope)
  /-- AMO MAX (R78, R81, R82). -/
  | amoMax (sw : Bool) (d : Dest) (a : Src) (b : Src) (wd : AmoWidth) (ord : Order) (sc : AmoScope)
  /-- AMO MINU (R78, R81, R82). -/
  | amoMinu (sw : Bool) (d : Dest) (a : Src) (b : Src) (wd : AmoWidth) (ord : Order) (sc : AmoScope)
  /-- AMO MAXU (R78, R81, R82). -/
  | amoMaxu (sw : Bool) (d : Dest) (a : Src) (b : Src) (wd : AmoWidth) (ord : Order) (sc : AmoScope)
  /-- AMO SWAP (R78, R81, R82). -/
  | amoSwap (sw : Bool) (d : Dest) (a : Src) (b : Src) (wd : AmoWidth) (ord : Order) (sc : AmoScope)
  /-- AMO FADD (R79). -/
  | amoFaddF32 (sw : Bool) (d : Dest) (a : Src) (b : Src) (ord : Order) (sc : AmoScope)
  /-- AMO FADD (R79). -/
  | amoFaddF64 (sw : Bool) (d : Dest) (a : Src) (b : Src) (ord : Order) (sc : AmoScope)
  /-- CAS: e is the expected value (R80). -/
  | cas (sw : Bool) (e : Src) (a : Src) (b : Src) (wd : AmoWidth) (ord : Order) (sc : AmoScope)
  /-- FNC of kind FULL (R83, R84). -/
  | fncFull (sw : Bool) (a : Src) (b : Src) (all : Bool) (mask : BitVec 3) (sc : AgentScope)
  /-- FNC of kind ACQ (R83, R84). -/
  | fncAcq (sw : Bool) (a : Src) (b : Src) (all : Bool) (mask : BitVec 3) (sc : AgentScope)
  /-- FNC of kind REL (R83, R84). -/
  | fncRel (sw : Bool) (a : Src) (b : Src) (all : Bool) (mask : BitVec 3) (sc : AgentScope)
  /-- FNC of kind REG (R83, R84). -/
  | fncReg (sw : Bool) (a : Src) (b : Src) (all : Bool) (mask : BitVec 3) (sc : AgentScope)
  /-- PREF (R86). -/
  | pref (sw : Bool) (a : Src) (b : Src)
  /-- MWAIT (R87). -/
  | mwait (sw : Bool) (d : Dest) (a : Src) (b : Src)
  /-- CWAIT: wait until the counter is below t (R88). -/
  | cwait (sw : Bool) (t : BitVec 5) (k : Ctr)
  /-- CINC (R89). -/
  | cinc (sw : Bool) (a : Src) (k : Ctr)
  /-- CRD (R89). -/
  | crd (sw : Bool) (d : Dest) (k : Ctr)
  /-- FADD (R92, R93). -/
  | fadd (sw : Bool) (d : Dest) (a : Src) (b : Src) (rm : Rnd) (p : Prec)
  /-- FSUB (R92, R93). -/
  | fsub (sw : Bool) (d : Dest) (a : Src) (b : Src) (rm : Rnd) (p : Prec)
  /-- FMUL (R92, R93). -/
  | fmul (sw : Bool) (d : Dest) (a : Src) (b : Src) (rm : Rnd) (p : Prec)
  /-- FDIV (R92, R93). -/
  | fdiv (sw : Bool) (d : Dest) (a : Src) (b : Src) (rm : Rnd) (p : Prec)
  /-- FSQRT (R92, R93). -/
  | fsqrt (sw : Bool) (d : Dest) (a : Src) (rm : Rnd) (p : Prec)
  /-- FMA: c is the third source, pushed only (R91, R93). -/
  | fma (sw : Bool) (c : Src) (a : Src) (b : Src) (rm : Rnd) (p : Prec)
  /-- FMIN (R94). -/
  | fmin (sw : Bool) (d : Dest) (a : Src) (b : Src) (p : Prec)
  /-- FMAX (R94). -/
  | fmax (sw : Bool) (d : Dest) (a : Src) (b : Src) (p : Prec)
  /-- FCMP (R95). -/
  | fcmp (sw : Bool) (d : Dest) (a : Src) (b : Src) (pred : FPred) (p : Prec)
  /-- FCVT (R96). -/
  | fcvt (sw : Bool) (d : Dest) (a : Src) (kind : CvtKind) (rm : Rnd) (p : Prec)
  /-- FCLASS (R97). -/
  | fclass (sw : Bool) (d : Dest) (a : Src) (p : Prec)
  /-- VADD_FP (R223). -/
  | vaddFp (sw : Bool) (vd : VReg) (va : VReg) (vb : VReg) (et : EType) (m : Mask) (q : Bool)
  /-- VSUB_FP (R223). -/
  | vsubFp (sw : Bool) (vd : VReg) (va : VReg) (vb : VReg) (et : EType) (m : Mask) (q : Bool)
  /-- VMUL_FP (R223). -/
  | vmulFp (sw : Bool) (vd : VReg) (va : VReg) (vb : VReg) (et : EType) (m : Mask) (q : Bool)
  /-- VFMA (R223). -/
  | vfma (sw : Bool) (vd : VReg) (va : VReg) (vb : VReg) (vc : VReg) (et : EType) (m : Mask) (q : Bool)
  /-- VFNMA (R223). -/
  | vfnma (sw : Bool) (vd : VReg) (va : VReg) (vb : VReg) (vc : VReg) (et : EType) (m : Mask) (q : Bool)
  /-- VDIV (R223). -/
  | vdiv (sw : Bool) (vd : VReg) (va : VReg) (vb : VReg) (et : EType) (m : Mask) (q : Bool)
  /-- VSQRT (R164, R165, R223). -/
  | vsqrt (sw : Bool) (vd : VReg) (va : VReg) (et : EType) (m : Mask) (q : Bool)
  /-- VRSQ (R164, R165, R223). -/
  | vrsq (sw : Bool) (vd : VReg) (va : VReg) (et : EType) (m : Mask) (q : Bool)
  /-- VEXP2 (R164, R165, R223). -/
  | vexp2 (sw : Bool) (vd : VReg) (va : VReg) (et : EType) (m : Mask) (q : Bool)
  /-- VLOG2 (R164, R165, R223). -/
  | vlog2 (sw : Bool) (vd : VReg) (va : VReg) (et : EType) (m : Mask) (q : Bool)
  /-- VMIN_FP (R94, R223). -/
  | vminFp (sw : Bool) (vd : VReg) (va : VReg) (vb : VReg) (et : EType) (m : Mask) (q : Bool)
  /-- VMAX_FP (R94, R223). -/
  | vmaxFp (sw : Bool) (vd : VReg) (va : VReg) (vb : VReg) (et : EType) (m : Mask) (q : Bool)
  /-- VABS_FP (R223). -/
  | vabsFp (sw : Bool) (vd : VReg) (va : VReg) (et : EType) (m : Mask) (q : Bool)
  /-- VNEG_FP (R223). -/
  | vnegFp (sw : Bool) (vd : VReg) (va : VReg) (et : EType) (m : Mask) (q : Bool)
  /-- VADD_INT (R224). -/
  | vaddInt (sw : Bool) (vd : VReg) (va : VReg) (vb : VReg) (et : EType) (m : Mask) (q : Bool)
  /-- VSUB_INT (R224). -/
  | vsubInt (sw : Bool) (vd : VReg) (va : VReg) (vb : VReg) (et : EType) (m : Mask) (q : Bool)
  /-- VMUL_INT (R224). -/
  | vmulInt (sw : Bool) (vd : VReg) (va : VReg) (vb : VReg) (et : EType) (m : Mask) (q : Bool)
  /-- VMIN_INT (R224). -/
  | vminInt (sw : Bool) (vd : VReg) (va : VReg) (vb : VReg) (et : EType) (m : Mask) (q : Bool)
  /-- VMAX_INT (R224). -/
  | vmaxInt (sw : Bool) (vd : VReg) (va : VReg) (vb : VReg) (et : EType) (m : Mask) (q : Bool)
  /-- VMINU (R224). -/
  | vminu (sw : Bool) (vd : VReg) (va : VReg) (vb : VReg) (et : EType) (m : Mask) (q : Bool)
  /-- VMAXU (R224). -/
  | vmaxu (sw : Bool) (vd : VReg) (va : VReg) (vb : VReg) (et : EType) (m : Mask) (q : Bool)
  /-- VABS_INT (R224). -/
  | vabsInt (sw : Bool) (vd : VReg) (va : VReg) (et : EType) (m : Mask) (q : Bool)
  /-- VNEG_INT (R224). -/
  | vnegInt (sw : Bool) (vd : VReg) (va : VReg) (et : EType) (m : Mask) (q : Bool)
  /-- VAND (R224). -/
  | vand (sw : Bool) (vd : VReg) (va : VReg) (vb : VReg) (et : EType) (m : Mask) (q : Bool)
  /-- VOR (R224). -/
  | vor (sw : Bool) (vd : VReg) (va : VReg) (vb : VReg) (et : EType) (m : Mask) (q : Bool)
  /-- VXOR (R224). -/
  | vxor (sw : Bool) (vd : VReg) (va : VReg) (vb : VReg) (et : EType) (m : Mask) (q : Bool)
  /-- VNOT (R224). -/
  | vnot (sw : Bool) (vd : VReg) (va : VReg) (et : EType) (m : Mask) (q : Bool)
  /-- VSHL (R224). -/
  | vshl (sw : Bool) (vd : VReg) (va : VReg) (vb : VReg) (et : EType) (m : Mask) (q : Bool)
  /-- VSHR (R224). -/
  | vshr (sw : Bool) (vd : VReg) (va : VReg) (vb : VReg) (et : EType) (m : Mask) (q : Bool)
  /-- VSRA (R224). -/
  | vsra (sw : Bool) (vd : VReg) (va : VReg) (vb : VReg) (et : EType) (m : Mask) (q : Bool)
  /-- VLD (R225 to R228). -/
  | vld (sw : Bool) (vd : VReg) (s : Src) (et : EType) (m : Mask) (q : Bool)
  /-- VST (R225 to R228). -/
  | vst (sw : Bool) (vd : VReg) (s : Src) (et : EType) (m : Mask) (q : Bool)
  /-- VLDG (R225 to R228). -/
  | vldg (sw : Bool) (vd : VReg) (s : Src) (et : EType) (m : Mask) (q : Bool)
  /-- VSTG (R225 to R228). -/
  | vstg (sw : Bool) (vd : VReg) (s : Src) (et : EType) (m : Mask) (q : Bool)
  /-- VGATH (R225, R227, R228). -/
  | vgath (sw : Bool) (vd : VReg) (va : VReg) (s : Src) (et : EType) (m : Mask) (q : Bool)
  /-- VSCAT (R225, R227, R228). -/
  | vscat (sw : Bool) (vd : VReg) (va : VReg) (s : Src) (et : EType) (m : Mask) (q : Bool)
  /-- VBC (R231). -/
  | vbc (sw : Bool) (vd : VReg) (s : Src) (et : EType) (m : Mask) (q : Bool)
  /-- VEXT (R231). -/
  | vext (sw : Bool) (va : VReg) (s : Src) (et : EType) (q : Bool)
  /-- VMOV (R231). -/
  | vmov (sw : Bool) (vd : VReg) (va : VReg) (et : EType) (m : Mask) (q : Bool)
  /-- VCMP: writes predicate vd & 3 (R232). -/
  | vcmp (sw : Bool) (vd : VReg) (va : VReg) (vb : VReg) (cond : VCond) (et : EType) (m : Mask) (q : Bool)
  /-- VSEL (R233). -/
  | vsel (sw : Bool) (vd : VReg) (va : VReg) (vb : VReg) (et : EType) (m : Mask) (q : Bool)
  /-- VCVT: part p, target etype t (R236). -/
  | vcvt (sw : Bool) (vd : VReg) (va : VReg) (p : BitVec 3) (t : EType) (et : EType) (m : Mask) (q : Bool)
  /-- VRED (R237). -/
  | vred (sw : Bool) (va : VReg) (op : RedOp) (et : EType) (m : Mask) (q : Bool)
  /-- VSCAN (R238). -/
  | vscan (sw : Bool) (vd : VReg) (va : VReg) (op : ScanOp) (et : EType) (m : Mask) (q : Bool)
  /-- VCMPR (R239). -/
  | vcmpr (sw : Bool) (vd : VReg) (va : VReg) (et : EType) (m : Mask) (q : Bool)
  /-- VEXPD (R239). -/
  | vexpd (sw : Bool) (vd : VReg) (va : VReg) (et : EType) (m : Mask) (q : Bool)
  /-- VPERM (R239). -/
  | vperm (sw : Bool) (vd : VReg) (va : VReg) (vb : VReg) (et : EType) (m : Mask) (q : Bool)
  /-- VIOTA (R235). -/
  | viota (sw : Bool) (vd : VReg) (et : EType) (m : Mask) (q : Bool)
  /-- VCNT (R235). -/
  | vcnt (sw : Bool) (et : EType) (m : Mask) (q : Bool)
  /-- VMSK (R234). -/
  | vmsk (sw : Bool) (vd : VReg) (va : VReg) (vb : VReg) (op : MskOp) (et : EType) (q : Bool)
  /-- VAMAX (R240). -/
  | vamax (sw : Bool) (vd : VReg) (va : VReg) (et : EType) (m : Mask) (q : Bool)
  /-- VQNT: vb 0 blocked, 1 raw (R241). -/
  | vqnt (sw : Bool) (vd : VReg) (va : VReg) (raw : BitVec 3) (nf : Narrow) (et : EType) (m : Mask) (q : Bool)
  /-- VDQ (R242). -/
  | vdq (sw : Bool) (vd : VReg) (va : VReg) (raw : BitVec 3) (nf : Narrow) (et : EType) (m : Mask) (q : Bool)
  /-- VFLRD at etype s64 (R243). -/
  | vflrd (sw : Bool) (vd : VReg) (m : Mask) (q : Bool)
  /-- VFLCL at etype s64 (R243). -/
  | vflcl (sw : Bool) (m : Mask) (q : Bool)
  /-- VCVTZ (R236). -/
  | vcvtz (sw : Bool) (vd : VReg) (va : VReg) (p : BitVec 3) (t : EType) (et : EType) (m : Mask) (q : Bool)
  /-- TLD (R125). -/
  | tld (sw : Bool) (a : Src) (b : Src) (cc : Ctr) (det : Bool) (keep : Bool)
  /-- TLDV (R125, R127). -/
  | tldv (sw : Bool) (a : Src) (cc : Ctr) (v : VReg) (keep : Bool)
  /-- TST (R133). -/
  | tst (sw : Bool) (a : Src) (b : Src) (cc : Ctr) (det : Bool)
  /-- TSTV (R133). -/
  | tstv (sw : Bool) (a : Src) (b : Src) (cc : Ctr) (det : Bool) (v : VReg)
  /-- TALIAS (R135). -/
  | talias (sw : Bool) (a : Src) (b : Src) (cc : Ctr) (det : Bool)
  /-- TWAIT (R129). -/
  | twait (sw : Bool) (a : Src) (cc : Ctr) (det : Bool)
  /-- TPROBE (R130). -/
  | tprobe (sw : Bool) (a : Src) (cc : Ctr) (det : Bool)
  /-- TADD (R136). -/
  | tadd (sw : Bool) (a : Src) (b : Src) (cc : Ctr) (det : Bool)
  /-- TREL (R136). -/
  | trel (sw : Bool) (a : Src) (b : Src) (cc : Ctr) (det : Bool)
  /-- TDIG (R129). -/
  | tdig (sw : Bool) (a : Src) (cc : Ctr) (det : Bool) (hi : Bool)
  /-- TINFO (R132). -/
  | tinfo (sw : Bool) (a : Src) (cc : Ctr) (det : Bool)
  /-- TSPACE (R137). -/
  | tspace (sw : Bool) (a : Src) (b : Src) (cc : Ctr) (det : Bool)
  /-- TIMP (R134). -/
  | timp (sw : Bool) (a : Src) (b : Src) (cc : Ctr) (det : Bool)
  /-- TEXP (R128). -/
  | texp (sw : Bool) (a : Src) (b : Src) (cc : Ctr) (det : Bool) (keep : Bool)
  /-- MSET (R192). -/
  | mset (sw : Bool) (a : Src) (b : Src)
  /-- MGET (R192). -/
  | mget (sw : Bool) (a : Src)
  /-- MLDB (R199). -/
  | mldb (sw : Bool) (a : Src) (b : Src) (cc : Ctr) (det : Bool)
  /-- MMUL (R202). -/
  | mmul (sw : Bool) (a : Src) (b : Src) (cc : Ctr)
  /-- MCLR (R205). -/
  | mclr (sw : Bool) (a : Src) (b : Src) (cc : Ctr) (det : Bool) (wide : Bool)
  /-- MRD to scratchpad, format code f (R207). -/
  | mrd (sw : Bool) (a : Src) (b : Src) (cc : Ctr) (det : Bool) (f : BitVec 5)
  /-- MRD of the tile route (R207). -/
  | mrdTile (sw : Bool) (a : Src) (b : Src) (cc : Ctr) (det : Bool)
  /-- MWR, format code f (R206). -/
  | mwr (sw : Bool) (a : Src) (b : Src) (cc : Ctr) (det : Bool) (f : BitVec 5)
  /-- MRED (R209). -/
  | mred (sw : Bool) (a : Src) (cc : Ctr) (det : Bool) (v : VReg) (op : MRedOp)
  /-- MSCR (R210). -/
  | mscr (sw : Bool) (a : Src) (cc : Ctr) (det : Bool) (v : VReg)
  /-- MSCC (R210). -/
  | mscc (sw : Bool) (a : Src) (cc : Ctr) (det : Bool) (v : VReg)
  /-- MCMP: two keeps 2 of 8, else 4 of 8 (R211). -/
  | mcmp (sw : Bool) (a : Src) (b : Src) (cc : Ctr) (det : Bool) (two : Bool)
  /-- MSTAT (R212). -/
  | mstat (sw : Bool) (a : Src) (cc : Ctr) (det : Bool)
  /-- CSET (R342). -/
  | cset (sw : Bool) (a : Src) (b : Src)
  /-- CPY (R367). -/
  | cpy (sw : Bool) (a : Src) (b : Src) (cc : Ctr) (det : Bool)
  /-- CPYG (R366). -/
  | cpyg (sw : Bool) (a : Src) (b : Src) (cc : Ctr) (det : Bool)
  /-- CPYG_OUT (R366). -/
  | cpygOut (sw : Bool) (a : Src) (b : Src) (cc : Ctr) (det : Bool)
  /-- CPYD (R344). -/
  | cpyd (sw : Bool) (a : Src) (b : Src) (cc : Ctr) (det : Bool)
  /-- CPYD_LOC (R369). -/
  | cpydLoc (sw : Bool) (a : Src) (b : Src) (cc : Ctr) (det : Bool)
  /-- CFIL (R368). -/
  | cfil (sw : Bool) (a : Src) (b : Src) (cc : Ctr) (det : Bool)
  /-- CFIL_G (R368). -/
  | cfilG (sw : Bool) (a : Src) (b : Src) (cc : Ctr) (det : Bool)
  /-- SPAWN (R271). -/
  | spawn (sw : Bool) (a : Src) (b : Src)
  /-- SPAWNP (R246). -/
  | spawnp (sw : Bool) (a : Src) (b : Src)
  /-- SPAWNG (R272). -/
  | spawng (sw : Bool) (a : Src) (b : Src)
  /-- QUIT (R273). -/
  | quit (sw : Bool)
  /-- JOIN (R249, R275). -/
  | join (sw : Bool) (a : Src)
  /-- TRIG (R274). -/
  | trig (sw : Bool)
  /-- YIELD (R276). -/
  | yield (sw : Bool)
  /-- SLEEP (R277). -/
  | sleep (sw : Bool) (a : Src) (rel : Bool)
  /-- PPT (R278, R279). -/
  | ppt (sw : Bool) (a : Src) (mask : BitVec 15)
  /-- CTLRD (R340). -/
  | ctlrd (sw : Bool) (d : Dest) (cr : CReg)
  /-- CTLWR (R340). -/
  | ctlwr (sw : Bool) (a : Src) (cr : CReg)
  /-- A pushed value returns (R32, R33, R42); id names the operation. -/
  | resultReturn (id : Nat)
  /-- One cycle of a core: its barrel picks at most one ready thread (R258). -/
  | barrelIssueSlot (core : Nat)
  /-- A thread held at a counter of 255 may issue again (R39). -/
  | counterFullRelease (thread : Nat)
  /-- An engine command completes and lowers its counter (R90). -/
  | engineCompletion (id : Nat)
  /-- A write to its line wakes an MWAIT, which reads again (R87). -/
  | mwaitWake (id : Nat)
  /-- TIME reaches a sleeping thread (R277). -/
  | sleepWake (thread : Nat)
  /-- A store arrives at its home (R111). -/
  | tileStoreRegister (id : Nat)
  /-- A store waiting at its home may proceed (R112). -/
  | waitingStoreRelease (id : Nat)
  /-- A store becomes a PUBLISHED version and its waiters are served (R111, R22). -/
  | publication (id : Nat)
  /-- A load-class request arrives at its home (R114). -/
  | tileLoadRegister (id : Nat)
  /-- A TADD or TREL arrives at its home (R136). -/
  | tileUseChangeRegister (id : Nat)
  /-- A TPROBE arrives at its home (R130). -/
  | tileProbeRegister (id : Nat)
  /-- A request waiting for a free entry creates its name head (R106). -/
  | headCreate (id : Nat)
  /-- A load waiting for a waiter record registers (R116). -/
  | waiterRecordFree (id : Nat)
  /-- Served bytes arrive and are written (R125). -/
  | tileLoadComplete (id : Nat)
  /-- The bytes of a TIMP are complete (R134). -/
  | timpGatherComplete (id : Nat)
  /-- The source of a TALIAS is served (R135). -/
  | taliasSourceServed (id : Nat)
  /-- An MLDB starts in core order (R199). -/
  | mldbStart (id : Nat)
  /-- An MMUL starts in core order (R202). -/
  | mmulStart (id : Nat)
  /-- An attempt is squashed and the next rung starts (R181). -/
  | mmulSquash (id : Nat)
  /-- The final attempt ends: commit, or PRECISION (R182, R183). -/
  | mmulCommit (id : Nat)
  /-- A copy performs one 4 KiB unit (R366). -/
  | copyUnit (id : Nat)
  /-- A copy makes its flag add and completes (R366). -/
  | copyComplete (id : Nat)
  /-- A thread held at a full copy queue may issue (R370). -/
  | copyQueueAdmit (thread : Nat)
  /-- A cpyd.loc arrives at its target core (R369). -/
  | cpydLocArrival (id : Nat)
  /-- The task key of a SPAWNP is looked up (R246). -/
  | cellarLookup (id : Nat)
  /-- A write of ROTATE to CELKEY by the issuing thread (R295). -/
  | celkeyRotate
  /-- Every slice has digested anew (R295). -/
  | digestSweepDone (part : Nat)
  /-- The scrub finds an uncorrectable error in an extent (R291). -/
  | scrubError (extent : Nat)
  /-- Unstarted records move to another die (R254). -/
  | diePoolMove (src : Nat) (dst : Nat)
  /-- A gang reserves, yields or commits (R257). -/
  | gangReserve (gang : Nat)
  /-- A graph ends with a cause (R261). -/
  | graphEnd (graph : Nat) (cause : Cause)
  /-- A unit that has not stopped is reset (R315). -/
  | watchdog (graph : Nat) (id : Nat)
  /-- The next launch version of a name is served (R262). -/
  | launchVersionServed (id : Nat)
  /-- The oldest owed status write is made or dropped (R265). -/
  | statusWordWrite
  /-- A write of SLOTTAB by the issuing thread (R266). -/
  | slottabWrite (v : Word)
  /-- A start of a slot falls due (R267, R268). -/
  | slotStartDue (part : Nat) (slot : Nat)
  /-- A trap record is posted, or its graph ends (R302, R303). -/
  | trapPost (thread : Nat)
  /-- The hearth takes the next record (R308). -/
  | handlerStart (part : Nat)
  /-- A translation miss posts a fault record (R321). -/
  | pageFaultPost (fault : Nat)
  /-- A held fault posts when a slot frees (R324). -/
  | faultRecordRepost (part : Nat)
  /-- A posted record starts its pager (R322). -/
  | pagerStart (part : Nat) (rid : Nat)
  /-- A waiting record asks for a pre-emption (R256, R326). -/
  | preemptRequest (record : Nat)
  /-- The save of a marked victim at its PPT (R327). -/
  | saveWrite (thread : Nat)
  /-- A save finishes and its context is given away (R330). -/
  | saveComplete (thread : Nat)
  /-- A saved task is read into a context (R329). -/
  | restore (record : Nat) (core : Nat)
  /-- A core confirms the generation of a GENBUMP (R382). -/
  | genConfirm (id : Nat) (core : Nat)
  /-- A write to a read-duplicated page collapses it (R385). -/
  | dupCollapse (page : Nat) (die : Nat)
  /-- A private granule becomes shared (R386). -/
  | granuleRecall (granule : Nat)
  /-- The write of the named register by the issuing thread (R381). -/
  | ptbaseWrite (v : Word)
  /-- The write of the named register by the issuing thread (R381). -/
  | asidWrite (v : Word)
  /-- The write of the named register by the issuing thread (R316). -/
  | trapsaveWrite (v : Word)
  /-- The write of the named register by the issuing thread (R307). -/
  | hearthWrite (v : Word)
  /-- The write of the named register by the issuing thread (R341). -/
  | trapvecWrite (v : Word)
  /-- The write of the named register by the issuing thread (R320). -/
  | pagertabWrite (v : Word)
  /-- The write of the named register by the issuing thread (R324). -/
  | fbstatusWrite (v : Word)
  /-- The write of the named register by the issuing thread (R294). -/
  | celquotaWrite (v : Word)
  /-- The write of the named register by the issuing thread (R413). -/
  | ptpctlWrite (v : Word)
  /-- The write of the named register by the issuing thread (R35, R98). -/
  | fflagsWrite (v : Word)
  /-- The write of the named register by the issuing thread (R36). -/
  | vcsrWrite (v : Word)
  /-- The write of the named register by the issuing thread (R399). -/
  | partCtlSelWrite (v : Word)
  /-- Partition command CREATE on PART_CTL.SEL (R400). -/
  | create
  /-- Partition command COMMIT on PART_CTL.SEL (R400). -/
  | commit
  /-- Partition command MERGE on PART_CTL.SEL (R400). -/
  | merge
  /-- Partition command DESTROY on PART_CTL.SEL (R400). -/
  | destroy
  /-- The last task of a quiescing partition ends (R337). -/
  | partitionQuiesced (part : Nat)
  /-- The limit of a PQUI passes (R337). -/
  | pquiTimeout (id : Nat)
  /-- A host write of PUB, after the LTILE bytes that the host wrote since the last (R404, R405). -/
  | pub (vf : Nat) (v : Word) (ltile : List (Nat × Byte))
  /-- A host write of the LTOL of a VF (R414). -/
  | vfLtolWrite (vf : Nat) (v : Word)
  /-- H2D snoop SNP_DATA of a host line (R389). -/
  | snpData (line : Nat)
  /-- H2D snoop SNP_INV of a host line (R389). -/
  | snpInv (line : Nat)
  /-- H2D snoop SNP_CUR of a host line (R389). -/
  | snpCur (line : Nat)
  /-- A host CXL.mem access to device memory (R390); data none for a read. -/
  | hostMemRequest (line : Nat) (data : Option (List Byte)) (keeps : Bool)
  /-- A BIRsp for a line, with data if the host held it dirty (R390). -/
  | birsp (line : Nat) (data : Option (List Byte))
  /-- The host commits an HDM decoder (R390). -/
  | hdmDecoderCommit (dec : Nat) (base : Nat) (size : Nat)
  /-- A REQ flit for a partition of this package (R102). -/
  | linkReqReceive (src : BitVec 12) (part : Nat) (tag : Nat) (body : LinkReq)
  /-- An RSP flit returns a result (R115). -/
  | linkRspReceive (tag : Nat) (body : LinkRsp)
  /-- A NOTICE flit carries published bytes (R115). -/
  | arrivalNotice (tag : Nat) (body : LinkRsp)
  /-- An ATOM flit performs an atomic here (R81). -/
  | linkAtomReceive (src : BitVec 12) (part : Nat) (tag : Nat) (body : LinkAtom)
  /-- A FENCE flit orders remote accesses (R361). -/
  | linkFenceReceive (src : BitVec 12) (part : Nat) (tag : Nat)
  /-- An MGMT flit (R307, R413, R419). -/
  | linkMgmtReceive (src : BitVec 12) (body : LinkMgmt)
  /-- A link cannot train (R411). -/
  | linkDown (link : Nat)
  /-- A width request reaches the arbiter (R412). -/
  | linkWidthRequest (link : Nat) (lanes : Nat) (cycle : Nat)
  /-- A frequency change reaches the arbiter (R412). -/
  | linkFreqChange (link : Nat) (change : FreqChange)
  /-- A sample of the time source (R413). -/
  | ptpUpdate (part : Nat) (sample : Word)
  /-- An idle die enters the deepest state allowed (R415). -/
  | dieStateEntry (die : Nat)
  /-- A request wakes a die (R415). -/
  | dieWake (die : Nat)
  /-- Package reset with the boot image and configuration found (R417). -/
  | packageReset (boot : BootInput)
  /-- A verifier asks for evidence (R419). -/
  | evidenceRequest (nonce : BitVec 256) (mask : BitVec 8)
  /-- A firmware image is staged (R419). -/
  | firmwareStage (image : List Byte)
  /-- A fetched word that encodes no instruction (R52). -/
  | notAnInstruction (word : IWord)
  /-- An earlier write stands at its home (R84, R349). -/
  | writePerformed (id : Nat)
  /-- A failing lane narrows its link (R411). -/
  | laneFailure (link : Nat)
  /-- The host port or an expansion port goes down (R392). -/
  | cxlLinkDown (port : Nat)
  deriving DecidableEq, Repr

end Sys2Proof
end

