-- ==== Sys2Proof/Machine/State.lean ====
section
/-!
DEFINITION. The state of a Norengon 940 package: everything the specification gives it, as plain data, and the state
right after reset. INVENTORY.md lists every field with its rule and its reset value.
-/

namespace Sys2Proof.Machine

/-- A table by number; a number that is not listed holds the table's empty value. -/
abbrev Table (α : Type) := List (Nat × α)

/-- Bytes by address, in one canonical form: addresses strictly rising, no entry equal to 0. -/
abbrev Memory := List Host.Cell

/-- Why a step stops. -/
inductive Fault
  /-- Raised by exec of an instruction when the context that would issue it holds no thread. Safe: the specification
  describes no such issue, and step never makes one. -/
  | idleContext
  deriving DecidableEq, Repr

/-- Why an instruction has no meaning. -/
inductive Refusal
  /-- Raised by exec of an instruction that the model does not give a meaning to. Safe. -/
  | notModelled (mnemonic : String)
  deriving DecidableEq, Repr

/-- Privilege levels (R332). -/
inductive Level
  | user | sup | pkg
  deriving DecidableEq, Repr

/-- A queue slot (R32): the operation that pushed it and its value once returned. -/
structure QSlot where
  id : Nat
  val : Option Word
  deriving DecidableEq, Repr

/-- The modes a spawned task copies (R31). -/
structure Modes where
  ladder : Word
  budget : Word
  alpha : Word
  vrm : BitVec 3
  frm : BitVec 3
  deriving DecidableEq, Repr

/-- A range held in a core's scoreboard (R74, R189): scratchpad bytes lo to hi − 1, or accumulator slot lo. -/
structure LRange where
  acc : Bool
  lo : Nat
  hi : Nat
  wr : Bool
  deriving DecidableEq, Repr

/-- Where an operation stands with a page fault (R318): the access is waiting for this page. -/
structure FaultWait where
  va : Word
  write : Bool
  fetch : Bool
  deriving DecidableEq, Repr

/-- A run of bytes where it stands: here, on a read-duplicated page, by its first byte and size, or not, or on another device. -/
inductive Piece
  | here (keys : List Nat) (page : Option (Nat × Nat))
  | there (dev pa n : Nat)
  deriving DecidableEq, Repr

/-- An engine's unit whose bytes are moving under the translation of its start: read, or written from buf; the positions
left, and those that move together now, as requests to peers or bytes behind ports do (R348, R366). -/
structure Moving where
  wr : Bool
  ps : List Piece
  left : List (Nat × Nat)
  now : Option (List (Nat × Nat))
  buf : List Byte
  /-- Some of its bytes are written, so that no port can lose it any more (R366, R392). -/
  begun : Bool := false
  deriving DecidableEq, Repr

/-- Geometry and registers a copy command read at issue (R343, R364). -/
structure CopyGeo where
  rows : Nat
  rowBytes : Nat
  sstride : Nat
  dstride : Nat
  flag : Word
  flagadd : Word
  deriving DecidableEq, Repr

/-- One side of a copy: local rows by their scratchpad addresses, byte memory, a pattern, or a remote thread's window. -/
inductive CopySide
  | loc (rows : List Nat)
  | mem (va : Word)
  | pattern (v : Word)
  | far (core : Nat) (ctx : Nat) (laddr : Nat)
  deriving DecidableEq, Repr

/-- A copy command (R366): units done, the queue it uses, its place in the order of acceptance there (R370), 0 without a queue,
and once it arrived its order number and rows at the target core (R369). -/
structure CopyCmd where
  geo : CopyGeo
  src : CopySide
  dst : CopySide
  done : Nat
  queue : Option Nat
  order : Nat
  arrived : Option (Nat × List Nat)
  deriving DecidableEq, Repr

/-- A bind source (R171, R172). -/
inductive BindSrc
  | scratch (addr : Nat)
  | tile (extent : Nat)
  deriving DecidableEq, Repr

/-- The bind of a matrix unit (R171): rows and cols as stored, the presence bytes, and a scratchpad source's bytes
as the bind and its attempts found them (R28). -/
structure Bind where
  src : BindSrc
  fmt : Nat
  blocked : Bool
  kByN : Bool
  shape : Nat
  k : Nat
  n : Nat
  sparse : Nat
  rows : Nat
  cols : Nat
  presence : List Byte
  olds : List (List Byte)
  deriving DecidableEq, Repr

/-- Where MMUL takes A from (R173). -/
inductive ASrc
  | scratch (addr : Nat)
  | tile (handle : Word)
  | mem (va : Word)
  deriving DecidableEq, Repr

/-- The words an MMUL read at issue (R141, R200). -/
structure MulCmd where
  src : ASrc
  fmt : Nat
  blocked : Bool
  stride : Nat
  m : Nat
  n : Nat
  k : Nat
  mode : Nat
  sparse : Bool
  slots : List Nat
  wide : Bool
  ladder : Word
  budget : Word
  alpha : Word
  deriving DecidableEq, Repr

/-- Events and flags of one attempt (R179, R186). -/
structure Counts where
  sat : Nat
  unf : Nat
  can : Nat
  nonfin : Nat
  flags : BitVec 5
  deriving DecidableEq, Repr

/-- The attempt of an MMUL (R181 to R187): its rung, the number of attempts, the cause of the last squash (0 none, 1 SAT,
2 UNF, 3 CAN, 4 NONFIN), whether it has run to its end or its stop, the count that passed its budget first, the row of A it is at,
the K blocks of that row that are complete and the accumulators of the row as they stand, its counts, the inactive copies of its
slots; the blocks of a byte-memory A as earlier reads of the op found them, by row and block (R184); its place among the free
draws. -/
structure Attempt where
  rung : Nat
  attempts : Nat
  lastCause : Nat
  ran : Bool
  passed : Nat
  row : Nat
  blocks : Nat
  accs : List Nat
  counts : Counts
  copies : Memory
  seen : Table (List (List Byte))
  draw : Nat
  deriving DecidableEq, Repr

/-- A matrix command other than MMUL and MLDB, with what it read at issue. -/
inductive MxCmd
  | clr (slots : List Nat) (wide : Bool)
  | rd (slots : List Nat) (wide : Bool) (m n : Nat) (fmt : Nat) (dst : Nat)
  | rdTile (slots : List Nat) (wide : Bool) (m n : Nat) (handle : Word) (uses : Nat)
  | wr (slots : List Nat) (wide : Bool) (m n : Nat) (fmt : Nat) (src : Nat)
  | red (slots : List Nat) (wide : Bool) (m n : Nat) (op : MRedOp) (v : VReg) (rm : BitVec 3)
  | scale (slots : List Nat) (wide : Bool) (m n : Nat) (cols : Bool) (v : VWord) (rm : BitVec 3)
  | cmp (fmt n k : Nat) (two : Bool) (src dst metaAddr : Nat)
  | stat (which : Nat)
  deriving DecidableEq, Repr

/-- A pure task's declaration (R244 to R248). -/
structure PureTask where
  strict : Bool
  args : List Word
  outs : List Word
  uses : List Nat
  key : Option Digest
  keyNo : Nat
  violated : Bool
  published : List Nat
  /-- Outputs published: which, its extent and its header (R248). -/
  held : List (Nat × Nat × BitVec 12)
  deriving DecidableEq, Repr

/-- A SPAWNP in progress (R246). -/
structure SpawnpCmd where
  entry : Word
  len : Nat
  strict : Bool
  block : List Byte
  args : List Word
  scal : List Word
  outs : List Word
  uses : List Nat
  place : Word
  taskId : Nat
  modes : Modes
  digests : Table Digest
  /-- The code digest and the code generation as read at issue (R287), and the key under which the digests are. -/
  code : Option Digest
  gen : Word
  keyNo : Nat
  hits : List Nat
  hit : Bool
  failed : Option (Cause × Word)
  deriving DecidableEq, Repr

/-- What an operation in flight has still to do. -/
inductive OpBody
  /-- A computed value and the flags it raises (R98). -/
  | value (v : Word) (flags : BitVec 5)
  /-- LD, and LDPC with code true. -/
  | load (va : Word) (n : Nat) (signed code : Bool)
  | lload (addr n : Nat) (signed : Bool)
  | store (va : Word) (bytes : List Byte)
  | lstore (addr : Nat) (bytes : List Byte)
  | atomic (va : Word) (op : AtomOp) (n : Nat) (operand expected : Word) (acq rel : Bool) (scope : AmoScope)
  | mwait (va bound : Word)
  /-- A tile request whose bytes, when served, go to a local address, vector registers or byte memory. -/
  | tileLocal (dst : Nat)
  | tileVec (v : VReg)
  | tileMem (va : Word) (rowstep : Nat) (done : Nat)
  /-- A tile request without bytes at this end; acq: its answer acquires (R139). -/
  | tile (acq : Bool)
  /-- A TIMP gathering rows from byte memory (R134). -/
  | gather (va : Word) (rowstep : Nat) (bytes : List Byte)
  | tspace (remove : Bool) (id : Nat) (descr : List Byte)
  /-- The bind to be made, a tile source's handle, the address of its presence bytes, the rung for the macros. -/
  | mldb (b : Bind) (handle : Option Word) (metaAddr rung : Nat)
  | mmul (c : MulCmd) (att : Option Attempt)
  | mx (c : MxCmd)
  | copy (c : CopyCmd)
  /-- A vector instruction in the pipe, with its scalar source and rounding mode as read at issue (R220). -/
  | vec (i : Instr) (x : Word) (rm : BitVec 3)
  /-- VLDG, or with spread VGATH: lanes and addresses still to be performed; lanes performed. -/
  | vget (v : VReg) (w : Nat) (spread : Bool) (lanes : List (Nat × Word)) (done : List Nat)
  /-- VSTG, or with spread VSCAT. -/
  | vput (w : Nat) (spread : Bool) (lanes : List (Nat × Word)) (data : VWord) (done : List Nat)
  | genbump (part : Nat) (asid : BitVec 16) (g : BitVec 32) (waits : List Nat)
  /-- loc: the source is local, at src if it lies in the windows. -/
  | pgdone (rid : Nat) (loc : Bool) (src : Option Nat) (va : Word)
  | pqui (part : Nat) (limit : Option Word)
  | join (graph idx : Nat)
  | spawnp (c : SpawnpCmd)
  /-- Bytes that an instruction needs at its issue, on another device: a word of code or a pure entry record. -/
  | early (va : Word) (n : Nat) (code : Bool)
  deriving DecidableEq, Repr

/-- An operation in flight, in issue order by id; id is also its queue slot's. -/
structure Op where
  id : Nat
  tid : Nat
  part : Nat
  task : Nat
  level : Level
  asid : BitVec 16
  pc : Word
  insn : IWord
  /-- It leaves a result outstanding: a slot to fill, a named register or a vector register to write (R42). -/
  push : Bool
  named : Dest
  eng : Bool
  cc : Option Ctr
  opA : Word
  opB : Word
  ranges : List LRange
  fault : Option FaultWait
  /-- Requests to peers are sent, and what has been answered (R361); a tile request has been answered. -/
  asked : Bool
  /-- The devices that its requests went to, by their numbers (R411). -/
  peers : List (Nat × Nat) := []
  replies : Table (List Byte)
  ready : Bool
  result : Word
  moving : Option Moving
  body : OpBody
  /-- Its write is the first that a REL or FULL fence of this scope holds back (R353). -/
  rel : Option AgentScope := none
  /-- Writes of it that wait at the writer for the collapse of a read-duplicated page, by their addresses, as they were translated when
  they were met: their bytes at home and the page (R382, R385). -/
  held : Table (List Nat × Option (Nat × Nat)) := []
  /-- Its first issue, if it has issued again after a trap: its place among the traps of its group (R304, R309). -/
  first : Option Nat := none
  deriving DecidableEq, Repr

/-- Who is answered when a tile request is served or refused. -/
inductive Origin
  | op (id : Nat)
  | vf (vf : Nat)
  | peer (dev : Nat) (tag : Nat)
  | hitOutput (op : Nat) (k : Nat)
  | argDigest (op : Nat) (k : Nat)
  /-- The die scheduler's load of a launch name (R262). -/
  | launch
  deriving DecidableEq, Repr

/-- Where a tile request stands at its home. -/
inductive Phase
  | travelling | waitHead | waitRecord | waiter | waitStore | gathering | pending
  /-- Its version is published; loads that registered before are still to be served (R22, R116). -/
  | closing
  /-- Sent to a home on another package; registered there. -/
  | away | remote
  /-- Served: its bytes are on their way, or its source is held (R108, R135). -/
  | served (extent : Nat)
  deriving DecidableEq, Repr

/-- A tile request (R20, R111, R114): the list of them is in registration order. -/
structure Req where
  id : Nat
  part : Nat
  space : Nat
  index : Nat
  version : BitVec 16
  header : BitVec 12
  body : TileBody
  origin : Origin
  tid : Nat
  graph : Nat
  asid : BitVec 16
  phase : Phase
  counted : Bool
  target : Word
  /-- The device and partition there that it was sent to (R119). -/
  sentTo : Option (Nat × Nat) := none
  deriving DecidableEq, Repr

/-- A trap that a thread owes or has posted (R303 to R305). op is the refused operation, none for a trap at issue; seq is the
SEQ of its record once posted. -/
structure TrapRec where
  id : Nat
  cause : Cause
  code : Nat
  eng : Bool
  pc : Word
  insn : IWord
  opA : Word
  opB : Word
  addr : Word
  token : Word
  /-- What resume-next leaves: a slot holding 0, and 0 in this register. -/
  pushes : Bool
  named : Dest
  /-- The instruction ends its group. -/
  ends : Bool
  op : Option Op
  seq : Nat
  /-- The refused tile request. -/
  req : Option Req
  /-- The A and B sources of a check at issue, whose results may still be outstanding: they are read as the record is made (R303,
  R305). -/
  srcs : Option Src × Option Src := (none, none)
  /-- The first issue of an operation that has issued again (R304, R309). -/
  first : Option Nat := none
  deriving DecidableEq, Repr

/-- Why a thread issues nothing. -/
inductive Park
  | run
  /-- It issues the same instruction again once nothing of it is outstanding or in flight (QUIT, PPT). -/
  | drain
  /-- It goes on once these operations are awaited no more (R84). -/
  | ops (ids : List Nat)
  /-- An ACQ or FULL fence of this scope: it acquires once these operations are awaited no more (R84, R356, R357). -/
  | fence (full : Bool) (scope : AgentScope) (ids : List Nat)
  /-- A task whose spawner has these accesses still to perform: the fork edge puts them before its own (R283, R353). -/
  | forked (ids : List Nat)
  /-- It issues the same instruction again once these operations are gone (R74). -/
  | gone (ids : List Nat)
  | counter (k : Ctr) (below : Nat)
  | counterFull (k : Ctr)
  | copyQueue (pair : Nat)
  | sleep (until_ : Word)
  | product (id : Nat)
  /-- It has yielded to these threads, each with the tick of its placement (R276). -/
  | yielded (others : List (Nat × Nat))
  | trapped
  /-- It issues the same instruction again once this page is there. -/
  | fetch (w : FaultWait)
  /-- At a PPT that takes effect: its named mask, its live list, its save record, and whether it is written; until then R279's
  waits may not be met (R279, R327). -/
  | saving (mask : BitVec 15) (list : List Word) (save : Nat) (done : Bool)
  deriving DecidableEq, Repr

/-- A REL or FULL fence whose first held write is still to come (R84, R353): the operations awaited, the storage whose writes it
holds back, its scope. -/
structure RelHold where
  ids : List Nat
  mask : BitVec 3
  scope : AgentScope
  deriving DecidableEq, Repr

/-- One thread context (R31, R251). -/
structure Thread where
  live : Bool
  part : Nat
  level : Level
  graph : Nat
  index : Nat
  prio : Nat
  asid : BitVec 16
  place : Word
  pc : Word
  queue : List QSlot
  named : Vector Word 16
  vec : Vector VWord 8
  pred : Vector (BitVec 256) 4
  fflags : BitVec 8
  vrm : BitVec 3
  vflags : BitVec 160
  geom : Word
  amode : Word
  ladder : Word
  budget : Word
  alpha : Word
  sparse : Word
  cpShape : Word
  cpSstride : Word
  cpDstride : Word
  cpFlag : Word
  cpFlagadd : Word
  cpQueue : Word
  winBase : Nat
  winSize : Nat
  gangBase : Nat
  gangSize : Nat
  slots : List Nat
  gang : Option Nat
  pushes : Nat
  written : BitVec 16
  vpend : BitVec 8
  marker : Bool
  park : Park
  stopped : Bool
  owed : List TrapRec
  posted : Option TrapRec
  /-- A refused command that issues again and is held there: its counter stands at 255, or its queue is full (R39, R309, R370). -/
  again : Option TrapRec
  /-- The wait that a posted trap interrupts. -/
  under : Park
  holds : List RelHold
  readySince : Nat
  placedAt : Nat
  /-- A pre-emption is pending: 0 for a slot start at its PPT, else the waiting record's id plus 1. -/
  marked : Option Nat
  pureTask : Option PureTask
  pagerOf : Option Nat
  handling : Option Nat
  /-- What an early read brought. -/
  fetched : Option IWord
  entryRec : List Byte
  deriving DecidableEq, Repr

/-- An older copy of a line that an L1 may still return (R349): its bytes; the dies that the write after it has reached
by an order of R353, one bit each; an agent of the L1's own core wrote it; the thread that alone wrote it, if no release
of wide scope has followed. (DESIGN CHOICE, log 63) -/
structure Older where
  bytes : List Byte
  seen : BitVec 8
  near : Bool
  writer : Option Nat
  deriving DecidableEq, Repr

/-- A release of narrow scope whose write is the latest of its bytes (R354): its thread and scope, the lines that its thread had
written and that L1s hold in older copies, and the threads beyond its scope that have read it. (DESIGN CHOICE, log 63) -/
structure Release where
  tid : Nat
  scope : AgentScope
  keys : List Nat
  lines : List Nat
  readers : List Nat
  deriving DecidableEq, Repr

/-- A FULL fence that is past, and the accesses before it that it did not wait for (R356). -/
structure FullFence where
  tid : Nat
  scope : AgentScope
  ids : List Nat
  deriving DecidableEq, Repr

/-- One core (R10, R13, R39, R171, R212, R254). -/
structure Core where
  cc : Vector (BitVec 8) 16
  slot : Nat
  cycles : Word
  last : Vector Nat 4
  mxc : Vector Word 10
  bind : Option Bind
  heldRung : Option Nat
  scratch : Memory
  /-- Active copy of accumulator slot s: its 16 KiB at 16384·s. -/
  acc : Memory
  wide : List Nat
  /-- Lines the L1 holds, and older copies it may still return (R349). -/
  l1 : List Nat
  stale : Table Older
  /-- Cached translations: partition, ASID, first address, size, leaf entry. -/
  tlb : List (Nat × BitVec 16 × Nat × Nat × Word)
  deriving DecidableEq, Repr

/-- The layout of a partition (R395, R396, R398, R399). -/
structure Layout where
  groups : BitVec 28
  il : Word
  nb : Word
  vtshare : Nat
  deriving DecidableEq, Repr

/-- States of a partition (R399). -/
inductive PState
  | undefined | running | quiescing | quiesced
  deriving DecidableEq, Repr

/-- An ASID table entry (R381). -/
structure AsidEntry where
  root : Word
  gen : BitVec 32
  deriving DecidableEq, Repr

/-- A slot of the time-triggered table as armed (R267, R268). (DEDUCED, log 52) -/
structure TSlot where
  armed : Bool
  start : Word
  period : Word
  entry : Word
  arg : Word
  place : Word
  policy : Nat
  nextK : Nat
  /-- The graphs of its instances that run, the youngest first. -/
  running : List Nat
  /-- A start that is held or waits for a pre-emption: its k. -/
  pending : Option Nat
  deriving DecidableEq, Repr

/-- A posted page-fault record (R321). -/
structure FaultRec where
  rid : BitVec 32
  slot : Nat
  thread : Nat
  task : Nat
  asid : BitVec 16
  page : Word
  size : Nat
  perm : Nat
  mclass : Nat
  pidx : Nat
  place : Word
  entry : Word
  started : Bool
  graph : Nat
  deriving DecidableEq, Repr

/-- A save record held in the pool (R327, R328): its place and size in the pool, and the state saved. -/
structure SaveRec where
  offset : Nat
  size : Nat
  deriving DecidableEq, Repr

/-- A trap record in the trap queue (R308): the thread id of TID, which names its package too, its SEQ here and where it was posted
(R305), the core whose context 15 handles it (R307), and its words. -/
structure QueuedTrap where
  tid : Nat
  seq : Nat
  own : Nat
  asid : BitVec 16
  cause : Nat
  task : Nat
  core : Nat
  words : List Word
  deriving DecidableEq, Repr

/-- A partition (R24, R251, R286, R296, R307 to R325, R341, R381, R394 to R400). -/
structure Partition where
  state : PState
  layout : Layout
  staged : Layout
  msrc : Nat
  result : Nat
  time : Word
  sub : Nat
  /-- ns still to be slewed, and ns since the last ns slewed (R413). -/
  slew : Int
  slewIn : Nat
  ptpctl : Word
  ptpLock : Bool
  trapvec : Word
  hearth : Word
  trapsave : Word
  areaAsid : BitVec 16
  fbbase : Word
  fbOvf : Bool
  ovfOwed : Bool
  fbheld : Word
  pagertab : Word
  pagerAsid : BitVec 16
  celquota : BitVec 18
  celEpoch : BitVec 16
  /-- Slices still to be swept after a rotation (R295). -/
  sweepLeft : List Nat
  keyNo : Nat
  codeGen : Word
  celHit : Word
  celMiss : Word
  celIns : Word
  celDemote : Word
  celEvict : Word
  vtStall : Word
  vtWonce : Word
  vtWaits : Word
  dupCollapse : Word
  slottab : Word
  slotAsid : BitVec 16
  tslots : Table TSlot
  ltol : BitVec 32
  asids : Table AsidEntry
  nextGraph : BitVec 32
  /-- Every graph id has been given once: ids come round again (R251). -/
  wrapped : Bool
  gangSeq : Nat
  launch : Table Nat
  trapSeq : BitVec 32
  trapQueue : List QueuedTrap
  hearthBusy : Option QueuedTrap
  stopCount : Word
  saves : Table SaveRec
  faults : List FaultRec
  fbPosts : Nat
  heldFaults : List Nat
  /-- Frames of the supervisor's pool: class, address, bytes. -/
  frames : List (Nat × Nat × Nat)
  deriving DecidableEq, Repr

/-- A task of a graph, for JOIN, TRIG and completion (R249, R259, R260). -/
structure TaskInfo where
  idx : Nat
  triggered : Bool
  quit : Bool
  deriving DecidableEq, Repr

/-- A graph (R251, R259 to R265). -/
structure Graph where
  part : Nat
  id : Nat
  next : Nat
  tasks : List TaskInfo
  released : Bool
  ended : Option Cause
  status : Word
  entry : Word
  asid : BitVec 16
  pred : Option Nat
  slot : Option Nat
  /-- Refused as a dependant (R261). -/
  refused : Bool
  /-- The cause that it ends with is fatal, or was handled as one (R302, R311, R315). -/
  fatal : Bool := false
  deriving DecidableEq, Repr

/-- Where a record waits (R254, R257). -/
inductive Pool
  | deque (core : Nat)
  | die (d : Nat)
  | gang (g : Nat)
  | blocked
  deriving DecidableEq, Repr

/-- A placement record (R251, R254, R271). -/
structure Record where
  id : Nat
  part : Nat
  graph : Nat
  index : Nat
  place : Word
  entry : Word
  args : List Word
  modes : Modes
  asid : BitVec 16
  pool : Pool
  block : List Byte
  pureTask : Option PureTask
  pagerOf : Option Nat
  saved : Option Nat
  requested : Bool
  /-- The die whose scheduler formed it. -/
  home : Nat
  /-- Operations of the spawner whose accesses the fork edge puts before the task's (R283). -/
  waits : List Nat
  deriving DecidableEq, Repr

/-- A gang being placed or running on one core (R257, R140). -/
structure Gang where
  id : Nat
  part : Nat
  seq : Nat
  one : Bool
  size : Nat
  place : Word
  /-- Core, context, window and slots of each member reserved. -/
  reserved : List (Nat × Nat × Nat × List Nat)
  gangBase : Nat
  slots : List Nat
  core : Nat
  running : Nat
  deriving DecidableEq, Repr

/-- A tile space (R102). -/
structure Space where
  part : Nat
  id : Nat
  home : Nat
  die : Nat
  device : Nat
  rpart : Nat
  backing : Nat
  purity : Bool
  rspace : Nat
  rmap : Bool
  vquota : Nat
  equota : Nat
  deriving DecidableEq, Repr

/-- A name head (R106). -/
structure Head where
  part : Nat
  space : Nat
  index : Nat
  hi : BitVec 16
  lo : BitVec 16
  deriving DecidableEq, Repr

/-- States of a version table entry (R105, R107). -/
inductive VState
  | pending | published | dead
  deriving DecidableEq, Repr

/-- A version table entry (R105, R124). -/
structure Entry where
  part : Nat
  space : Nat
  index : Nat
  version : BitVec 16
  state : VState
  uses : Nat
  header : BitVec 12
  extent : Nat
  digest : Digest
  asid : BitVec 16
  deriving DecidableEq, Repr

/-- An extent (R101, R108, R117): its bytes, granules, references, backing (0 SRAM, 1 HBM, 2 CXL), and the frame of the pool
that holds it. -/
structure Extent where
  bytes : List Byte
  gran : Nat
  refs : Nat
  back : Nat
  slice : Nat
  frame : Nat
  bad : Bool
  deriving DecidableEq, Repr

/-- A cellar entry (R288). -/
structure CellarEntry where
  part : Nat
  slice : Nat
  set : Nat
  key : Digest
  outs : List (BitVec 12 × Nat × Digest)
  inserted : Nat
  lastHit : Nat
  deriving DecidableEq, Repr

/-- A cached code digest, tagged by partition, ASID, ENTRY, LEN and code generation (R286). -/
structure CodeEntry where
  die : Nat
  part : Nat
  asid : BitVec 16
  entry : Word
  len : Nat
  gen : Word
  digest : Digest
  deriving DecidableEq, Repr

/-- A status word write that is owed (R264, R265). -/
structure OwedStatus where
  id : Nat
  part : Nat
  asid : BitVec 16
  va : Word
  value : Word
  graph : Nat
  entry : Word
  /-- It waits for its page; its page will not come. -/
  waiting : Bool
  failed : Bool
  deriving DecidableEq, Repr

/-- A virtual function (R403 to R405). -/
structure VirtFn where
  bound : Option (Nat × BitVec 16)
  ltol : BitVec 32
  ltile : Memory
  busy : Bool
  stat : Nat
  deriving DecidableEq, Repr

/-- A request to a peer that no operation makes: a status word write, the read of a table of slots, or a unit's own write or
count (R265 to R267, R383). -/
inductive UnitAsk
  | status (x : OwedStatus)
  | slots (part : Nat)
  | put (part : Nat)
  deriving DecidableEq, Repr

/-- An access of a unit without a core that waits for lines the host holds (R390): a write, a count in a table of slots, the read of
one. -/
inductive UnitJob
  | put (va : Word) (bytes : List Byte)
  | count (va : Word) (n : Nat)
  | slots (va : Word)
  deriving DecidableEq, Repr

/-- An access of a unit for a partition, under an ASID. -/
structure UnitWork where
  part : Nat
  asid : BitVec 16
  job : UnitJob
  deriving DecidableEq, Repr

/-- What the L2 homes ask of the host on CXL.cache (R389). -/
inductive D2H
  | rdShared | rdOwn | rdOwnNoData | itoMWr | dirtyEvict | cleanEvict
  deriving DecidableEq, Repr

/-- What leaves the package: a flit payload for a peer (R409: class, destination, partition there, tag), or a request to the
host (R389, R390). (DEDUCED, log 39) -/
inductive Sent
  | req (dst part tag : Nat) (body : LinkReq)
  | rsp (dst tag : Nat) (body : LinkRsp)
  | notice (dst tag : Nat) (body : LinkRsp)
  | atom (dst part tag : Nat) (body : LinkAtom)
  | fence (dst part tag : Nat)
  | mgmt (dst : Nat) (body : LinkMgmt)
  | evidence (dst : Nat) (bytes : List Byte)
  | d2h (req : D2H) (line : Nat)
  /-- The answer to a snoop of the host, with the line's data where the device owns it (R389). -/
  | snpRsp (line : Nat) (data : Option (List Byte))
  /-- The data of a CXL.mem read of the host; none where they are bad (R76, R390). -/
  | memData (line : Nat) (data : Option (List Byte))
  /-- What the host reads in the register block of a virtual function (R403, R404). -/
  | vfData (vf off : Nat) (v : Word)
  | biSnp (inv : Bool) (line : Nat)
  deriving DecidableEq, Repr

/-- A Foldemund link (R408, R411, R412). (DESIGN CHOICE, log 41) -/
structure Link where
  up : Bool
  lanes : Nat
  freq : Nat
  retrains : Nat
  /-- Devices that the fabric does not reach through it (R409, R411). -/
  cut : List Nat
  /-- The cycle of its last frequency change (R412). -/
  freqAt : Option Nat
  deriving DecidableEq, Repr

/-- An HDM decoder (R390). -/
structure HdmDecoder where
  base : Nat
  size : Nat
  deriving DecidableEq, Repr

/-- Classes of a granule (R386). -/
inductive Granule
  | priv (core : Nat)
  | shared
  deriving DecidableEq, Repr

/-- The package but for its trust state. nextId, draws, tick, cur and insn are the model's own (DESIGN CHOICE, log 58). -/
structure Chip where
  device : BitVec 12
  liveDies : BitVec 8
  dieState : Vector Nat 8
  portUp : Vector Bool 3
  /-- Bytes of memory that package firmware found behind expansion ports 0 and 1 at boot (R391). -/
  portSize : Vector Nat 2
  threads : Table Thread
  cores : Table Core
  parts : Table Partition
  sel : Nat
  graphs : List Graph
  records : List Record
  gangs : List Gang
  mem : Memory
  granules : Table Granule
  /-- Granules marked digested-code: the partition, the first granule of the frame, and how many (R286, R384). -/
  marks : List (Nat × Nat × Nat)
  /-- The dies' caches of code digests, 64 on each, the newest first (R286). -/
  codeCache : List CodeEntry
  releases : List Release
  fulls : List FullFence
  /-- Read-duplicated pages that have collapsed to one copy: the page, the die of the writer, the bytes of the page (R385). -/
  collapsed : List (Nat × Nat × Nat)
  poison : List Nat
  /-- Lines of device memory the host holds, and whether it may have changed them (R390). -/
  hostLines : Table Bool
  /-- Lines the host holds, oldest first (R390). -/
  hostOrder : List Nat
  /-- Lines asked back from the host: BISnpInv true, BISnpData false. -/
  snooped : Table Bool
  /-- Lines of host memory that the L2 homes hold, and whether they own them; of others the host alone knows the bytes (R389). -/
  devLines : Table Bool
  decoders : Table HdmDecoder
  spaces : List Space
  heads : List Head
  entries : List Entry
  extents : Table Extent
  reqs : List Req
  cellar : List CellarEntry
  vfs : Table VirtFn
  owedStatus : List OwedStatus
  unitAsks : Table UnitAsk
  /-- Accesses of units that wait for the host, each partition's in their order (R390). -/
  unitWork : List UnitWork
  links : Table Link
  sent : List Sent
  ops : List Op
  /-- Units of ended graphs that have not reached their stop point (R315). -/
  hung : List Op
  nextId : Nat
  draws : Nat
  tick : Nat
  cur : Nat
  insn : IWord
  deriving DecidableEq, Repr

/-- Boot, measurement and evidence (R417 to R419): each MEAS register is 64 bytes. -/
structure Trust where
  recovery : Bool
  cxlOpen : Bool
  image : List Byte
  staged : Option (List Byte)
  meas : Vector (BitVec 512) 8
  evidence : List (List Byte)
  deriving DecidableEq, Repr

/-- A happening outside the package that reaches it: as the row of the opcode table of its name describes it, but for a host's
access to LTILE or its read of a register block and for data that go bad, which have no row. (DEDUCED, log 39) -/
inductive Input
  | scrubError (extent : Nat)
  | pub (vf : Nat) (v : Word) (ltile : List (Nat × Byte))
  | vfLtol (vf : Nat) (v : Word)
  /-- The host writes bytes of LTILE (R404). -/
  | vfTile (vf : Nat) (bytes : List (Nat × Byte))
  /-- The host reads a word of a register block (R403, R404). -/
  | vfRead (vf off : Nat)
  /-- Data of a line of memory go bad: an uncorrectable error, or poison that a port brings (R76, R392). -/
  | poison (line : Nat)
  | snpData (line : Nat)
  | snpInv (line : Nat)
  | snpCur (line : Nat)
  | hostMem (line : Nat) (data : Option (List Byte)) (keeps : Bool)
  | birsp (line : Nat) (data : Option (List Byte))
  | hdmCommit (dec : Nat) (base : Nat) (size : Nat)
  | linkReq (src : BitVec 12) (part : Nat) (tag : Nat) (body : LinkReq)
  | linkRsp (tag : Nat) (body : LinkRsp)
  | notice (tag : Nat) (body : LinkRsp)
  | linkAtom (src : BitVec 12) (part : Nat) (tag : Nat) (body : LinkAtom)
  | linkFence (src : BitVec 12) (part : Nat) (tag : Nat)
  | linkMgmt (src : BitVec 12) (body : LinkMgmt)
  | linkDown (link : Nat)
  | laneFailure (link : Nat)
  | widthRequest (link : Nat) (lanes : Nat) (cycle : Nat)
  | freqChange (link : Nat) (freq : Nat) (cycle : Nat)
  | ptp (part : Nat) (sample : Word)
  | cxlDown (port : Nat)
  | reset (boot : BootInput)
  | evidence (nonce : BitVec 256) (mask : BitVec 8)
  | stage (image : List Byte)
  deriving DecidableEq, Repr

/-- The machine. issuing is the context the barrel has picked; inputs are the happenings outside that have come up. -/
structure State where
  chip : Chip
  trust : Trust
  issuing : Option Nat
  inputs : List Input
  deriving DecidableEq, Repr

/-- SWEEP: a re-digest sweep runs (R295). -/
def Partition.celSweep (q : Partition) : Bool := !q.sweepLeft.isEmpty

/-- The modes of a task that is not spawned (R31): ladder 0x22, budget, alpha 1.0, RNE. (DESIGN CHOICE, log 1) -/
def Modes.initial : Modes :=
  { ladder := 0x22, budget := 0x0000000CFFFFFFFF, alpha := 0x3FF0000000000000, vrm := 0, frm := 0 }

/-- A context that holds no thread: every register at the value R31 gives at task start, or 0. (DESIGN CHOICE, log 1) -/
def Thread.empty : Thread :=
  { live := false, part := 0, level := .user, graph := 0, index := 0, prio := 0, asid := 0, place := 0, pc := 0,
    queue := [], named := Vector.replicate 16 0, vec := Vector.replicate 8 0,
    pred := Vector.replicate 4 0, fflags := 0, vrm := 0, vflags := 0, geom := 0, amode := 0,
    ladder := 0x22, budget := 0x0000000CFFFFFFFF, alpha := 0x3FF0000000000000, sparse := 0, cpShape := 0,
    cpSstride := 0, cpDstride := 0, cpFlag := 0, cpFlagadd := 0, cpQueue := 0, winBase := 0, winSize := 0,
    gangBase := 0, gangSize := 0, slots := [], gang := none, pushes := 0, written := 0, vpend := 0, marker := false,
    park := .run, stopped := false, owed := [], posted := none, again := none, under := .run, holds := [], readySince := 0, placedAt := 0,
    marked := none, pureTask := none, pagerOf := none, handling := none, fetched := none, entryRec := [] }

/-- A core after package reset: counters and MXC counters 0 (R39, R212), no bind (R171). (DESIGN CHOICE, log 1) -/
def Core.empty : Core :=
  { cc := Vector.replicate 16 0, slot := 0, cycles := 0, last := Vector.replicate 4 15, mxc := Vector.replicate 10 0,
    bind := none, heldRung := none, scratch := [], acc := [], wide := [], l1 := [], stale := [], tlb := [] }

/-- The reset layout of the staged registers (R395, R396, R398, R399). -/
def Layout.empty : Layout := { groups := 0, il := 0, nb := 0, vtshare := 0 }

/-- A partition that is not defined (R399). (DESIGN CHOICE, log 1) -/
def Partition.empty : Partition :=
  { state := .undefined, layout := .empty, staged := .empty, msrc := 0, result := 0, time := 0, sub := 0, slew := 0, slewIn := 0, ptpctl := 0,
    ptpLock := false, trapvec := 0, hearth := 0, trapsave := 0, areaAsid := 0, fbbase := 0, fbOvf := false,
    ovfOwed := false, fbheld := 0, pagertab := 0, pagerAsid := 0, celquota := 0, celEpoch := 0, sweepLeft := [],
    keyNo := 0, codeGen := 0, celHit := 0, celMiss := 0, celIns := 0, celDemote := 0, celEvict := 0,
    vtStall := 0, vtWonce := 0, vtWaits := 0, dupCollapse := 0, slottab := 0, slotAsid := 0, tslots := [], ltol := 0,
    asids := [], nextGraph := 1, wrapped := false, gangSeq := 0, launch := [], trapSeq := 0, trapQueue := [], hearthBusy := none,
    stopCount := 0, saves := [], faults := [], fbPosts := 0, heldFaults := [], frames := [] }

/-- A link at full width (R408). (DESIGN CHOICE, log 1) -/
def Link.empty : Link := { up := true, lanes := 8, freq := 0, retrains := 0, cut := [], freqAt := none }

/-- A virtual function that is not bound (R403). (DESIGN CHOICE, log 1) -/
def VirtFn.empty : VirtFn := { bound := none, ltol := 0, ltile := [], busy := false, stat := 0 }

/-- The package right after reset: no partition, no task (R399). (DESIGN CHOICE, log 1) -/
def Chip.reset : Chip :=
  { device := 1, liveDies := 0xFF, dieState := Vector.replicate 8 0, portUp := Vector.replicate 3 true, portSize := Vector.replicate 2 0, threads := [],
    cores := [], parts := [], sel := 0, graphs := [], records := [], gangs := [], mem := [], granules := [], marks := [], codeCache := [],
    releases := [], fulls := [], collapsed := [], poison := [], hostLines := [], hostOrder := [], snooped := [], devLines := [], decoders := [], spaces := [], heads := [],
    entries := [], extents := [], reqs := [], cellar := [], vfs := [], owedStatus := [], unitAsks := [], unitWork := [], links := [], sent := [],
    ops := [], hung := [], nextId := 0, draws := 0, tick := 0, cur := 0, insn := 0 }

/-- The measurements right after reset are zero (R418). (DESIGN CHOICE, log 1) -/
def Trust.reset : Trust :=
  { recovery := true, cxlOpen := false, image := [], staged := none, meas := Vector.replicate 8 0, evidence := [] }

/-- The machine right after reset. (DESIGN CHOICE, log 1) -/
def State.reset : State := { chip := .reset, trust := .reset, issuing := none, inputs := [] }

end Sys2Proof.Machine
end

