-- ==== Sys2Proof/Machine/Ops.lean ====
section
/-!
DEFINITION. The named operations over tables, memory, registers, translation and operations in flight, and taking a trap.
-/

namespace Sys2Proof.Machine

/-! ### Tables and memory -/

/-- The entry of key k. -/
def Table.get? {α : Type} : Table α → Nat → Option α
  | [], _ => none
  | (j, v) :: t, k => if k = j then some v else Table.get? t k

/-- t with v at key k; keys stay rising. -/
def Table.put {α : Type} : Table α → Nat → α → Table α
  | [], k, v => [(k, v)]
  | (j, u) :: t, k, v => if k = j then (k, v) :: t else if k < j then (k, v) :: (j, u) :: t else (j, u) :: Table.put t k v

/-- t without key k. -/
def Table.erase {α : Type} (t : Table α) (k : Nat) : Table α := t.filter fun e => e.1 != k

/-- What a byte of memory that nothing has written reads as (DESIGN CHOICE, log 2). -/
def emptyByte : Byte := 0

/-- One byte of memory. (DESIGN CHOICE, log 2) -/
def Memory.byte (m : Memory) (a : Nat) : Byte := (Table.get? m a).getD emptyByte

/-- m with one byte written; writing emptyByte removes the entry. (DESIGN CHOICE, log 2) -/
def Memory.setByte (m : Memory) (a : Nat) (b : Byte) : Memory :=
  if b = emptyByte then Table.erase m a else Table.put m a b

/-- The canonical form: addresses strictly rising, no entry equal to emptyByte. (DESIGN CHOICE, log 2) -/
def Memory.wf : Memory → Bool
  | [] => true
  | [(_, b)] => b != emptyByte
  | (a, b) :: (a', b') :: m => b != emptyByte && decide (a < a') && Memory.wf ((a', b') :: m)

/-- n bytes from a. -/
def Memory.bytes (m : Memory) (a n : Nat) : List Byte := (List.range n).map fun i => m.byte (a + i)

/-- m with bytes written from a. -/
def Memory.setBytes (m : Memory) (a : Nat) : List Byte → Memory
  | [] => m
  | b :: bs => Memory.setBytes (m.setByte a b) (a + 1) bs

/-- m with bytes written at the addresses listed. -/
def Memory.setAt (m : Memory) : List Nat → List Byte → Memory
  | a :: as, b :: bs => Memory.setAt (m.setByte a b) as bs
  | _, _ => m

/-- The number of little-endian bytes (R2). -/
def natOfBytes : List Byte → Nat
  | [] => 0
  | b :: bs => b.toNat + 256 * natOfBytes bs

/-- The word of up to eight little-endian bytes. -/
def wordOfBytes64 (bs : List Byte) : Word := BitVec.ofNat 64 (natOfBytes bs)

/-- The low n bytes of v, little-endian. -/
def bytesOfNat : Nat → Nat → List Byte
  | 0, _ => []
  | n + 1, v => BitVec.ofNat 8 v :: bytesOfNat n (v / 256)

/-- The 64-bit word at a. -/
def Memory.word (m : Memory) (a : Nat) : Word := wordOfBytes64 (m.bytes a 8)

/-! ### Accessors -/

/-- The context of a thread number: core coordinate times 16 plus context (R341, TID). -/
def Chip.thread (c : Chip) (t : Nat) : Thread := (Table.get? c.threads t).getD .empty

/-- c with context t changed. -/
def Chip.modThread (c : Chip) (t : Nat) (f : Thread → Thread) : Chip :=
  { c with threads := Table.put c.threads t (f (c.thread t)) }

/-- The core of a coordinate. -/
def Chip.core (c : Chip) (k : Nat) : Core := (Table.get? c.cores k).getD .empty

/-- c with core k changed. -/
def Chip.modCore (c : Chip) (k : Nat) (f : Core → Core) : Chip :=
  { c with cores := Table.put c.cores k (f (c.core k)) }

/-- The partition of an id. -/
def Chip.part (c : Chip) (p : Nat) : Partition := (Table.get? c.parts p).getD .empty

/-- c with partition p changed. -/
def Chip.modPart (c : Chip) (p : Nat) (f : Partition → Partition) : Chip :=
  { c with parts := Table.put c.parts p (f (c.part p)) }

/-- The core coordinate of a thread number. -/
def coreOf (t : Nat) : Nat := t / 16

/-- Whoever performs accesses (R346): a thread, an engine operation of a thread, a unit of the package without a thread, the
host, a peer package. -/
inductive Agent
  | thread (t : Nat)
  | engine (t : Nat)
  | unit
  | host
  | peer (device : Nat)
  deriving DecidableEq, Repr

/-- The core an agent is located on (R346). -/
def Agent.core? : Agent → Option Nat
  | .thread t | .engine t => some (coreOf t)
  | _ => none

/-- The core through whose store path an agent writes. -/
def Agent.stores : Agent → Option Nat
  | .thread t => some (coreOf t)
  | _ => none

/-- The die of a core coordinate (R252). -/
def dieOf (k : Nat) : Nat := k / 64

/-- The row of a core coordinate. -/
def rowOf (k : Nat) : Nat := k / 8 % 8

/-- The coordinates inside their die's grid (R10). -/
def isCore (k : Nat) : Bool := decide (k < 512) && (decide (4 ≤ dieOf k) || decide (rowOf k < 6))

/-- Cores of M-dies (R10). -/
def isMCore (k : Nat) : Bool := decide (dieOf k < 4)

/-- Scratchpad bytes of a core (R13). -/
def scratchSize (k : Nat) : Nat := if isMCore k then 262144 else 524288

/-- Addressable accumulator slots of a core (R13). -/
def slotCount (k : Nat) : Nat := if isMCore k then 8 else 4

/-- The group of a core (R394). -/
def groupOf (k : Nat) : Nat := if isMCore k then 3 * dieOf k + rowOf k / 2 else 12 + 4 * (dieOf k - 4) + rowOf k / 2

/-- A core on a live die (R12). -/
def Chip.coreLive (c : Chip) (k : Nat) : Bool := isCore k && c.liveDies.getLsbD (dieOf k)

/-- The live cores of a partition (R395). -/
def Chip.partCores (c : Chip) (p : Nat) : List Nat :=
  (List.range 512).filter fun k => c.coreLive k && (c.part p).layout.groups.getLsbD (groupOf k)

/-- The coordinate of the first core of group g: its core of lowest coordinate (R251). -/
def firstCoreOfGroup (g : Nat) : Nat :=
  if g < 12 then 64 * (g / 3) + 16 * (g % 3) else 64 * (4 + (g - 12) / 4) + 16 * ((g - 12) % 4)

/-- The supervisor context of a partition: context 15 of the first core of its first live group (R251). -/
def Chip.supervisor (c : Chip) (p : Nat) : Nat :=
  let gs := (List.range 28).filter fun g => (c.part p).layout.groups.getLsbD g && c.coreLive (firstCoreOfGroup g)
  16 * firstCoreOfGroup (gs.headD 0) + 15

/-- The task id of a thread (R251). -/
def Thread.task (t : Thread) : Nat := t.graph * 65536 + t.index

/-- The level as a number. -/
def Level.rank : Level → Nat
  | .user => 0
  | .sup => 1
  | .pkg => 2

/-- A fresh free choice (Config.coin). (DESIGN CHOICE, log 4) -/
def Chip.flip (c : Chip) : Bool × Chip := (Config.coin c.draws, { c with draws := c.draws + 1 })

/-- A fresh free word (Config.freeWord). (DESIGN CHOICE, log 5) -/
def Chip.draw (c : Chip) : Word × Chip := (Config.freeWord c.draws, { c with draws := c.draws + 1 })

/-! ### Translation (R375 to R381) -/

/-- Bits [lo + n − 1 : lo] of a word, as a number. -/
def fld (w : Word) (lo n : Nat) : Nat := w.toNat / 2 ^ lo % 2 ^ n

/-- Bytes of an HBM stack: 48 GiB. -/
def stackBytes : Nat := 48 * 2 ^ 30

/-- The die of an HBM address (R375). -/
def dieOfHbm (pa : Nat) : Nat := if pa / stackBytes < 4 then pa / stackBytes else 4 + (pa / stackBytes - 4) / 2

/-- log2 of the page a leaf at a level maps (R376). -/
def pageBits (level : Nat) : Nat := if level = 1 then 42 else if level = 2 then 29 else 16

/-- The table index of a level (R376). -/
def tableIndex (va : Word) (level : Nat) : Nat :=
  if level = 0 then fld va 55 9 else fld va (55 - 13 * level) 13

/-- The frame address of an entry. -/
def pteFrame (e : Word) : Nat := fld e 16 36 * 65536

/-- A frame of 2^bits bytes lies in its class's range (R375, R378). -/
def frameInRange (cls pa bits : Nat) : Bool :=
  match cls with
  | 0 => decide (pa + 2 ^ bits ≤ 12 * stackBytes)
  | 1 => (decide (0x040000000000 ≤ pa) && decide (pa + 2 ^ bits ≤ 0x0C0000000000))
  | _ => decide (pa + 2 ^ bits ≤ 2 ^ 52)

/-- A malformed entry (R378). -/
def pteBad (device : BitVec 12) (level : Nat) (e : Word) : Bool :=
  let leaf := e.getLsbD 7
  let cls := fld e 10 2
  fld e 12 4 != 0 || fld e 5 2 != 0 || (leaf && level == 0) || (!leaf && level == 3)
  || (!leaf && (fld e 52 12 != 0 || cls != 0 || fld e 8 2 != 0 || fld e 1 4 != 0
        || !frameInRange 0 (pteFrame e) 16))
  || (leaf && (pteFrame e % 2 ^ pageBits level != 0 || !frameInRange cls (pteFrame e) (pageBits level)
        || (fld e 52 12 != 0 && decide (cls < 3)) || (cls == 3 && decide (fld e 52 12 = device.toNat))
        || (e.getLsbD 2 && !e.getLsbD 1) || (e.getLsbD 9 && decide (2 ≤ cls))))

/-- The slices of a partition: 16 times the die plus the slice (R397). (DESIGN CHOICE, log 62) -/
def Chip.slices (c : Chip) (p : Nat) : List Nat :=
  let il := (c.part p).layout.il
  (List.range 128).filter fun k => il.getLsbD (k / 16) && c.liveDies.getLsbD (k / 16) && il.getLsbD (8 + k % 16)

/-- The partition may reach this memory (R398), which a die that is not live does not contribute (R12), nor an expansion port
beyond what was found behind it at boot (R391); a port that is down loses the access (R392). Memory behind a port is homed at a slice
of the partition, so that one without a slice reaches none (R12, R397; DESIGN CHOICE, log 62). (DESIGN CHOICE, log 6) -/
def Chip.reach (c : Chip) (p : Nat) (cls pa : Nat) : Option Cause :=
  let l := (c.part p).layout
  match cls with
  | 0 =>
    if !l.il.getLsbD (dieOfHbm pa) || !l.nb.getLsbD (dieOfHbm pa) || !c.liveDies.getLsbD (dieOfHbm pa) then some .protection
    else if fld l.il 24 32 = 0xFFFFFFFF || l.il.getLsbD (24 + Config.channelOf pa % 32) then none
    else some .protection
  | 1 =>
    let k := if pa < 0x080000000000 then 0 else 1
    if c.portSize[k]! ≤ pa - 0x040000000000 * (k + 1) || (c.slices p).isEmpty then some .protection
    else if c.portUp[k + 1]! then none else some .linkLost
  | 2 => if !l.nb.getLsbD 9 || (c.slices p).isEmpty then some .protection else if c.portUp[0]! then none else some .linkLost
  | _ => if !l.nb.getLsbD 8 then some .protection else none

/-- What a walk finds: a leaf at a level, an absent page, or a malformed entry. -/
inductive Walk
  | leaf (e : Word) (level : Nat)
  | absent
  | bad
  deriving DecidableEq, Repr

/-- The walk of R379 from the entry at a of the first of the levels; may: the partition reaches the entry (R398, R401). -/
def walkFrom (m : Memory) (may : Nat → Bool) (device : BitVec 12) (va : Word) : List Nat → Nat → Walk
  | [], _ => .bad
  | level :: rest, a =>
    let e := m.word a
    if !may a then .bad
    else if !e.getLsbD 0 then .absent
    else if pteBad device level e then .bad
    else if e.getLsbD 7 then .leaf e level
    else walkFrom m may device va rest (pteFrame e + 8 * tableIndex va (level + 1))

/-- The entry of the level-0 table of a root (R379). -/
def rootEntry (root va : Word) : Nat := fld root 12 52 * 4096 + 8 * tableIndex va 0

/-- The walk of a virtual address under an ASID of a partition. An ASID that is not defined has no translation (R381). -/
def Chip.walk (c : Chip) (p : Nat) (asid : BitVec 16) (va : Word) : Walk :=
  match Table.get? (c.part p).asids asid.toNat with
  | none => .bad
  | some a =>
    if a.root.getLsbD 0 then
      walkFrom c.mem (fun x => (c.reach p 0 x).isNone) c.device va [0, 1, 2, 3] (rootEntry a.root va)
    else .bad

/-- The permission an access needs (R380): bits R 1, W 2, X 4 of PTE[3:1]. -/
structure Need where
  r : Bool
  w : Bool
  x : Bool
  deriving DecidableEq, Repr

/-- Reads. -/
def Need.read : Need := { r := true, w := false, x := false }
/-- Writes. -/
def Need.write : Need := { r := false, w := true, x := false }
/-- Atomics. -/
def Need.atomic : Need := { r := true, w := true, x := false }
/-- The instruction path. -/
def Need.fetch : Need := { r := false, w := false, x := true }

/-- A translation's outcome. page is the first address of the leaf's frame, and its size. -/
inductive Xlat
  | ok (cls device pa : Nat) (page : Nat × Nat) (dup : Bool)
  | absent
  | refuse (cause : Cause)
  deriving DecidableEq, Repr

/-- The translation that a leaf gives an access at a level (R379, R380). -/
def Chip.applyLeaf (c : Chip) (p : Nat) (lvl : Level) (need : Need) (va : Word) (e : Word) (level : Nat) : Xlat :=
  if (lvl = .user && !e.getLsbD 4) || (need.r && !e.getLsbD 1) || (need.w && !e.getLsbD 2) || (need.x && !e.getLsbD 3) then
    .refuse .protection
  else
    let pa := pteFrame e + va.toNat % 2 ^ pageBits level
    match c.reach p (fld e 10 2) pa with
    | some cause => .refuse cause
    | none => .ok (fld e 10 2) (fld e 52 12) pa (pteFrame e, 2 ^ pageBits level) (e.getLsbD 9)

/-- The cached translation of a core for va, if it kept one. -/
def Core.cached (k : Core) (p : Nat) (asid : BitVec 16) (va : Word) : Option (Word × Nat) :=
  (k.tlb.find? fun (q, a, base, level, _) => q == p && a == asid && va.toNat / 2 ^ pageBits level == base).map
    fun (_, _, _, level, e) => (e, level)

/-- The page of FBBASE, where the partition's fault buffer is read (R321; DESIGN CHOICE, log 20): class 4 is the buffer. -/
def Chip.inFaultBuffer (c : Chip) (p : Nat) (need : Need) (va : Word) : Bool :=
  !need.w && !need.x && (c.part p).fbbase != 0 && va.toNat / 65536 == (c.part p).fbbase.toNat / 65536

/-- Translation by the units of core k: a kept translation, else a walk (R379). (DESIGN CHOICE, log 20) -/
def Chip.translate (c : Chip) (k p : Nat) (asid : BitVec 16) (lvl : Level) (need : Need) (va : Word) : Xlat :=
  if c.inFaultBuffer p need va then .ok 4 0 (65536 * p + va.toNat % 65536) (65536 * p, 65536) false
  else match (c.core k).cached p asid va with
  | some (e, level) => c.applyLeaf p lvl need va e level
  | none =>
    match c.walk p asid va with
    | .leaf e level => c.applyLeaf p lvl need va e level
    | .absent => .absent
    | .bad => .refuse .protection

/-- A unit of core k may keep the translation it used, as long as it likes (R379, R382; DESIGN CHOICE, log 4). -/
def Chip.keepXlat (c : Chip) (k p : Nat) (asid : BitVec 16) (va : Word) : Chip :=
  match (c.core k).cached p asid va, c.walk p asid va with
  | none, .leaf e level =>
    let c' := c.modCore k fun q => { q with
      tlb := if Config.coin c.draws then (p, asid, va.toNat / 2 ^ pageBits level, level, e) :: q.tlb else q.tlb }
    { c' with draws := c.draws + 1 }
  | _, _ => c

/-- The key of a physical address in Chip.mem: host memory stands above 2^52, the fault buffers above 2^54. (DESIGN CHOICE, log 20) -/
def memKey (cls pa : Nat) : Nat := if cls = 2 then 2 ^ 52 + pa else if cls = 4 then 2 ^ 54 + pa else pa

/-- The key is of host memory. -/
def ofHost (key : Nat) : Bool := decide (2 ^ 52 ≤ key) && decide (key < 2 ^ 54)

/-- What n bytes at va give an access. -/
inductive Access
  | ok (keys : List Nat) (page : Option (Nat × Nat))
  | far (device pa : Nat)
  | fault (w : FaultWait)
  | refuse (cause : Cause) (va : Word)
  deriving DecidableEq, Repr

/-- The physical bytes of [va, va + n): one translation for each 64 KiB piece. fuel bounds the pieces. -/
def Chip.pieces (c : Chip) (k p : Nat) (asid : BitVec 16) (lvl : Level) (need : Need) : Nat → Word → Nat → Access
  | 0, _, _ => .ok [] none
  | fuel + 1, va, n =>
    if n = 0 then .ok [] none
    else
      let m := min n (65536 - va.toNat % 65536)
      match c.translate k p asid lvl need va with
      | .absent => .fault { va := va, write := need.w, fetch := need.x }
      | .refuse cause => .refuse cause va
      | .ok 3 dev pa _ _ => .far dev pa
      | .ok cls _ pa page dup =>
        let here := (List.range m).map fun i => memKey cls (pa + i)
        match c.pieces k p asid lvl need fuel (va + BitVec.ofNat 64 m) (n - m) with
        | .ok keys pg => .ok (here ++ keys) (if dup then some page else pg)
        | other => other

/-- An access of an operation's or thread's identity. -/
def Chip.access (c : Chip) (k p : Nat) (asid : BitVec 16) (lvl : Level) (need : Need) (va : Word) (n : Nat) : Access :=
  c.pieces k p asid lvl need (n / 65536 + 2) va n

/-- The 64-byte line of a key. -/
def lineOf (key : Nat) : Nat := key / 64

/-- A read of these bytes meets poison or an uncorrectable error (R76, R392). -/
def Chip.poisoned (c : Chip) (keys : List Nat) : Bool := keys.any fun a => c.poison.contains (lineOf a)

/-- The port that an address of expansion memory or host memory lies behind (R375). -/
def portOf (key : Nat) : Option (Fin 3) :=
  if ofHost key then some 0
  else if 0x040000000000 ≤ key ∧ key < 0x080000000000 then some 1
  else if 0x080000000000 ≤ key ∧ key < 0x0C0000000000 then some 2
  else none

/-- A port on the way to one of these bytes is down (R392). -/
def Chip.portDown (c : Chip) (keys : List Nat) : Bool := keys.any fun a => (portOf a).any fun i => !c.portUp[i]

/-! ### Agents and scopes (R346, R347) -/

end Sys2Proof.Machine

namespace Sys2Proof
open Machine

/-- Observer b lies within a scope of agent a (R347). -/
def AgentScope.covers (s : AgentScope) (a b : Agent) : Bool :=
  match s with
  | .thread => a == b || match a, b with
    | .thread t, .engine u => t == u
    | _, _ => false
  | .core => a.core?.isSome && a.core? == b.core?
  | .die => a.core?.isSome && a.core?.map dieOf == b.core?.map dieOf
  | .package => match a, b with
    | .peer d, .peer e => d == e
    | .peer _, _ | _, .peer _ => false
    | _, _ => true
  | .domain => true

/-- Each lies within the scope of the other (R354). -/
def AgentScope.pair (s : AgentScope) (a : Agent) (s' : AgentScope) (b : Agent) : Bool := s.covers a b && s'.covers b a

/-- The agent scope that the scope field of an AMO or CAS names (R82). -/
def AmoScope.agent : AmoScope → AgentScope
  | .die => .die
  | .package => .package
  | .domain => .domain

/-- Accesses of every core of the package are ordered: PACKAGE and DOMAIN (R347). -/
def AgentScope.wide : AgentScope → Bool
  | .package | .domain => true
  | _ => false

end Sys2Proof

namespace Sys2Proof.Machine

/-! ### Homes of lines (R12, R396, R397) -/

/-- One of these slices, chosen by a hash (R103, R288, R397; DESIGN CHOICE, log 6); where there is none, as in a partition without a live
die, nothing is homed and the 0 stands for no slice (DESIGN CHOICE, log 62). -/
def chooseSlice (ss : List Nat) (x : Nat) : Nat :=
  if ss.length ≤ 1 then ss.headD 0 else ss.getD (Config.homeHash x % ss.length) 0

/-- The die at which a collapsed page that holds this byte is homed (R385). -/
def Chip.collapsedDie (c : Chip) (key : Nat) : Option Nat :=
  (c.collapsed.find? fun e => decide (e.1 ≤ key) && decide (key < e.1 + e.2.2)).map fun e => e.2.1

/-- The home slice of the line of a key: a hash of its address bits from GRAN + 8 upward (R396, R397), among the slices of die w
for a page that collapsed to it (R385), if the partition has any there. (DESIGN CHOICE, log 6) -/
def Chip.lineHome (c : Chip) (p key : Nat) : Nat :=
  let ss := c.slices p
  let near := match c.collapsedDie key with
    | some w => ss.filter fun k => k / 16 == w
    | none => []
  chooseSlice (if near.isEmpty then ss else near) (key / 2 ^ (fld (c.part p).layout.il 56 4 + 8))

/-- The partition of core k. (DEDUCED, log 47) -/
def Chip.partOf (c : Chip) (k : Nat) : Nat :=
  ((c.parts.find? fun e => e.2.state != .undefined && e.2.layout.groups.getLsbD (groupOf k)).map (·.1)).getD 0

/-! ### Caches as far as programs see them (R349, R357, R386 to R390) -/

/-- A line whose bytes are not known here holds free bytes. (DESIGN CHOICE, log 5) -/
def Chip.freeLine (c : Chip) (line : Nat) : Chip :=
  { c with draws := c.draws + 8
           mem := c.mem.setBytes (64 * line) ((List.range 8).flatMap fun i => bytesOfNat 8 (Config.freeWord (c.draws + i)).toNat) }

/-- The host alone knows this byte: its line of host memory is at no home of the device (R389). (DEDUCED, log 9) -/
def Chip.hostOnly (c : Chip) (key : Nat) : Bool := ofHost key && (Table.get? c.devLines (lineOf key)).isNone

/-- Lines of host memory that no home of the device holds are as the host left them, which is not known here (R389; DEDUCED,
log 9). (DESIGN CHOICE, log 5) -/
def Chip.fetchHost (c : Chip) (keys : List Nat) : Chip :=
  ((keys.filter c.hostOnly).map lineOf).dedup.foldl Chip.freeLine c

/-- A private granule becomes shared: its owner's L1 lines are recalled (R386). (DEDUCED, log 53) -/
def Chip.recall (c : Chip) (g : Nat) : Chip :=
  match Table.get? c.granules g with
  | some (.priv k) =>
    let c := c.modCore k fun q => { q with l1 := q.l1.filter fun l => l / 1024 != g, stale := q.stale.filter fun e => e.1 / 1024 != g }
    { c with granules := Table.put c.granules g .shared }
  | _ => c

/-- Every L1 copy of a line is recalled (R389). -/
def Chip.recallLine (c : Chip) (line : Nat) : Chip :=
  { c with cores := c.cores.map fun e => (e.1, { e.2 with l1 := e.2.l1.filter (· != line), stale := Table.erase e.2.stale line }) }

/-- The home gives up a host line, if it makes room (R389; DESIGN CHOICE, log 4). -/
def Chip.evictHost (c : Chip) (keep : Nat) : Chip :=
  match c.devLines.find? fun e => e.1 != keep with
  | some (l, dirty) =>
    if Config.coin c.draws then
      { c.recallLine l with devLines := Table.erase c.devLines l, draws := c.draws + 1
                            sent := c.sent ++ [.d2h (if dirty then .dirtyEvict else .cleanEvict) (l - 2 ^ 46)] }
    else { c with draws := c.draws + 1 }
  | none => c

/-- The L2 home of a host line takes it with this request, unless it holds the line as it needs it (R389). (DEDUCED, log 9) -/
def Chip.holdHost (c : Chip) (req : D2H) (owned : Bool) (line : Nat) : Chip :=
  match Table.get? c.devLines line with
  | some true => c
  | some false =>
    if owned then { c with devLines := Table.put c.devLines line true, sent := c.sent ++ [.d2h req (line - 2 ^ 46)] } else c
  | none =>
    let c := c.evictHost line
    { c with devLines := Table.put c.devLines line owned, sent := c.sent ++ [.d2h req (line - 2 ^ 46)] }

/-- Bytes of device memory reached by core k's loads and stores, or by another agent: their granule is classified (R386).
(DEDUCED, log 53) -/
def Chip.classify (c : Chip) (core : Option Nat) (keys : List Nat) : Chip :=
  keys.foldl (fun c a =>
    if 2 ^ 52 ≤ a then c
    else
      match Table.get? c.granules (a / 65536), core with
      | none, some k => { c with granules := Table.put c.granules (a / 65536) (.priv k) }
      | some (.priv j), some k => if j = k then c else c.recall (a / 65536)
      | some (.priv _), none => c.recall (a / 65536)
      | none, none => { c with granules := Table.put c.granules (a / 65536) .shared }
      | some .shared, _ => c) c

/-- Lines of host memory that are read come to their homes (R389). -/
def Chip.shareHost (c : Chip) (keys : List Nat) : Chip :=
  ((keys.filter ofHost).map lineOf).dedup.foldl (fun c l => c.holdHost .rdShared false l) c

/-- Bytes read by core k's loads, or by another agent (R386, R389). (DEDUCED, log 53) -/
def Chip.touch (c : Chip) (core : Option Nat) (keys : List Nat) : Chip := (c.classify core keys).shareHost keys

/-- Granules of these bytes that are private to another core than k are recalled; one without a class stays so (R386). (DEDUCED, log 53) -/
def Chip.recallFrom (c : Chip) (k : Nat) (keys : List Nat) : Chip :=
  ((keys.map (· / 65536)).dedup.filter fun g => match Table.get? c.granules g with
    | some (.priv j) => j != k
    | _ => false).foldl Chip.recall c

/-- Bytes read on the instruction path of core k, which fills no line of an L1 (R386, R389). (DEDUCED, log 53) -/
def Chip.touchCode (c : Chip) (k : Nat) (keys : List Nat) : Chip := (c.recallFrom k keys).shareHost keys

/-- The L1 of core k holds a line: 64 KiB are 1,024 lines (R13), and which one makes room is free (DESIGN CHOICE, log 4). (DEDUCED,
log 73) -/
def Chip.fillL1 (c : Chip) (k line : Nat) : Chip :=
  let q := c.core k
  if q.l1.contains line then c
  else if q.l1.length + q.stale.length < 1024 then c.modCore k fun q => { q with l1 := line :: q.l1 }
  else
    let x := (Config.freeWord c.draws).toNat % (q.l1.length + q.stale.length)
    Chip.modCore { c with draws := c.draws + 1 } k fun q => { q with
      l1 := line :: if x < q.l1.length then q.l1.eraseIdx x else q.l1
      stale := if x < q.l1.length then q.stale else q.stale.eraseIdx (x - q.l1.length) }

/-- Each line that an L1 holds in an older copy is read in that copy or at its home (R349; DESIGN CHOICE, log 4); the copies that are
read. -/
def Chip.readLines (c : Chip) (k : Nat) : List Nat → Table (List Byte) × Chip
  | [] => ([], c)
  | l :: ls =>
    match Table.get? (c.core k).stale l with
    | none => (c.fillL1 k l).readLines k ls
    | some o =>
      let older := Config.coin c.draws
      let c := { c with draws := c.draws + 1 }
      if older then
        let (olds, c) := c.readLines k ls
        ((l, o.bytes) :: olds, c)
      else ((c.modCore k fun q => { q with stale := Table.erase q.stale l }).fillL1 k l).readLines k ls

/-- What a load of core k reads: the home's bytes, or an older copy its L1 may still return (R349; DESIGN CHOICE, log 4). -/
def Chip.readL1 (c : Chip) (k : Nat) (keys : List Nat) : List Byte × Chip :=
  let (olds, c') := c.readLines k (keys.map lineOf).dedup
  (keys.map fun a => match Table.get? olds (lineOf a) with
    | some bs => bs.getD (a % 64) 0
    | none => c.mem.byte a, c')

/-- An acquire of core k that leaves the older copies that stay says (R354, R357): at PACKAGE or DOMAIN every line with an invalidation
in flight toward it is dropped, and the die of k has seen the writes that other cores' older copies lack; at DIE the lines are
dropped whose home lies on the die, and those of writes that have reached the die; below it those that an agent of the core
wrote. (DESIGN CHOICE, log 63) -/
def Chip.acquireBut (c : Chip) (k : Nat) (s : AgentScope) (stay : Nat → Older → Bool) : Chip :=
  if s.wide then
    Chip.modCore { c with cores := c.cores.map fun e =>
      (e.1, { e.2 with stale := e.2.stale.map fun x => (x.1, { x.2 with seen := x.2.seen ||| BitVec.twoPow 8 (dieOf k) }) }) } k
      fun q => { q with stale := (c.core k).stale.filter fun x => stay x.1 x.2 }
  else if s = .die then
    let p := c.partOf k
    c.modCore k fun q => { q with
      stale := q.stale.filter fun x => stay x.1 x.2 || (!x.2.seen.getLsbD (dieOf k) && c.lineHome p (64 * x.1) / 16 != dieOf k) }
  else c.modCore k fun q => { q with stale := q.stale.filter fun x => !x.2.near }

/-- An acquire of core k that a release orders, or that only R357 orders. (DESIGN CHOICE, log 63) -/
def Chip.acquire (c : Chip) (k : Nat) (s : AgentScope) : Chip := c.acquireBut k s fun _ _ => false

/-- Thread t reads bytes whose latest write is a release that does not reach it (R354). (DESIGN CHOICE, log 63) -/
def Chip.noteRead (c : Chip) (t : Nat) (keys : List Nat) : Chip :=
  { c with releases := c.releases.map fun r =>
      if r.keys.any keys.contains && !r.scope.covers (.thread r.tid) (.thread t) then { r with readers := t :: r.readers.filter (· != t) } else r }

/-- An acquire of thread t. A release beyond whose scope it lies, and which it has read, orders nothing for it: the lines written by
the releasing thread alone may stay in their older copies (R354; DESIGN CHOICE, log 4). (DESIGN CHOICE, log 63) -/
def Chip.acquireBy (c : Chip) (t : Nat) (s : AgentScope) : Chip :=
  let weak := c.releases.filter fun r => r.readers.contains t
  if weak.isEmpty then c.acquire (coreOf t) s
  else
    let keep := Config.coin c.draws
    Chip.acquireBut { c with draws := c.draws + 1, releases := c.releases.map fun r => { r with readers := r.readers.filter (· != t) } }
      (coreOf t) s fun l o => keep && weak.any fun r => r.lines.contains l && o.writer == some r.tid

/-- A write to a digested granule raises the code generation of the partition that digested it before the write is
performed, and clears that partition's marks (R286, R384). -/
def Chip.raiseCode (c : Chip) (keys : List Nat) : Chip :=
  ((c.marks.filter fun m => keys.any fun a => decide (m.2.1 ≤ a / 65536) && decide (a / 65536 < m.2.1 + m.2.2)).map (·.1)).dedup.foldl (fun c p =>
    { (c.modPart p fun q => { q with codeGen := q.codeGen + 1 }) with marks := c.marks.filter fun m => m.1 != p }) c

/-- The write of an agent to a line that core j's L1 holds in a copy or an older copy: its own threads' writes go through the L1, for
others' the copy becomes an older copy. (DEDUCED, log 53) -/
def Core.invalidate (q : Core) (j : Nat) (a : Agent) (old : List Byte) (line : Nat) : Core :=
  let seen : BitVec 8 := match a.core? with
    | some k => BitVec.twoPow 8 (dieOf k)
    | none => 0
  let near := a.core? == some j
  let writer := match a with
    | .thread t => some t
    | _ => none
  if a.stores = some j then { q with stale := Table.erase q.stale line }
  else match Table.get? q.stale line with
    | some o => { q with
        stale := Table.put q.stale line { o with seen := o.seen ||| seen, near := o.near || near, writer := if o.writer = writer then writer else none }
        l1 := q.l1.filter (· != line) }
    | none =>
      if q.l1.contains line then { q with
        stale := Table.put q.stale line { bytes := old, seen := seen, near := near, writer := writer }
        l1 := q.l1.filter (· != line) }
      else q

/-- The lines that an agent writes, in every core's L1. (DEDUCED, log 53) -/
def Chip.invalidate (c : Chip) (a : Agent) (keys : List Nat) : Chip :=
  { c with cores := c.cores.map fun (j, q) =>
      (j, ((keys.map lineOf).dedup).foldl (fun q l => q.invalidate j a (c.mem.bytes (64 * l) 64) l) q) }

/-- An order of R353 that reaches the package, by a release of PACKAGE or DOMAIN scope, a publication, a fork, a quit, an answer to a
trap: no write before it can be one that only a narrower release follows (R354, R355). (DESIGN CHOICE, log 63) -/
def Chip.releaseWide (c : Chip) : Chip :=
  { c with cores := c.cores.map fun e => (e.1, { e.2 with stale := e.2.stale.map fun x => (x.1, { x.2 with writer := none }) }) }

/-- The lines that L1s hold in an older copy from before writes of thread t alone. (DESIGN CHOICE, log 63) -/
def Chip.linesOf (c : Chip) (t : Nat) : List Nat :=
  (c.cores.flatMap fun e => (e.2.stale.filter fun x => x.2.writer == some t).map (·.1)).dedup

/-- Thread t has performed a write to these bytes that is a release of scope s (R353, R354). (DESIGN CHOICE, log 63) -/
def Chip.released (c : Chip) (t : Nat) (s : Option AgentScope) (keys : List Nat) : Chip :=
  match s with
  | none => c
  | some s =>
    if s.wide then c.releaseWide
    else
      let ls := (c.linesOf t).filter fun l => !(keys.map lineOf).contains l
      if ls.isEmpty then c else { c with releases := c.releases ++ [{ tid := t, scope := s, keys := keys, lines := ls, readers := [] }] }

/-- The request by which a home takes a host line to write it (R389): an engine's write of the whole line brings no data. For a copy
or a fill two rows of the table give it, and which is sent is free (DESIGN CHOICE, log 4). -/
def Chip.ownHost (c : Chip) (a : Agent) (keys : List Nat) (copy : Bool) (line : Nat) : Chip :=
  match a with
  | .engine _ =>
    if (keys.filter fun x => lineOf x == line).length != 64 then c.holdHost .rdOwn true line
    else if copy then Chip.holdHost { c with draws := c.draws + 1 } (if Config.coin c.draws then .itoMWr else .rdOwnNoData) true line
    else c.holdHost .itoMWr true line
  | _ => c.holdHost .rdOwn true line

/-- The homes own the lines of host memory among these bytes (R389). -/
def Chip.ownHosts (c : Chip) (a : Agent) (keys : List Nat) (copy : Bool := false) : Chip :=
  ((keys.filter ofHost).map lineOf).dedup.foldl (fun c l => c.ownHost a keys copy l) c

/-- The agent's writes are no thread's: they may follow any access of this package (R355). -/
def Agent.outside : Agent → Bool
  | .thread _ | .engine _ => false
  | _ => true

/-- Bytes performed at their homes (R349) by an agent, for a copy or a fill or not; a line written whole holds no bad data after it.
(DEDUCED, log 9) -/
def Chip.perform (c : Chip) (a : Agent) (keys : List Nat) (bytes : List Byte) (copy : Bool := false) : Chip :=
  let c := ((((c.raiseCode keys).fetchHost keys).ownHosts a keys copy).classify a.stores keys).invalidate a keys
  let c := { c with releases := c.releases.filter fun r => !r.keys.any keys.contains }
  let c := if a.outside then c.releaseWide else c
  { c with mem := c.mem.setAt keys bytes
           poison := c.poison.filter fun l => (keys.filter fun x => lineOf x == l).length != 64 }

/-- The host holds a line of these bytes, so that the home must ask for it back first (R390). (DESIGN CHOICE, log 40) -/
def Chip.hostHolds (c : Chip) (keys : List Nat) (dirtyOnly : Bool) : Bool :=
  keys.any fun a => match Table.get? c.hostLines (lineOf a) with
    | none => false
    | some dirty => !dirtyOnly || dirty

/-- The entries that a walk reads, from the one at a of the first of the levels (R379). -/
def walkKeys (m : Memory) (va : Word) : List Nat → Nat → List Nat
  | [], _ => []
  | level :: rest, a =>
    let e := m.word a
    a :: if e.getLsbD 0 && !e.getLsbD 7 then walkKeys m va rest (pteFrame e + 8 * tableIndex va (level + 1)) else []

/-- The entries that units of core k read to translate runs of bytes (R379). -/
def Chip.walkReads (c : Chip) (k p : Nat) (asid : BitVec 16) (rs : List (Word × Nat)) : List Nat :=
  rs.flatMap fun r => (List.range (r.2 / 65536 + 2)).flatMap fun i =>
    let va := r.1 + BitVec.ofNat 64 (min (65536 * i) (r.2 - 1))
    match (c.core k).cached p asid va, Table.get? (c.part p).asids asid.toNat with
    | none, some a => if a.root.getLsbD 0 then walkKeys c.mem va [0, 1, 2, 3] (rootEntry a.root va) else []
    | _, _ => []

/-- Those of them in lines that the host may have changed (R379, R390). -/
def Chip.walkHeld (c : Chip) (k p : Nat) (asid : BitVec 16) (rs : List (Word × Nat)) : List Nat :=
  if c.hostLines.isEmpty then []
  else (c.walkReads k p asid rs).filter fun a => Table.get? c.hostLines (lineOf a) == some true

/-! ### Sleeping dies (R415) -/

/-- Die d sleeps. -/
def Chip.asleep (c : Chip) (d : Nat) : Bool := c.dieState.toList.getD d 0 != 0

/-- The dies asleep at whose slices these bytes are homed. -/
def Chip.sleepers (c : Chip) (p : Nat) (keys : List Nat) : List Nat :=
  if c.dieState.toList.all (· == 0) then [] else (keys.map fun a => c.lineHome p a / 16).dedup.filter c.asleep

/-- A request wakes a die (R415). -/
def Chip.wake (c : Chip) (d : Nat) : Chip := { c with dieState := Vector.ofFn fun i => if i.val = d then 0 else c.dieState[i] }

/-- A unit's access to these bytes wakes the dies of their homes, and waits out the exits (R415). (DEDUCED, log 45) -/
def Chip.wakeFor (c : Chip) (p : Nat) (keys : List Nat) : Chip := (c.sleepers p keys).foldl Chip.wake c

/-- The walks of core k for these runs read their entries: the dies of the entries' homes wake, and granules of them that are private
to another core are recalled (R379, R386, R415). (DEDUCED, log 53) -/
def Chip.walked (c : Chip) (k p : Nat) (asid : BitVec 16) (rs : List (Word × Nat)) : Chip :=
  let ks := c.walkReads k p asid rs
  (c.recallFrom k ks).wakeFor p ks

/-- The home asks the host for the lines of these bytes that it holds, once: BISnpInv before a write, BISnpData for a read
(R390). -/
def Chip.snoop (c : Chip) (keys : List Nat) (write : Bool) : Chip :=
  ((keys.map lineOf).dedup.filter fun l => (Table.get? c.hostLines l).isSome).foldl (fun c l =>
    if Table.get? c.snooped l = some true ∨ (Table.get? c.snooped l = some false ∧ !write) then c
    else { c with snooped := Table.put c.snooped l write, sent := c.sent ++ [.biSnp write l] }) c

/-- An operation's walks meet lines that the host may have changed: the home asks for them first (R379, R390). -/
def Chip.askTables (c : Chip) (o : Op) (rs : List (Word × Nat)) : Option Chip :=
  let ks := c.walkHeld (coreOf o.tid) o.part o.asid rs
  if ks.isEmpty then none else some (c.snoop ks false)

/-! ### Local memory (R73, R74) -/

/-- The scratchpad address of n bytes at a local address, if they lie in the thread's windows (R73). -/
def Thread.localAddr (t : Thread) (la : Word) (n : Nat) : Option Nat :=
  let a := la.toNat
  if a < 0x80000000 then if a + n ≤ t.winSize then some (t.winBase + a) else none
  else if a < 0x100000000 && decide (a - 0x80000000 + n ≤ t.gangSize) && decide (0 < t.gangSize) then
    some (t.gangBase + (a - 0x80000000))
  else none

/-- Two ranges meet and one of them writes. (DEDUCED, log 19) -/
def LRange.conflict (a b : LRange) : Bool :=
  a.acc == b.acc && decide (a.lo < b.hi) && decide (b.lo < a.hi) && (a.wr || b.wr)

/-- A scratchpad range. -/
def LRange.scratch (lo n : Nat) (wr : Bool) : LRange := { acc := false, lo := lo, hi := lo + n, wr := wr }

/-- An accumulator slot. -/
def LRange.slot (s : Nat) (wr : Bool) : LRange := { acc := true, lo := s, hi := s + 1, wr := wr }

/-- The ranges an operation holds in the scoreboard of core k, each with its place in the order there: its issue, or for
the rows of a cpyd.loc its arrival (R74, R369). -/
def Op.rangesOn (o : Op) (k : Nat) : List (Nat × LRange) :=
  (if coreOf o.tid = k then o.ranges.map fun r => (o.id, r) else []) ++
  match o.body with
  | .copy cmd =>
    match cmd.dst, cmd.arrived with
    | .far j _ _, some (n, rows) => if j = k then rows.map fun a => (n, LRange.scratch a cmd.geo.rowBytes true) else []
    | _, _ => []
  | _ => []

/-- The scoreboard of core k grants operation self these ranges at place id: no earlier range of another operation conflicts
(R74, R369). (DEDUCED, log 19) -/
def Chip.grantedTo (c : Chip) (k id self : Nat) (rs : List LRange) : Bool :=
  !c.ops.any fun o => o.id != self && (o.rangesOn k).any fun a => decide (a.1 < id) && rs.any fun b => a.2.conflict b

/-- The scoreboard of core k grants these ranges at place id: no earlier operation holds a conflicting range. (DEDUCED, log 19) -/
def Chip.granted (c : Chip) (k id : Nat) (rs : List LRange) : Bool :=
  !c.ops.any fun o => (o.rangesOn k).any fun a => decide (a.1 < id) && rs.any fun b => a.2.conflict b

/-! ### Operations in flight -/

/-- The operation of an id. -/
def Chip.op? (c : Chip) (id : Nat) : Option Op := c.ops.find? fun o => o.id == id

/-- c without operation id. -/
def Chip.dropOp (c : Chip) (id : Nat) : Chip := { c with ops := c.ops.filter fun o => o.id != id }

/-- c with operation id changed. -/
def Chip.modOp (c : Chip) (id : Nat) (f : Op → Op) : Chip :=
  { c with ops := c.ops.map fun o => if o.id = id then f o else o }

/-- The bytes of byte memory an operation has still to read or write as an access of its thread; a gather or scatter whose
addresses the pipe has not formed may touch any. -/
def OpBody.touches : OpBody → List (Word × Nat)
  | .load va n _ code => if code then [] else [(va, n)]
  | .early va n code => if code then [] else [(va, n)]
  | .store va bs => [(va, bs.length)]
  | .atomic va _ n _ _ _ _ _ => [(va, n)]
  | .mwait va _ => [(va, 8)]
  | .vget _ w _ lanes _ => lanes.map fun (_, a) => (a, w)
  | .vput w _ lanes _ _ => lanes.map fun (_, a) => (a, w)
  | .vec (.vldg ..) x _ | .vec (.vstg ..) x _ => [(x, 256)]
  | .vec (.vgath ..) _ _ | .vec (.vscat ..) _ _ => [(0, 2 ^ 64)]
  | _ => []

/-- The operation still has a byte-memory write of its thread to perform. -/
def OpBody.writes : OpBody → Bool
  | .store .. | .atomic .. | .vput .. | .vec (.vstg ..) _ _ | .vec (.vscat ..) _ _ => true
  | _ => false

/-- The operation still has a byte-memory read of its thread to perform. -/
def OpBody.reads : OpBody → Bool
  | .load _ _ _ code => !code
  | .early _ _ code => !code
  | .atomic .. | .mwait .. | .vget .. | .vec (.vldg ..) _ _ | .vec (.vgath ..) _ _ => true
  | _ => false

/-- The operation is an acquire whose read is still to come (R82, R87). -/
def OpBody.acquires : OpBody → Bool
  | .atomic _ _ _ _ _ acq _ _ => acq
  | .mwait .. => true
  | _ => false

/-- A scalar or vector access of local memory that is not performed. -/
def OpBody.isLocal : OpBody → Bool
  | .lload .. | .lstore .. | .vec (.vld ..) _ _ | .vec (.vst ..) _ _ => true
  | _ => false

/-- A local read. -/
def OpBody.localRead : OpBody → Bool
  | .lload .. | .vec (.vld ..) _ _ => true
  | _ => false

/-- The operation still has an access of its thread to perform, to byte memory or to local memory. -/
def OpBody.accesses (b : OpBody) : Bool := b.reads || b.writes || b.isLocal

/-- Two byte ranges meet. -/
def meets (a : Word × Nat) (b : Word × Nat) : Bool :=
  decide (a.1.toNat < b.1.toNat + b.2) && decide (b.1.toNat < a.1.toNat + a.2)

/-- The physical address of a byte, for telling whether two virtual ranges name one memory. -/
def Chip.peek (c : Chip) (o : Op) (va : Word) : Option (Nat × Nat × Nat) :=
  match c.translate (coreOf o.tid) o.part o.asid .pkg { r := false, w := false, x := false } va with
  | .ok cls dev pa _ _ => some (cls, dev, pa)
  | _ => none

/-- A run cut at the next 64 KiB boundary. -/
def cutRun (r : Word × Nat) : List (Word × Nat) :=
  let m := 65536 - r.1.toNat % 65536
  if r.2 ≤ m then [r] else [(r.1, m), (r.1 + BitVec.ofNat 64 m, r.2 - m)]

/-- A range of bytes cut at 64 KiB boundaries. -/
def cutRuns (va : Word) (n : Nat) : List (Word × Nat) :=
  let a := va.toNat
  (List.range (n / 65536 + 2)).filterMap fun i =>
    let lo := max a (a / 65536 * 65536 + 65536 * i)
    let hi := min (a + n) (a / 65536 * 65536 + 65536 * (i + 1))
    if lo < hi then some (BitVec.ofNat 64 lo, hi - lo) else none

/-- Two accesses of one thread overlap: the same virtual bytes, or two mappings of one memory (R75, R350); each is cut at the page
it crosses into. -/
def Chip.overlap (c : Chip) (o q : Op) (a b : Word × Nat) : Bool :=
  meets a b ||
  (cutRun a).any fun a => (cutRun b).any fun b => match c.peek o a.1, c.peek q b.1 with
    | some (k, d, x), some (k', d', y) => k == k' && d == d' && decide (x < y + b.2) && decide (y < x + a.2)
    | _, _ => false

/-- The earlier operations of o's thread. -/
def Chip.earlier (c : Chip) (o : Op) : List Op := c.ops.filter fun q => decide (q.id < o.id) && q.tid == o.tid

/-- An earlier acquire of the thread has not read yet: no later access is performed (R82, R87, R353). -/
def Chip.heldByAcquire (c : Chip) (o : Op) : Bool := (c.earlier o).any fun q => q.body.acquires

/-- An earlier overlapping access of the thread is not performed (R75, R350). (DEDUCED, log 19) -/
def Chip.heldByBytes (c : Chip) (o : Op) (rs : List (Word × Nat)) : Bool :=
  (c.earlier o).any fun q => q.body.touches.any fun b => rs.any fun a => c.overlap o q a b

/-- An earlier access of the thread is not performed: the fork edge of an engine operation (R283, R353). (DEDUCED, log 21) -/
def Chip.heldByFork (c : Chip) (o : Op) : Bool := (c.earlier o).any fun q => q.body.accesses

/-- The access o may be performed as one of its thread. (DEDUCED, log 19) -/
def Chip.mayAccess (c : Chip) (o : Op) (rs : List (Word × Nat)) : Bool := !c.heldByAcquire o && !c.heldByBytes o rs

/-- The local access o may be performed: the scoreboard grants its ranges (R74), and no earlier acquire of its thread waits
(R82, R87, R353). -/
def Chip.mayLocal (c : Chip) (o : Op) : Bool := c.granted (coreOf o.tid) o.id o.ranges && !c.heldByAcquire o

/-- A write that no observer within the scope could read: to a remote page below DOMAIN, to host memory below PACKAGE (R349,
R361). (DESIGN CHOICE, log 63) -/
def Chip.outOfReach (c : Chip) (s : AgentScope) (o : Op) : Bool :=
  (match o.body with
    | .store .. | .vput .. => s != .domain
    | _ => false) &&
  o.body.touches.all fun r => match c.peek o r.1 with
    | some (cls, _, _) => cls == 3 || (cls == 2 && s != .package)
    | none => false

/-- Some access before an earlier FULL fence whose scope and this one's cover one another is not performed (R356). -/
def Chip.fullOwed (c : Chip) (t : Nat) (s : AgentScope) : Bool :=
  c.fulls.any fun f => f.scope.pair (.thread f.tid) s (.thread t) && f.ids.any fun i => (c.op? i).isSome

/-- A fence of thread t ends (R84, R356, R357); a FULL fence of wide scope releases too (R353, R355). -/
def Chip.fenceEnds (c : Chip) (t : Nat) (full : Bool) (s : AgentScope) : Chip :=
  let c := c.acquireBy t s
  let c := if full && s.wide then c.releaseWide else c
  if full then
    { c with fulls := (c.fulls.filter fun f => f.ids.any fun i => (c.op? i).isSome) ++
        [{ tid := t, scope := s, ids := (c.ops.filter fun o => o.tid == t && o.body.accesses).map Op.id }] }
  else c

/-- A thread has a result outstanding (R42). -/
def Chip.outstanding (c : Chip) (t : Nat) : Bool := c.ops.any fun o => o.tid == t && o.push

/-- A thread has an engine command in flight. -/
def Chip.engaged (c : Chip) (t : Nat) : Bool := c.ops.any fun o => o.tid == t && o.eng

/-- A thread has an access of its own that is not performed. -/
def Chip.unperformed (c : Chip) (t : Nat) : Bool := c.ops.any fun o => o.tid == t && (o.body.writes || o.body.reads)

/-- The value fills its slot; a slot that has been discarded takes nothing (R32). -/
def fillSlot (q : List QSlot) (id : Nat) (v : Word) : List QSlot :=
  q.map fun s => if s.id = id then { s with val := some v } else s

/-- A named write; n0 discards it (R33). -/
def Thread.setNamed (t : Thread) (i : Fin 16) (v : Word) : Thread :=
  if i = 0 then t else { t with named := t.named.set i v }

/-- A result returns: the slot, the named register and the flags (R32, R33, R98). -/
def Thread.receive (t : Thread) (id : Nat) (d : Dest) (v : Word) (flags : BitVec 5) : Thread :=
  let t := { t with queue := fillSlot t.queue id v, fflags := t.fflags ||| flags.setWidth 8 }
  match d with
  | none => t
  | some i => t.setNamed i v

/-- A thread of core k waits in CWAIT on counter n for a count above this one (R88). -/
def Thread.cwaits (t : Thread) (k j : Nat) (n : Ctr) (count : Nat) : Bool :=
  coreOf j == k && match t.park with
    | .counter i below => i == n && decide (count < below)
    | _ => false

/-- A thread whose wait is over. -/
def Thread.goOn (t : Thread) : Thread := { t with park := .run }

/-- A change to a completion counter (R90); threads whose CWAIT it satisfies acquire it and go on (R88, R358). -/
def Chip.setCounter (c : Chip) (k : Nat) (n : Ctr) (v : BitVec 8) : Chip :=
  let c := c.modCore k fun q => { q with cc := q.cc.set n v }
  let c := if c.threads.any fun e => e.2.cwaits k e.1 n v.toNat then c.acquire k .core else c
  { c with threads := c.threads.map fun e => if e.2.cwaits k e.1 n v.toNat then (e.1, e.2.goOn) else e }

/-- A completion decrement; a counter at 0 stays there (R90). -/
def Chip.decrement (c : Chip) (k : Nat) : Option Ctr → Chip
  | none => c
  | some n => if (c.core k).cc[n] = 0 then c else c.setCounter k n ((c.core k).cc[n] - 1)

/-- The thread that issued o still holds its context; else o is an issued store of an ended graph (R313). -/
def Chip.owned (c : Chip) (o : Op) : Bool :=
  (c.thread o.tid).live && (c.thread o.tid).part == o.part && (c.thread o.tid).task == o.task

/-- The word is a TPROBE (R130). -/
def probeWord (w : IWord) : Bool := (w.extractLsb' 25 6).toNat == 0x20 && (w.extractLsb' 10 5).toNat == 6

/-- Operation o ends: its result returns if it left one, its counter falls if it is an engine command, it is dropped. The
result of an engine command joins it to its thread (R353, R359), but for a TPROBE's word, which acquires nothing (R139). -/
def Chip.finish (c : Chip) (o : Op) (v : Word) (flags : BitVec 5) : Chip :=
  let c := if o.push && o.eng && !probeWord o.insn then c.acquire (coreOf o.tid) .domain else c
  let c := if o.push && c.owned o then c.modThread o.tid fun t => t.receive o.id o.named v flags else c
  let c := (c.dropOp o.id).decrement (coreOf o.tid) o.cc
  c.modThread o.tid fun t => match t.park with
    | .product i => if i = o.id then { t with park := .run } else t
    | _ => t

/-! ### Taking a trap (R303 to R305) -/

/-- The place of a trap in issue order: that of the first issue of its instruction (R304, R309). -/
def TrapRec.place (r : TrapRec) : Nat := r.first.getD r.id

/-- Insert a trap a thread owes, in issue order (R304). -/
def oweTrap (r : TrapRec) : List TrapRec → List TrapRec
  | [] => [r]
  | q :: qs => if r.place < q.place then r :: q :: qs else q :: oweTrap r qs

/-- The word is an engine command (R48, R49): TILE, MX but for MSET and MGET, CP but for CSET. -/
def engineWord (w : IWord) : Bool :=
  let sub := (w.extractLsb' 10 5).toNat
  match (w.extractLsb' 25 6).toNat with
  | 0x20 => true
  | 0x21 => decide (1 < sub)
  | 0x22 => sub != 0
  | _ => false

/-- A trap at issue: the thread stops at the instruction and owes the trap; nothing else changes (R303, R305). srcs: sources whose
results may be outstanding, read as the record is made. -/
def Chip.raise (c : Chip) (cause : Cause) (code : Nat) (opA opB addr : Word) (pushes : Bool) (named : Dest)
    (ends : Bool) (srcs : Option Src × Option Src := (none, none)) : Chip :=
  { (c.modThread c.cur fun t => { t with
      stopped := true
      owed := oweTrap { id := c.nextId, cause := cause, code := code, eng := engineWord c.insn, pc := t.pc, insn := c.insn,
                        opA := opA, opB := opB, addr := addr, token := 0, pushes := pushes, named := named,
                        ends := ends, op := none, seq := 0, req := none, srcs := srcs } t.owed }) with nextId := c.nextId + 1 }

/-- Bytes that an instruction needs at its issue: a refusal of them is the trap of that instruction. (DEDUCED, log 57) -/
def OpBody.isEarly : OpBody → Bool
  | .early .. => true
  | _ => false

/-- An operation refused after issue: its counter falls and its thread owes the trap (R23, R304); a tile request is what raises
WONCE (R305). -/
def Chip.refuse (c : Chip) (o : Op) (cause : Cause) (addr token : Word) : Chip :=
  let c := (c.dropOp o.id).decrement (coreOf o.tid) o.cc
  if !c.owned o then c
  else if o.body.isEarly then
    c.modThread o.tid fun t => { t with
      stopped := true, park := .run
      owed := oweTrap { id := o.id, cause := cause, code := 0, eng := false, pc := o.pc, insn := o.insn, opA := o.opA, opB := o.opB,
                        addr := addr, token := 0, pushes := false, named := none, ends := false, op := none, seq := 0, req := none } t.owed }
  else c.modThread o.tid fun t => { t with
    owed := oweTrap { id := o.id, cause := cause, code := 0, eng := o.eng || cause == .wonce, pc := o.pc, insn := o.insn, opA := o.opA,
                      opB := o.opB, addr := addr, token := token, pushes := o.push, named := o.named,
                      ends := false, op := some o, seq := 0, req := none, first := o.first } t.owed
    park := match t.park with
      | .product i => if i = o.id then .run else t.park
      | p => p }

/-- An operation finds its page absent and waits (R318). -/
def Chip.waitPage (c : Chip) (o : Op) (w : FaultWait) : Chip :=
  if c.owned o then c.modOp o.id fun q => { q with fault := some w } else c.dropOp o.id

end Sys2Proof.Machine

namespace Sys2Proof
open Machine

/-- The cause codes of R301. -/
def Cause.code : Cause → Nat
  | .illegalOpcode => 0x01 | .illegalBank => 0x02 | .groupHazard => 0x03 | .illegalOperand => 0x04
  | .privilege => 0x05 | .align => 0x08 | .pageFault => 0x10 | .protection => 0x11 | .wonce => 0x20 | .vdead => 0x21
  | .vwindow => 0x22 | .badHandle => 0x23 | .spaceUndef => 0x24 | .precision => 0x30 | .purity => 0x38
  | .gangTooLarge => 0x40 | .spawnClass => 0x41 | .memUncorrectable => 0x50 | .linkLost => 0x51 | .trapInstr => 0x60
  | .watchdog => 0x70

/-- The resumable causes (R301). -/
def Cause.resumable : Cause → Bool
  | .align | .wonce | .precision | .trapInstr => true
  | _ => false

end Sys2Proof

namespace Sys2Proof.Machine

/-- Run a chip step in a machine state. -/
def State.on (s : State) (f : Chip → Chip) : Host.Outcome State Fault Refusal := .next { s with chip := f s.chip }

/-- Run an instruction of the issuing thread; a context without a thread issues nothing. (DESIGN CHOICE, log 11) -/
def State.issue (s : State) (f : Chip → Chip) : Host.Outcome State Fault Refusal :=
  if (s.chip.thread s.chip.cur).live then .next { s with chip := f s.chip } else .fault .idleContext

end Sys2Proof.Machine
end

