-- ==== Sys2Proof/Machine/Operands.lean ====
section
/-!
DEFINITION. Operand forms, banks, groups and the issue of one instruction: R32, R33, R40 to R45, R51, R290.
-/

namespace Sys2Proof.Machine

/-- The value of a queue age; an age not pushed since the task started reads as zero (R32). -/
def Thread.age (t : Thread) (i : Nat) : Word := (t.queue[i]?.bind QSlot.val).getD 0

/-- The value of a source (R33, R40): n0 reads as zero. -/
def Thread.src (t : Thread) : Src → Word
  | .q i => t.age i
  | .n i => if i = 0 then 0 else t.named[i]

/-- The value of a source of the issuing thread. -/
def Chip.src (c : Chip) (x : Src) : Word := (c.thread c.cur).src x

/-- What the decoder knows of an instruction: marker S, the bank pair, other sources, the named destination, whether it
pushes, an implicit write of n15, the level, the etype check, the bank pair of vector sources, the vector registers it
uses, those it leaves outstanding, and whether it ends its group whatever S is. -/
structure Hdr where
  sw : Bool
  pair : List Src := []
  extra : List Src := []
  dest : Dest := none
  push : Bool := false
  links : Bool := false
  level : Level := .user
  etype : Bool := true
  vpair : Option (VReg × VReg) := none
  vuse : List VReg := []
  vout : List VReg := []
  ends : Bool := false

/-- Two sources break the bank rule (R44). -/
def bankClash : Src → Src → Bool
  | .q i, .q j => i.val % 2 == j.val % 2
  | .n i, .n j => i.val % 2 == j.val % 2
  | _, _ => false

/-- The header breaks a bank rule (R44). -/
def Hdr.badBank (h : Hdr) : Bool :=
  (match h.pair with
    | [a, b] => bankClash a b
    | _ => false) ||
  (match h.vpair with
    | some (a, b) => a.val % 2 == b.val % 2
    | none => false)

/-- The index an instruction writes, if it writes one that counts (R43). -/
def Hdr.writes (h : Hdr) : Option (Fin 16) := if h.links then some 15 else h.dest

/-- A source reads what the group has not completed (R43). -/
def Thread.pendingSrc (t : Thread) : Src → Bool
  | .q i => decide (i.val < t.pushes)
  | .n i => i != 0 && t.written.getLsbD i

/-- The instruction is a hazard to its group (R43, R221). -/
def Thread.hazard (t : Thread) (h : Hdr) : Bool :=
  (h.pair ++ h.extra).any t.pendingSrc
  || (match h.writes with
      | some i => i != 0 && t.written.getLsbD i
      | none => false)
  || h.vuse.any fun v => t.vpend.getLsbD v

/-- The decoder's checks in order (R45); ILLEGAL_OPCODE stands in the decoder. -/
def Thread.check (t : Thread) (h : Hdr) : Option Cause :=
  if t.level.rank < h.level.rank then some .privilege
  else if !h.etype then some .illegalOperand
  else if h.badBank then some .illegalBank
  else if t.hazard h then some .groupHazard
  else none

/-- What issuing an instruction comes to: a trap with no effect, a hold without issue, or its effect with the next pc. -/
inductive Eff
  | trap (cause : Cause) (addr : Word)
  | hold (p : Park)
  | done (c : Chip)
  | jump (c : Chip) (pc : Word)
  /-- The thread has left its context. -/
  | left (c : Chip)

/-- The thread after its instruction issued: the pc, and the group's record of pushes and writes (R42, R43). -/
def Thread.retire (t : Thread) (h : Hdr) (pc : Word) : Thread :=
  if h.sw || h.ends then { t with pc := pc, pushes := 0, written := 0, vpend := 0, marker := true }
  else { t with
    pc := pc
    pushes := t.pushes + if h.push then 1 else 0
    written := match h.writes with
      | some i => t.written ||| BitVec.twoPow 16 i
      | none => t.written
    vpend := h.vout.foldl (fun p v => p ||| BitVec.twoPow 8 v.val) t.vpend
    marker := false }

/-- The A and B sources of an instruction. (DEDUCED, log 29) -/
def Hdr.srcs (h : Hdr) : Option Src × Option Src := ((h.pair ++ h.extra).head?, h.pair[1]?)

/-- Issue of one instruction by the current thread: the decoder's checks, then its own effect (R45). A check may fail with results of
its sources outstanding: they are read once they have returned (R303). -/
def Chip.issueWith (c : Chip) (h : Hdr) (opA opB : Word) (body : Chip → Eff) : Chip :=
  let t := c.thread c.cur
  match t.check h with
  | some cause => c.raise cause 0 opA opB 0 h.push h.dest (h.sw || h.ends) h.srcs
  | none =>
    match body c with
    | .trap cause addr => c.raise cause 0 opA opB addr h.push h.dest (h.sw || h.ends)
    | .hold p => c.modThread c.cur fun t => { t with park := p }
    | .done c' => c'.modThread c.cur fun t => t.retire h (t.pc + 4)
    | .jump c' pc => c'.modThread c.cur fun t => t.retire h pc
    | .left c' => c'

/-- The trap record carries the values of the A and B sources (R305). (DEDUCED, log 29) -/
def Hdr.opA (h : Hdr) (t : Thread) : Word := (h.srcs.1.map t.src).getD 0
/-- The value of the B source for a trap record. (DEDUCED, log 29) -/
def Hdr.opB (h : Hdr) (t : Thread) : Word := (h.srcs.2.map t.src).getD 0

/-- Issue with the pair's values recorded. (DEDUCED, log 29) -/
def Chip.issue (c : Chip) (h : Hdr) (body : Chip → Eff) : Chip :=
  c.issueWith h (h.opA (c.thread c.cur)) (h.opB (c.thread c.cur)) body

/-- A push of a slot whose value is still to return (R32). -/
def pushSlot (q : List QSlot) (id : Nat) : List QSlot := (({ id := id, val := none } : QSlot) :: q).take 16

/-- What an operation starts with. -/
structure Start where
  push : Bool := false
  /-- It leaves vector registers outstanding (R221). -/
  outst : Bool := false
  named : Dest := none
  eng : Bool := false
  cc : Option Ctr := none
  opA : Word := 0
  opB : Word := 0
  ranges : List LRange := []
  result : Word := 0
  /-- Its write is a release of this scope (R84, R353). -/
  rel : Option AgentScope := none

/-- The next operation of the current thread. -/
def Chip.newOp (c : Chip) (a : Start) (body : OpBody) : Op :=
  let t := c.thread c.cur
  { id := c.nextId, tid := c.cur, part := t.part, task := t.task, level := t.level, asid := t.asid, pc := t.pc, insn := c.insn,
    push := a.push || a.outst, named := a.named, eng := a.eng, cc := a.cc, opA := a.opA, opB := a.opB, ranges := a.ranges,
    fault := none, asked := false, replies := [], ready := false, result := a.result, moving := none, body := body, rel := a.rel }

/-- A queue slot for an operation that pushes (R32). -/
def Thread.alloc (t : Thread) (push : Bool) (id : Nat) : Thread :=
  { t with queue := if push then pushSlot t.queue id else t.queue }

/-- A counter of the current core goes up by 1 (R39). -/
def Chip.count (c : Chip) : Option Ctr → Chip
  | none => c
  | some k => c.setCounter (coreOf c.cur) k ((c.core (coreOf c.cur)).cc[k] + 1)

/-- An operation of the current thread starts: it takes the next id, allocates its slot if it pushes, and counts on its
counter if it is an engine command (R32, R39). -/
def Chip.start (c : Chip) (a : Start) (body : OpBody) : Chip :=
  Chip.count { (c.modThread c.cur fun t => t.alloc a.push c.nextId) with ops := c.ops ++ [c.newOp a body], nextId := c.nextId + 1 } a.cc

/-- A result computed at issue: it stays outstanding until it returns (R42, R98). -/
def Chip.emit (c : Chip) (d : Dest) (v : Word) (flags : BitVec 5) : Chip :=
  c.start { push := true, named := d } (.value v flags)

/-- An engine command whose counter stands at 255 is held (R39). -/
def Chip.full (c : Chip) (k : Ctr) : Bool := (c.core (coreOf c.cur)).cc[k] == 255

/-- The acquires of the current thread whose read is still to come (R82, R87). (DEDUCED, log 61) -/
def Chip.acquiresLeft (c : Chip) : List Nat := (c.ops.filter fun o => o.tid == c.cur && o.body.acquires).map Op.id

/-- Local ranges an instruction reads at issue must be granted first (R74, R75), and no earlier acquire of its thread may still be to
read (R82, R87, R353). (DEDUCED, log 61) -/
def Chip.whenFree (c : Chip) (rs : List LRange) (k : Chip → Eff) : Eff :=
  let ids := (c.ops.filter fun o => (o.rangesOn (coreOf c.cur)).any fun a => rs.any fun b => a.2.conflict b).map Op.id ++ c.acquiresLeft
  if ids.isEmpty then k c else .hold (.gone ids)

/-- Hold the command at a full counter, else go on. -/
def Chip.unlessFull (c : Chip) (k : Ctr) (e : Eff) : Eff := if c.full k then .hold (.counterFull k) else e

/-- An access that a pure task may not make: PURITY in a strict task or toward a strict space, else the task is marked
(R290). -/
def Chip.impure (c : Chip) (strictSpace : Bool) (k : Chip → Eff) : Eff :=
  match (c.thread c.cur).pureTask with
  | none => k c
  | some p =>
    if p.strict || strictSpace then .trap .purity 0
    else k (c.modThread c.cur fun t => { t with pureTask := some { p with violated := true } })

/-- Performed as NOP inside a pure task (R77, R338). -/
def Chip.inPure (c : Chip) : Bool := (c.thread c.cur).pureTask.isSome

/-- A tile request stands in no queue of its home: it travels, here or toward another package (R20). (DESIGN CHOICE, log 22) -/
def Chip.travelling (c : Chip) (id : Nat) : Bool :=
  c.reqs.any fun r => r.id == id && (r.phase == .travelling || r.phase == .away)

/-- The operation is a tile request. -/
def OpBody.isTile : OpBody → Bool
  | .tileLocal .. | .tileVec .. | .tileMem .. | .tile _ | .gather .. => true
  | .mx (.rdTile ..) => true
  | _ => false

/-- A fence still waits for this operation: an access not performed, or a tile request not registered (R84). (DESIGN CHOICE, log 22) (DESIGN CHOICE, log 84) -/
def Chip.awaited (c : Chip) (id : Nat) : Bool :=
  match c.op? id with
  | none => false
  | some o => match o.body with
    | .mx (.rdTile ..) => true
    | b => if b.isTile then c.travelling id else true

/-- A REL fence of the thread holds back a write to this storage: bit 0 LOCAL, 1 TILE, 2 BYTE (R84). -/
def Chip.relHeld (c : Chip) (bit : Nat) : Option Park :=
  let hs := (c.thread c.cur).holds.filter fun h => h.mask.getLsbD bit && h.ids.any c.awaited
  if hs.isEmpty then none else some (.ops (hs.flatMap RelHold.ids))

/-- The widest scope of fences whose first held write this is (R353). -/
def widest : List RelHold → Option AgentScope
  | [] => none
  | h :: hs => match widest hs with
    | none => some h.scope
    | some s => some (if s.wide || !h.scope.wide then s else h.scope)

/-- A thread past its fences over this storage: the first write that they held back has passed them (R84). -/
def Thread.passHolds (t : Thread) (bit : Nat) : Thread := { t with holds := t.holds.filter fun h => !h.mask.getLsbD bit }

/-- The scope of the release that the next write of bytes is: of the thread's fences over them that no write has passed (R84, R353). -/
def Thread.releasing (t : Thread) : Option AgentScope := widest (t.holds.filter fun h => h.mask.getLsbD 2)

/-- A write to this storage: held at a REL fence, else it passes the thread's fences and goes on (R84). -/
def Chip.writing (c : Chip) (bit : Nat) (k : Chip → Eff) : Eff :=
  match c.relHeld bit with
  | some p => .hold p
  | none => k (c.modThread c.cur fun t => t.passHolds bit)

end Sys2Proof.Machine
end

