-- ==== Sys2Proof/Machine/Scalar.lean ====
section
/-!
DEFINITION. Integer, immediate, literal and handle instructions: R61 to R69.
-/

namespace Sys2Proof.Machine

/-- A function on words of any width. -/
abbrev IntFn := (n : Nat) → BitVec n → BitVec n → BitVec n

/-- The result of an INT function at width 64, or at width 32 sign-extended (R61, R63). -/
def intResult (f : IntFn) (w : Bool) (a b : Word) : Word :=
  if w then (f 32 (a.setWidth 32) (b.setWidth 32)).signExtend 64 else f 64 a b

/-- High half of the signed product. -/
def mulhFn : IntFn := fun n a b => (a.signExtend (n + n) * b.signExtend (n + n)).extractLsb' n n
/-- High half of the unsigned product. -/
def mulhuFn : IntFn := fun n a b => (a.setWidth (n + n) * b.setWidth (n + n)).extractLsb' n n
/-- Signed quotient toward zero; a divisor of zero gives all ones (R64). -/
def divFn : IntFn := fun n a b => if b = 0 then BitVec.allOnes n else a.sdiv b
/-- Unsigned quotient. -/
def divuFn : IntFn := fun n a b => if b = 0 then BitVec.allOnes n else a / b
/-- Signed remainder with the sign of a; a divisor of zero gives a. -/
def remFn : IntFn := fun _ a b => if b = 0 then a else a.srem b
/-- Unsigned remainder. -/
def remuFn : IntFn := fun _ a b => if b = 0 then a else a % b
/-- The truth value as a word. -/
def truth (n : Nat) (p : Bool) : BitVec n := if p then 1 else 0
/-- Leading zeros; the width for zero. -/
def clzFn : IntFn := fun n a _ => BitVec.ofNat n (if a = 0 then n else n - 1 - a.toNat.log2)
/-- Trailing zeros; the width for zero. -/
def ctzFn : IntFn := fun n a _ => BitVec.ofNat n (((List.range n).find? a.getLsbD).getD n)
/-- Ones. -/
def popcFn : IntFn := fun n a _ => BitVec.ofNat n ((List.range n).filter a.getLsbD).length
/-- Bits [k − 1 : 0] sign-extended. -/
def sextFn : IntFn := fun n a k => (a <<< (n - k.toNat)).sshiftRight (n - k.toNat)
/-- Bits [k − 1 : 0] zero-extended. -/
def zextFn : IntFn := fun n a k => BitVec.ofNat n (a.toNat % 2 ^ k.toNat)

/-- A two-source INT instruction (R61). -/
def Chip.int2 (c : Chip) (sw : Bool) (d : Dest) (a b : Src) (w : Bool) (f : IntFn) : Chip :=
  c.issue { sw := sw, pair := [a, b], dest := d, push := true } fun c =>
    .done (c.emit d (intResult f w (c.src a) (c.src b)) 0)

/-- A one-source INT instruction (R62). -/
def Chip.int1 (c : Chip) (sw : Bool) (d : Dest) (a : Src) (w : Bool) (f : IntFn) : Chip :=
  c.issue { sw := sw, pair := [a], dest := d, push := true } fun c =>
    .done (c.emit d (intResult f w (c.src a) 0) 0)

/-- SEXT and ZEXT: k outside 1 to the width is ILLEGAL_OPERAND (R62). -/
def Chip.intExt (c : Chip) (sw : Bool) (d : Dest) (a b : Src) (w : Bool) (f : IntFn) : Chip :=
  c.issue { sw := sw, pair := [a, b], dest := d, push := true } fun c =>
    let k := if w then (c.src b).toNat % 2 ^ 32 else (c.src b).toNat
    if k = 0 ∨ (if w then 32 else 64) < k then .trap .illegalOperand 0
    else .done (c.emit d (intResult f w (c.src a) (c.src b)) 0)

/-- An immediate instruction (R65). -/
def Chip.imm (c : Chip) (sw : Bool) (d : Dest) (a : Src) (f : Word → Word) : Chip :=
  c.issue { sw := sw, pair := [a], dest := d, push := true } fun c => .done (c.emit d (f (c.src a)) 0)

/-- ADD (R61). -/
def execAdd (sw : Bool) (d : Dest) (a b : Src) (w : Bool) (s : State) := s.issue fun c => c.int2 sw d a b w fun _ x y => x + y
/-- SUB (R61). -/
def execSub (sw : Bool) (d : Dest) (a b : Src) (w : Bool) (s : State) := s.issue fun c => c.int2 sw d a b w fun _ x y => x - y
/-- MUL (R61). -/
def execMul (sw : Bool) (d : Dest) (a b : Src) (w : Bool) (s : State) := s.issue fun c => c.int2 sw d a b w fun _ x y => x * y
/-- MULH (R61). -/
def execMulh (sw : Bool) (d : Dest) (a b : Src) (w : Bool) (s : State) := s.issue fun c => c.int2 sw d a b w mulhFn
/-- MULHU (R61). -/
def execMulhu (sw : Bool) (d : Dest) (a b : Src) (w : Bool) (s : State) := s.issue fun c => c.int2 sw d a b w mulhuFn
/-- DIV (R61, R64). -/
def execDiv (sw : Bool) (d : Dest) (a b : Src) (w : Bool) (s : State) := s.issue fun c => c.int2 sw d a b w divFn
/-- DIVU (R61, R64). -/
def execDivu (sw : Bool) (d : Dest) (a b : Src) (w : Bool) (s : State) := s.issue fun c => c.int2 sw d a b w divuFn
/-- REM (R61, R64). -/
def execRem (sw : Bool) (d : Dest) (a b : Src) (w : Bool) (s : State) := s.issue fun c => c.int2 sw d a b w remFn
/-- REMU (R61, R64). -/
def execRemu (sw : Bool) (d : Dest) (a b : Src) (w : Bool) (s : State) := s.issue fun c => c.int2 sw d a b w remuFn
/-- AND (R61). -/
def execAnd (sw : Bool) (d : Dest) (a b : Src) (w : Bool) (s : State) := s.issue fun c => c.int2 sw d a b w fun _ x y => x &&& y
/-- OR (R61). -/
def execOr (sw : Bool) (d : Dest) (a b : Src) (w : Bool) (s : State) := s.issue fun c => c.int2 sw d a b w fun _ x y => x ||| y
/-- XOR (R61). -/
def execXor (sw : Bool) (d : Dest) (a b : Src) (w : Bool) (s : State) := s.issue fun c => c.int2 sw d a b w fun _ x y => x ^^^ y
/-- ANDN (R61). -/
def execAndn (sw : Bool) (d : Dest) (a b : Src) (w : Bool) (s : State) := s.issue fun c => c.int2 sw d a b w fun _ x y => x &&& ~~~y
/-- SHL (R61). -/
def execShl (sw : Bool) (d : Dest) (a b : Src) (w : Bool) (s : State) :=
  s.issue fun c => c.int2 sw d a b w fun n x y => x <<< (y.toNat % n)
/-- SHR (R61). -/
def execShr (sw : Bool) (d : Dest) (a b : Src) (w : Bool) (s : State) :=
  s.issue fun c => c.int2 sw d a b w fun n x y => x >>> (y.toNat % n)
/-- SRA (R61). -/
def execSra (sw : Bool) (d : Dest) (a b : Src) (w : Bool) (s : State) :=
  s.issue fun c => c.int2 sw d a b w fun n x y => x.sshiftRight (y.toNat % n)
/-- ROR (R61). -/
def execRor (sw : Bool) (d : Dest) (a b : Src) (w : Bool) (s : State) :=
  s.issue fun c => c.int2 sw d a b w fun n x y => x.rotateRight (y.toNat % n)
/-- SLT (R61). -/
def execSlt (sw : Bool) (d : Dest) (a b : Src) (w : Bool) (s : State) :=
  s.issue fun c => c.int2 sw d a b w fun n x y => truth n (x.slt y)
/-- SLTU (R61). -/
def execSltu (sw : Bool) (d : Dest) (a b : Src) (w : Bool) (s : State) :=
  s.issue fun c => c.int2 sw d a b w fun n x y => truth n (x.ult y)
/-- SEQ (R61). -/
def execSeq (sw : Bool) (d : Dest) (a b : Src) (w : Bool) (s : State) :=
  s.issue fun c => c.int2 sw d a b w fun n x y => truth n (x == y)
/-- MIN (R61). -/
def execMin (sw : Bool) (d : Dest) (a b : Src) (w : Bool) (s : State) :=
  s.issue fun c => c.int2 sw d a b w fun _ x y => if x.slt y then x else y
/-- MAX (R61). -/
def execMax (sw : Bool) (d : Dest) (a b : Src) (w : Bool) (s : State) :=
  s.issue fun c => c.int2 sw d a b w fun _ x y => if x.slt y then y else x
/-- MINU (R61). -/
def execMinu (sw : Bool) (d : Dest) (a b : Src) (w : Bool) (s : State) :=
  s.issue fun c => c.int2 sw d a b w fun _ x y => if x.ult y then x else y
/-- MAXU (R61). -/
def execMaxu (sw : Bool) (d : Dest) (a b : Src) (w : Bool) (s : State) :=
  s.issue fun c => c.int2 sw d a b w fun _ x y => if x.ult y then y else x
/-- CLZ (R61, R62). -/
def execClz (sw : Bool) (d : Dest) (a : Src) (w : Bool) (s : State) := s.issue fun c => c.int1 sw d a w clzFn
/-- CTZ (R61, R62). -/
def execCtz (sw : Bool) (d : Dest) (a : Src) (w : Bool) (s : State) := s.issue fun c => c.int1 sw d a w ctzFn
/-- POPC (R61, R62). -/
def execPopc (sw : Bool) (d : Dest) (a : Src) (w : Bool) (s : State) := s.issue fun c => c.int1 sw d a w popcFn
/-- SEXT (R61, R62). -/
def execSext (sw : Bool) (d : Dest) (a b : Src) (w : Bool) (s : State) := s.issue fun c => c.intExt sw d a b w sextFn
/-- ZEXT (R61, R62). -/
def execZext (sw : Bool) (d : Dest) (a b : Src) (w : Bool) (s : State) := s.issue fun c => c.intExt sw d a b w zextFn

/-- ADDI (R65). -/
def execAddi (sw : Bool) (d : Dest) (a : Src) (i : BitVec 15) (s : State) := s.issue fun c => c.imm sw d a fun x => x + i.signExtend 64
/-- ANDI (R65). -/
def execAndi (sw : Bool) (d : Dest) (a : Src) (i : BitVec 15) (s : State) := s.issue fun c => c.imm sw d a fun x => x &&& i.signExtend 64
/-- ORI (R65). -/
def execOri (sw : Bool) (d : Dest) (a : Src) (i : BitVec 15) (s : State) := s.issue fun c => c.imm sw d a fun x => x ||| i.signExtend 64
/-- XORI (R65). -/
def execXori (sw : Bool) (d : Dest) (a : Src) (i : BitVec 15) (s : State) := s.issue fun c => c.imm sw d a fun x => x ^^^ i.signExtend 64
/-- SHLI (R65). -/
def execShli (sw : Bool) (d : Dest) (a : Src) (h : BitVec 6) (s : State) := s.issue fun c => c.imm sw d a fun x => x <<< h.toNat
/-- SHRI (R65). -/
def execShri (sw : Bool) (d : Dest) (a : Src) (h : BitVec 6) (s : State) := s.issue fun c => c.imm sw d a fun x => x >>> h.toNat
/-- SRAI (R65). -/
def execSrai (sw : Bool) (d : Dest) (a : Src) (h : BitVec 6) (s : State) := s.issue fun c => c.imm sw d a fun x => x.sshiftRight h.toNat
/-- SLTI (R65). -/
def execSlti (sw : Bool) (d : Dest) (a : Src) (i : BitVec 15) (s : State) :=
  s.issue fun c => c.imm sw d a fun x => truth 64 (x.slt (i.signExtend 64))
/-- SLTIU (R65). -/
def execSltiu (sw : Bool) (d : Dest) (a : Src) (i : BitVec 15) (s : State) :=
  s.issue fun c => c.imm sw d a fun x => truth 64 (x.ult (i.signExtend 64))

/-- LDI (R66). -/
def execLdi (sw : Bool) (d : Dest) (i : BitVec 20) (s : State) :=
  s.issue fun c => c.issue { sw := sw, dest := d, push := true } fun c => .done (c.emit d (i.signExtend 64) 0)

/-- A displacement in words from the current instruction (R47). -/
def Chip.target {n : Nat} (c : Chip) (disp : BitVec n) : Word := (c.thread c.cur).pc + disp.signExtend 64 * 4

/-- LDPC: the literal is read through the instruction path; it must be 8-aligned (R47, R66). -/
def execLdpc (sw : Bool) (d : Dest) (i : BitVec 20) (s : State) :=
  s.issue fun c => c.issue { sw := sw, dest := d, push := true } fun c =>
    let va := c.target i
    if va.toNat % 8 = 0 then .done (c.start { push := true, named := d } (.load va 8 false true)) else .trap .align va

/-- Formats that allow blocks of 8 (R67): TS8, E4M3, E5M2, INT8, INT4. -/
def blockable (fmt : Nat) : Bool := fmt == 7 || fmt == 5 || fmt == 6 || fmt == 12 || fmt == 13

/-- The format codes that are assigned (R67): not 0x08 nor 0x10 to 0x1F. -/
def fmtAssigned (fmt : Nat) : Bool := fmt != 8 && decide (fmt < 16)

/-- A handle's upper fields break R67. -/
def badHandle (h : Word) : Bool :=
  let blk := fld h 56 3
  !fmtAssigned (fld h 59 5) || (blk != 0 && blk != 3) || (blk == 3 && !blockable (fld h 59 5))

/-- HMAKE (R67). -/
def execHmake (sw : Bool) (d : Dest) (a b : Src) (s : State) :=
  s.issue fun c => c.issue { sw := sw, pair := [a, b], dest := d, push := true } fun c =>
    let h := (c.src a).extractLsb' 44 20 ++ (c.src b).extractLsb' 0 44
    if badHandle h then .trap .badHandle 0 else .done (c.emit d h 0)

/-- HIDX (R68). -/
def execHidx (sw : Bool) (d : Dest) (a b : Src) (s : State) :=
  s.issue fun c => c.issue { sw := sw, pair := [a, b], dest := d, push := true } fun c =>
    let x := c.src a
    .done (c.emit d (x.extractLsb' 44 20 ++ (x.extractLsb' 16 28 + (c.src b).setWidth 28) ++ x.extractLsb' 0 16) 0)

/-- HVER (R68). -/
def execHver (sw : Bool) (d : Dest) (a b : Src) (s : State) :=
  s.issue fun c => c.issue { sw := sw, pair := [a, b], dest := d, push := true } fun c =>
    let x := c.src a
    .done (c.emit d (x.extractLsb' 16 48 ++ (x.extractLsb' 0 16 + (c.src b).setWidth 16)) 0)

/-- A field of a handle (R69). -/
def handleField (h : Word) : Nat → Option Word
  | 0 => some (BitVec.ofNat 64 (fld h 59 5))
  | 1 => some (BitVec.ofNat 64 (fld h 56 3))
  | 2 => some (BitVec.ofNat 64 (fld h 52 4))
  | 3 => some (BitVec.ofNat 64 (fld h 44 8))
  | 4 => some (BitVec.ofNat 64 (fld h 16 28))
  | 5 => some (BitVec.ofNat 64 (fld h 0 16))
  | 6 => some (BitVec.ofNat 64 (8 <<< fld h 54 2))
  | 7 => some (BitVec.ofNat 64 (8 <<< fld h 52 2))
  | _ => none

/-- HFLD (R69). -/
def execHfld (sw : Bool) (d : Dest) (a b : Src) (s : State) :=
  s.issue fun c => c.issue { sw := sw, pair := [a, b], dest := d, push := true } fun c =>
    match handleField (c.src a) (c.src b).toNat with
    | some v => .done (c.emit d v 0)
    | none => .trap .illegalOperand 0

end Sys2Proof.Machine
end

