-- ==== Sys2Proof/Machine/Branch.lean ====
section
/-!
DEFINITION. Branches, jumps and calls: R47, R70, R71.
-/

namespace Sys2Proof.Machine

end Sys2Proof.Machine

namespace Sys2Proof
open Machine

/-- A branch condition holds (R70). -/
def Cond.holds (k : Cond) (a b : Word) : Bool :=
  match k with
  | .eq => a == b
  | .ne => a != b
  | .lt => a.slt b
  | .ge => !a.slt b
  | .ltu => a.ult b
  | .geu => !a.ult b
  | .z => a == 0
  | .nz => a != 0

/-- Z and NZ read one source (R40, R70). -/
def Cond.unary : Cond → Bool
  | .z | .nz => true
  | _ => false

end Sys2Proof

namespace Sys2Proof.Machine

/-- BR (R70). -/
def execBr (sw : Bool) (k : Cond) (a b : Src) (disp : BitVec 12) (s : State) :=
  s.issue fun c => c.issue { sw := sw, pair := if k.unary then [a] else [a, b], ends := true } fun c =>
    if k.holds (c.src a) (c.src b) then .jump c (c.target disp) else .done c

/-- J (R71). -/
def execJ (sw : Bool) (disp : BitVec 25) (s : State) :=
  s.issue fun c => c.issue { sw := sw, ends := true } fun c => .jump c (c.target disp)

/-- The return address is written to n15 and pushed (R47, R71). -/
def Chip.link (c : Chip) : Chip := c.emit (some 15) ((c.thread c.cur).pc + 4) 0

/-- CALL (R71). -/
def execCall (sw : Bool) (disp : BitVec 25) (s : State) :=
  s.issue fun c => c.issue { sw := sw, push := true, links := true, ends := true } fun c => .jump c.link (c.target disp)

/-- JR with F = 0: a target that is not a multiple of 4 raises ALIGN (R47, R71). -/
def execJr (sw : Bool) (a : Src) (s : State) :=
  s.issue fun c => c.issue { sw := sw, pair := [a], ends := true } fun c =>
    if (c.src a).toNat % 4 = 0 then .jump c (c.src a) else .trap .align (c.src a)

/-- JR with F = 1: a is read before n15 is written (R71). -/
def execJrCall (sw : Bool) (a : Src) (s : State) :=
  s.issue fun c => c.issue { sw := sw, pair := [a], push := true, links := true, ends := true } fun c =>
    if (c.src a).toNat % 4 = 0 then .jump c.link (c.src a) else .trap .align (c.src a)

end Sys2Proof.Machine
end

