-- ==== Sys2Proof/Machine/Flags.lean ====
section
/-!
DEFINITION. Exact values, rounding and the five IEEE flags: R35, R148 to R152.
-/

namespace Sys2Proof.Machine

/-- The five flags NV, DZ, OF, UF, NX in bits 4 to 0 (R35). -/
abbrev FlagSet := BitVec 5

/-- Invalid operation. -/
def flagNV : FlagSet := 16
/-- Division by zero. -/
def flagDZ : FlagSet := 8
/-- Overflow. -/
def flagOF : FlagSet := 4
/-- Underflow. -/
def flagUF : FlagSet := 2
/-- Inexact. -/
def flagNX : FlagSet := 1

/-- The flag set f if p holds, else none. -/
def flagIf (p : Bool) (f : FlagSet) : FlagSet := if p then f else 0

/-- Rounding modes by the codes of R151; 5 to 7 do not occur. -/
abbrev RMode := BitVec 3

/-- A binary floating-point format (R148): exponent bits, fraction bits, bias, and whether it has infinities. -/
structure FFmt where
  e : Nat
  f : Nat
  bias : Nat
  inf : Bool
  deriving DecidableEq, Repr

/-- FP64. (PRESUMED, log 59) -/
def fp64 : FFmt := { e := 11, f := 52, bias := 1023, inf := true }
/-- FP32. (PRESUMED, log 59) -/
def fp32 : FFmt := { e := 8, f := 23, bias := 127, inf := true }
/-- BF16. (PRESUMED, log 59) -/
def bf16 : FFmt := { e := 8, f := 7, bias := 127, inf := true }
/-- FP16. (PRESUMED, log 59) -/
def fp16 : FFmt := { e := 5, f := 10, bias := 15, inf := true }
/-- E4M3. (PRESUMED, log 59) -/
def e4m3 : FFmt := { e := 4, f := 3, bias := 7, inf := false }
/-- E5M2. (PRESUMED, log 59) -/
def e5m2 : FFmt := { e := 5, f := 2, bias := 15, inf := true }

/-- An exact value: a NaN (signalling or not), an infinity, or (−1)^neg · m · 2^x. -/
inductive FVal
  | nan (sig : Bool)
  | inf (neg : Bool)
  | fin (neg : Bool) (m : Nat) (x : Int)
  deriving DecidableEq, Repr

/-- The sign bit's place. -/
def FFmt.signBit (F : FFmt) : Nat := 2 ^ (F.e + F.f)

/-- The code of the greatest finite magnitude. -/
def FFmt.maxCode (F : FFmt) : Nat := if F.inf then (2 ^ F.e - 1) * 2 ^ F.f - 1 else 2 ^ (F.e + F.f) - 2

/-- The canonical quiet NaN (R149). -/
def FFmt.nan (F : FFmt) : Nat :=
  if F.inf then (2 ^ F.e - 1) * 2 ^ F.f + 2 ^ (F.f - 1) else 2 ^ (F.e + F.f) - 1

/-- The code of an infinity; a format without one has none, and takes its greatest magnitude. -/
def FFmt.infCode (F : FFmt) : Nat := if F.inf then (2 ^ F.e - 1) * 2 ^ F.f else F.maxCode

/-- A code with a sign. -/
def FFmt.signed (F : FFmt) (neg : Bool) (code : Nat) : Nat := code + if neg then F.signBit else 0

/-- The exponent of the least bit: 1 − bias − f. -/
def FFmt.qmin (F : FFmt) : Int := 1 - (F.bias : Int) - F.f

/-- The value of a bit pattern (R148, R149). (PRESUMED, log 59) -/
def FFmt.value (F : FFmt) (bits : Nat) : FVal :=
  let neg := decide (bits / F.signBit % 2 = 1)
  let code := bits % F.signBit
  let E := code / 2 ^ F.f
  let M := code % 2 ^ F.f
  if code ≤ F.maxCode then
    if E = 0 then .fin neg M F.qmin else .fin neg (2 ^ F.f + M) (F.qmin + (E - 1))
  else if F.inf && M == 0 then .inf neg
  else .nan (F.inf && decide (M < 2 ^ (F.f - 1)))

/-- Rounding up of a magnitude with quotient q, remainder r of 2^s (R151). -/
def roundsUp (rm : RMode) (neg : Bool) (q r s : Nat) : Bool :=
  if s = 0 || r = 0 then false
  else match rm.toNat with
    | 0 => decide (2 ^ (s - 1) < r) || (r == 2 ^ (s - 1) && q % 2 == 1)
    | 1 => false
    | 2 => neg
    | 3 => !neg
    | _ => decide (2 ^ (s - 1) ≤ r)

/-- m · 2^x rounded to a multiple of 2^q: the multiple and whether it is inexact. -/
def roundAt (rm : RMode) (neg : Bool) (m : Nat) (x q : Int) : Nat × Bool :=
  if q ≤ x then (m * 2 ^ (x - q).toNat, false)
  else
    let s := (q - x).toNat
    (m / 2 ^ s + (if roundsUp rm neg (m / 2 ^ s) (m % 2 ^ s) s then 1 else 0), m % 2 ^ s != 0)

/-- What a rounding gives: the bit pattern, the flags, overflow beyond the greatest finite value, tiny and inexact, zero
from a nonzero value. -/
structure Rounded where
  bits : Nat
  flags : FlagSet
  ovf : Bool
  tiny : Bool
  zeroed : Bool
  deriving DecidableEq, Repr

/-- round((−1)^neg · m · 2^x, F, rm) with the flags of R152; sat makes overflow give the greatest finite value (R155).
(PRESUMED, log 59) -/
def FFmt.round (F : FFmt) (rm : RMode) (sat : Bool) (neg : Bool) (m : Nat) (x : Int) : Rounded :=
  if m = 0 then { bits := F.signed neg 0, flags := 0, ovf := false, tiny := false, zeroed := false }
  else
    let lead : Int := m.log2 + x
    let q := max (lead - F.f) F.qmin
    let (r, inexact) := roundAt rm neg m x q
    let code := (q - F.qmin).toNat * 2 ^ F.f + r
    let emin : Int := F.qmin + F.f
    let tiny := decide (lead < emin) &&
      !(lead == emin - 1 && (roundAt rm neg m x (lead - F.f)).1 == 2 ^ (F.f + 1))
    if F.maxCode < code then
      let top := match rm.toNat with
        | 1 => F.maxCode
        | 2 => if neg then F.infCode else F.maxCode
        | 3 => if neg then F.maxCode else F.infCode
        | _ => F.infCode
      { bits := F.signed neg (if sat then F.maxCode else top), flags := flagOF ||| flagNX, ovf := true, tiny := false,
        zeroed := false }
    else
      { bits := F.signed neg code, flags := flagIf inexact flagNX ||| flagIf (inexact && tiny) flagUF, ovf := false,
        tiny := inexact && tiny, zeroed := r == 0 }

/-- The exact value as an integer multiple of 2^x. -/
def alignTo (neg : Bool) (m : Nat) (mx x : Int) : Int := (if neg then -1 else 1) * ((m * 2 ^ (mx - x).toNat : Nat) : Int)

/-- The exact sum of two finite values: an integer and its exponent. -/
def exactAdd (n1 : Bool) (m1 : Nat) (x1 : Int) (n2 : Bool) (m2 : Nat) (x2 : Int) : Int × Int :=
  let x := min x1 x2
  (alignTo n1 m1 x1 x + alignTo n2 m2 x2 x, x)

/-- Integer square root, bit by bit from 2^k. -/
def isqrt (n : Nat) : Nat → Nat → Nat
  | 0, r => if (r + 1) * (r + 1) ≤ n then r + 1 else r
  | k + 1, r => isqrt n k (if (r + 2 ^ (k + 1)) * (r + 2 ^ (k + 1)) ≤ n then r + 2 ^ (k + 1) else r)

end Sys2Proof.Machine
end

