-- ==== Sys2Proof/Machine/Float.lean ====
section
/-!
DEFINITION. Floating-point operations on bit patterns: R91 to R97, R149 to R156, R164, R165.
-/

namespace Sys2Proof.Machine

/-- A value is a signalling NaN. -/
def FVal.signals : FVal → Bool
  | .nan s => s
  | _ => false

/-- A value is a NaN. -/
def FVal.isNan : FVal → Bool
  | .nan _ => true
  | _ => false

/-- The sign of a value; a NaN has sign 0. -/
def FVal.sign : FVal → Bool
  | .nan _ => false
  | .inf n => n
  | .fin n _ _ => n

/-- The value with the other sign. -/
def FVal.negate : FVal → FVal
  | .nan s => .nan s
  | .inf n => .inf (!n)
  | .fin n m x => .fin (!n) m x

/-- A result: the bit pattern and the flags. -/
abbrev FRes := Nat × FlagSet

/-- The canonical NaN with NV if p. -/
def FFmt.nanRes (F : FFmt) (p : Bool) : FRes := (F.nan, flagIf p flagNV)

/-- The rounding of an exact integer multiple of 2^x; zero takes the sign zneg. -/
def FFmt.roundInt (F : FFmt) (rm : RMode) (n : Int) (x : Int) (zneg : Bool) : FRes :=
  if n = 0 then (F.signed zneg 0, 0)
  else
    let r := F.round rm false (decide (n < 0)) n.natAbs x
    (r.bits, r.flags)

/-- The sign of a zero sum of two values (R151). -/
def zeroSign (rm : RMode) (z1 z2 : Bool) (s1 s2 : Bool) : Bool :=
  if z1 && z2 && s1 == s2 then s1 else rm == 2

/-- round(a + b) (R93, R151). (PRESUMED, log 59) -/
def FFmt.add (F : FFmt) (rm : RMode) (a b : FVal) : FRes :=
  match a, b with
  | .nan _, _ | _, .nan _ => F.nanRes (a.signals || b.signals)
  | .inf s, .inf t => if s = t then (F.signed s F.infCode, 0) else F.nanRes true
  | .inf s, _ | _, .inf s => (F.signed s F.infCode, 0)
  | .fin s m x, .fin t n y =>
    let (v, e) := exactAdd s m x t n y
    F.roundInt rm v e (zeroSign rm (m == 0) (n == 0) s t)

/-- round(a − b). -/
def FFmt.sub (F : FFmt) (rm : RMode) (a b : FVal) : FRes := F.add rm a b.negate

/-- round(a × b). -/
def FFmt.mul (F : FFmt) (rm : RMode) (a b : FVal) : FRes :=
  match a, b with
  | .nan _, _ | _, .nan _ => F.nanRes (a.signals || b.signals)
  | .inf s, .inf t => (F.signed (s != t) F.infCode, 0)
  | .inf s, .fin t n _ | .fin t n _, .inf s => if n = 0 then F.nanRes true else (F.signed (s != t) F.infCode, 0)
  | .fin s m x, .fin t n y =>
    let r := F.round rm false (s != t) (m * n) (x + y)
    (r.bits, r.flags)

/-- round(a ÷ b) (R93). -/
def FFmt.div (F : FFmt) (rm : RMode) (a b : FVal) : FRes :=
  match a, b with
  | .nan _, _ | _, .nan _ => F.nanRes (a.signals || b.signals)
  | .inf _, .inf _ => F.nanRes true
  | .inf s, .fin t _ _ => (F.signed (s != t) F.infCode, 0)
  | .fin s _ _, .inf t => (F.signed (s != t) 0, 0)
  | .fin s m x, .fin t n y =>
    if n = 0 then if m = 0 then F.nanRes true else (F.signed (s != t) F.infCode, flagDZ)
    else
      let k := 2 * F.f + 8 + n.log2
      let q := m * 2 ^ k / n
      let r := F.round rm false (s != t) (2 * q + if m * 2 ^ k % n = 0 then 0 else 1) (x - y - k - 1)
      (r.bits, r.flags)

/-- round(√a) (R93). -/
def FFmt.sqrt (F : FFmt) (rm : RMode) (a : FVal) : FRes :=
  match a with
  | .nan s => F.nanRes s
  | .inf s => if s then F.nanRes true else (F.signed false F.infCode, 0)
  | .fin s m x =>
    if m = 0 then (F.signed s 0, 0)
    else if s then F.nanRes true
    else
      let odd := x % 2 != 0
      let m' := (if odd then 2 * m else m) * 2 ^ (2 * (F.f + 4))
      let x' := ((if odd then x - 1 else x) - 2 * (F.f + 4 : Nat)) / 2
      let q := isqrt m' (m'.log2 / 2 + 1) 0
      let r := F.round rm false false (2 * q + if q * q = m' then 0 else 1) (x' - 1)
      (r.bits, r.flags)

/-- round(a × b + c), one rounding; ∞ × 0 is NaN and NV even when c is a quiet NaN (R93). (PRESUMED, log 59) -/
def FFmt.fma (F : FFmt) (rm : RMode) (a b c : FVal) : FRes :=
  let bad := match a, b with
    | .inf _, .fin _ n _ | .fin _ n _, .inf _ => n == 0
    | _, _ => false
  if bad then F.nanRes true
  else if a.isNan || b.isNan || c.isNan then F.nanRes (a.signals || b.signals || c.signals)
  else
    let ps := a.sign != b.sign
    match a, b, c with
    | .fin _ m x, .fin _ n y, .fin t k z =>
      let (v, e) := exactAdd ps (m * n) (x + y) t k z
      F.roundInt rm v e (zeroSign rm (m * n == 0) (k == 0) ps t)
    | .fin .., .fin .., .inf t => (F.signed t F.infCode, 0)
    | _, _, .inf t => if ps = t then (F.signed t F.infCode, 0) else F.nanRes true
    | _, _, _ => (F.signed ps F.infCode, 0)

/-- a < b for values that are not NaNs; ±0 are equal. -/
def FVal.lt (a b : FVal) : Bool :=
  match a, b with
  | .inf s, .inf t => s && !t
  | .inf s, _ => s
  | _, .inf t => !t
  | .fin s m x, .fin t n y => decide ((exactAdd s m x (!t) n y).1 < 0)
  | _, _ => false

/-- a = b for values that are not NaNs; ±0 are equal. -/
def FVal.eqv (a b : FVal) : Bool :=
  match a, b with
  | .nan _, _ | _, .nan _ => false
  | _, _ => !a.lt b && !b.lt a

/-- FMIN, or FMAX with big true (R94): −0 below +0. -/
def FFmt.minmax (F : FFmt) (big : Bool) (abits bbits : Nat) : FRes :=
  let a := F.value abits
  let b := F.value bbits
  let nv := flagIf (a.signals || b.signals) flagNV
  match a.isNan, b.isNan with
  | true, true => (F.nan, nv)
  | true, false => (bbits, nv)
  | false, true => (abits, nv)
  | false, false =>
    let less := a.lt b || (a.eqv b && a.sign && !b.sign)
    (if less != big then abits else bbits, nv)

/-- FCMP (R95). -/
def fcompare (p : FPred) (a b : FVal) : Bool × FlagSet :=
  let nan := a.isNan || b.isNan
  let sig := a.signals || b.signals
  match p with
  | .eq => (!nan && a.eqv b, flagIf sig flagNV)
  | .lt => (!nan && a.lt b, flagIf nan flagNV)
  | .le => (!nan && (a.lt b || a.eqv b), flagIf nan flagNV)
  | .unord => (nan, flagIf sig flagNV)

/-- FCLASS (R97). -/
def FFmt.classify (F : FFmt) (bits : Nat) : Nat :=
  match F.value bits with
  | .nan s => if s then 2 ^ 8 else 2 ^ 9
  | .inf s => if s then 2 ^ 0 else 2 ^ 7
  | .fin s m _ =>
    if m = 0 then if s then 2 ^ 3 else 2 ^ 4
    else if m < 2 ^ F.f then if s then 2 ^ 2 else 2 ^ 5
    else if s then 2 ^ 1 else 2 ^ 6

/-- An IEEE conversion to a floating-point format (R153, R154). -/
def FFmt.convert (F : FFmt) (rm : RMode) (v : FVal) : FRes :=
  match v with
  | .nan s => F.nanRes s
  | .inf s => if F.inf then (F.signed s F.infCode, 0) else F.nanRes true
  | .fin s m x =>
    let r := F.round rm (!F.inf) s m x
    (r.bits, r.flags)

/-- A value rounded to an integer by a mode: the integer and whether it is inexact. -/
def FVal.toInteger (rm : RMode) (s : Bool) (m : Nat) (x : Int) : Int × Bool :=
  let (r, ne) := roundAt rm s m x 0
  ((if s then -1 else 1) * (r : Int), ne)

/-- An IEEE conversion to an integer in lo to hi: clamped raises NV, a NaN gives 0 and NV, inexact raises NX (R96, R156). -/
def convertInt (lo hi : Int) (rm : RMode) (v : FVal) : Int × FlagSet :=
  match v with
  | .nan _ => (0, flagNV)
  | .inf s => (if s then lo else hi, flagNV)
  | .fin s m x =>
    let (n, ne) := FVal.toInteger rm s m x
    if n < lo then (lo, flagNV) else if hi < n then (hi, flagNV) else (n, flagIf ne flagNX)

/-- An integer as an exact value. -/
def FVal.ofInt (n : Int) : FVal := .fin (decide (n < 0)) n.natAbs 0

/-- 1 ÷ √a in RNE, correctly rounded (R164, R165). (DEDUCED, log 60) -/
def FFmt.rsqrt (F : FFmt) (a : FVal) : FRes :=
  match a with
  | .nan s => F.nanRes s
  | .inf s => if s then F.nanRes true else (F.signed false 0, 0)
  | .fin s m x =>
    if m = 0 then (F.signed s F.infCode, flagDZ)
    else if s then F.nanRes true
    else
      let odd := x % 2 != 0
      let m' := if odd then 2 * m else m
      let h := (if odd then x - 1 else x) / 2
      let q := isqrt (2 ^ 400 / m') 200 0
      let r := F.round 0 false false (2 * q + if q * q * m' = 2 ^ 400 then 0 else 1) (-h - 201)
      (r.bits, r.flags)

/-- The fraction bits carried by VEXP2 and VLOG2. (DEDUCED, log 60) -/
def guardBits : Nat := 256

/-- 2^r · 2^guardBits for r = Σ of the bits k of frac (bit guardBits − i is 2^−i): root is 2^(2^−i), prod the product so far.
(DEDUCED, log 60) -/
def exp2Frac (frac : Nat) : Nat → Nat → Nat → Nat
  | 0, _, prod => prod
  | k + 1, root, prod =>
    let root := isqrt (root * 2 ^ guardBits) (guardBits + 1) 0
    exp2Frac frac k root (if frac / 2 ^ k % 2 = 1 then prod * root / 2 ^ guardBits else prod)

/-- 2^a in RNE (R164, R165). (DEDUCED, log 60) -/
def FFmt.exp2 (F : FFmt) (a : FVal) : FRes :=
  match a with
  | .nan s => F.nanRes s
  | .inf s => if s then (F.signed false 0, 0) else (F.signed false F.infCode, 0)
  | .fin s m x =>
    if m = 0 then F.convert 0 (.fin false 1 0)
    else if 12 ≤ (m.log2 : Int) + x then
      if s then (F.signed false 0, flagUF ||| flagNX) else (F.signed false F.infCode, flagOF ||| flagNX)
    else
      let fixed : Int := if 0 ≤ x + guardBits then alignTo s m x (-guardBits)
        else (if s then -1 else 1) * ((m / 2 ^ (-(x + guardBits)).toNat : Nat) : Int)
      let n := fixed / 2 ^ guardBits
      let frac := (fixed % 2 ^ guardBits).toNat
      if frac = 0 then F.convert 0 (.fin false 1 n)
      else
        let y := exp2Frac frac guardBits (2 ^ (guardBits + 1)) (2 ^ guardBits)
        F.convert 0 (.fin false (2 * y + 1) (n - guardBits - 1))

/-- The first k fraction bits of log2 y, for y in [1, 2) scaled by 2^(2·guardBits). (DEDUCED, log 60) -/
def log2Frac : Nat → Nat → Nat → Nat
  | 0, _, acc => acc
  | k + 1, y, acc =>
    let z := y * y / 2 ^ (2 * guardBits)
    if 2 ^ (2 * guardBits + 1) ≤ z then log2Frac k (z / 2) (2 * acc + 1) else log2Frac k z (2 * acc)

/-- log2 a in RNE (R164, R165). (DEDUCED, log 60) -/
def FFmt.log2 (F : FFmt) (a : FVal) : FRes :=
  match a with
  | .nan s => F.nanRes s
  | .inf s => if s then F.nanRes true else (F.signed false F.infCode, 0)
  | .fin s m x =>
    if m = 0 then (F.signed true F.infCode, flagDZ)
    else if s then F.nanRes true
    else
      let e : Int := m.log2 + x
      if m = 2 ^ m.log2 then F.convert 0 (.ofInt e)
      else
        let y := m * 2 ^ (2 * guardBits) / 2 ^ m.log2
        let v : Int := e * 2 ^ 128 + (log2Frac 128 y 0 : Nat)
        if 0 ≤ v then F.convert 0 (.fin false (2 * v.toNat + 1) (-129))
        else F.convert 0 (.fin true (2 * v.natAbs - 1) (-129))

end Sys2Proof.Machine
end

