-- ==== Sys2Proof/Machine/Bytes.lean ====
section
/-!
DEFINITION. Byte and local memory, atomics, fences, waiting and counters: R72 to R90, R349 to R358.
-/

namespace Sys2Proof.Machine

end Sys2Proof.Machine

namespace Sys2Proof
open Machine

/-- Bytes of a load width (R46). -/
def LdWidth.bytes : LdWidth → Nat
  | .s8 | .z8 => 1
  | .s16 | .z16 => 2
  | .s32 | .z32 => 4
  | .d64 => 8

/-- The load sign-extends. -/
def LdWidth.signed : LdWidth → Bool
  | .s8 | .s16 | .s32 => true
  | _ => false

/-- Bytes of a store width (R46). -/
def StWidth.bytes : StWidth → Nat
  | .b8 => 1
  | .b16 => 2
  | .b32 => 4
  | .b64 => 8

end Sys2Proof

namespace Sys2Proof.Machine

/-- A value read in n bytes, extended (R72). -/
def extendTo (n : Nat) (signed : Bool) (bs : List Byte) : Word :=
  let v := natOfBytes bs
  if signed && decide (2 ^ (8 * n - 1) ≤ v) then BitVec.ofInt 64 ((v : Int) - (2 ^ (8 * n) : Nat)) else BitVec.ofNat 64 v

/-- LD (R72, R73, R76). (DEDUCED, log 70) -/
def execLd (sw : Bool) (d : Dest) (a : Src) (wd : LdWidth) (i : BitVec 12) (s : State) :=
  s.issue fun c => c.issue { sw := sw, pair := [a], dest := d, push := true } fun c =>
    let va := c.src a + i.signExtend 64
    if va.toNat % wd.bytes != 0 then .trap .align va
    else c.impure false fun c => .done (c.start { push := true, named := d } (.load va wd.bytes wd.signed false))

/-- ST (R72, R73, R75). (DEDUCED, log 70) -/
def execSt (sw : Bool) (x a : Src) (wd : StWidth) (i : BitVec 12) (s : State) :=
  s.issue fun c => c.issue { sw := sw, pair := [x, a] } fun c =>
    let va := c.src a + i.signExtend 64
    if va.toNat % wd.bytes != 0 then .trap .align va
    else c.impure false fun c =>
      let rel := (c.thread c.cur).releasing
      c.writing 2 fun c => .done (c.start { rel := rel } (.store va (bytesOfNat wd.bytes (c.src x).toNat)))

/-- LDL (R72 to R74). -/
def execLdl (sw : Bool) (d : Dest) (a : Src) (wd : LdWidth) (i : BitVec 12) (s : State) :=
  s.issue fun c => c.issue { sw := sw, pair := [a], dest := d, push := true } fun c =>
    let la := c.src a + i.signExtend 64
    match (c.thread c.cur).localAddr la wd.bytes with
    | some p =>
      if la.toNat % wd.bytes != 0 then .trap .align la
      else .done (c.start { push := true, named := d, ranges := [.scratch p wd.bytes false] } (.lload p wd.bytes wd.signed))
    | none => .trap .align la

/-- STL (R72 to R75). -/
def execStl (sw : Bool) (x a : Src) (wd : StWidth) (i : BitVec 12) (s : State) :=
  s.issue fun c => c.issue { sw := sw, pair := [x, a] } fun c =>
    let la := c.src a + i.signExtend 64
    match (c.thread c.cur).localAddr la wd.bytes with
    | some p =>
      if la.toNat % wd.bytes != 0 then .trap .align la
      else c.writing 0 fun c => .done (c.start { ranges := [.scratch p wd.bytes true] }
        (.lstore p (bytesOfNat wd.bytes (c.src x).toNat)))
    | none => .trap .align la

/-! ### Atomics (R78 to R82) -/

end Sys2Proof.Machine

namespace Sys2Proof
open Machine

/-- Bytes of an atomic's width. -/
def AmoWidth.bytes : AmoWidth → Nat
  | .w32 => 4
  | .w64 => 8

/-- The new value of a read-modify-write at width n (R78 to R80). -/
def AtomOp.apply (op : AtomOp) (n : Nat) (old x expected : BitVec n) : BitVec n :=
  match op with
  | .add => old + x
  | .and => old &&& x
  | .or => old ||| x
  | .xor => old ^^^ x
  | .min => if x.slt old then x else old
  | .max => if old.slt x then x else old
  | .minu => if x.ult old then x else old
  | .maxu => if old.ult x then x else old
  | .swap => x
  | .fadd32 => BitVec.ofNat n (fp32.add 0 (fp32.value old.toNat) (fp32.value x.toNat)).1
  | .fadd64 => BitVec.ofNat n (fp64.add 0 (fp64.value old.toNat) (fp64.value x.toNat)).1
  | .cas => if old = expected then x else old

/-- The read-modify-write writes: a CAS whose compare fails does not (R80). -/
def AtomOp.writes (op : AtomOp) (n : Nat) (old : List Byte) (expected : Word) : Bool :=
  op != .cas || BitVec.ofNat (8 * n) (natOfBytes old) == expected.setWidth (8 * n)

/-- The new bytes of a read-modify-write over n bytes. -/
def AtomOp.newBytes (op : AtomOp) (n : Nat) (old : List Byte) (x expected : Word) : List Byte :=
  bytesOfNat n (op.apply (8 * n) (BitVec.ofNat _ (natOfBytes old)) (x.setWidth _) (expected.setWidth _)).toNat

/-- The order field acquires (R82). -/
def Order.acquires : Order → Bool
  | .acq | .acqrel => true
  | _ => false

/-- The order field releases (R82). -/
def Order.releases : Order → Bool
  | .rel | .acqrel => true
  | _ => false

end Sys2Proof

namespace Sys2Proof.Machine

/-- An AMO or CAS at issue (R78, R80). (DEDUCED, log 70) -/
def Chip.atomic (c : Chip) (h : Hdr) (a b : Src) (expected : Chip → Word) (wd : AmoWidth) (op : AtomOp) (o : Order) (sc : AmoScope) : Chip :=
  c.issue h fun c =>
    let va := c.src a
    if va.toNat % wd.bytes != 0 then .trap .align va
    else c.impure false fun c =>
      let rel := (c.thread c.cur).releasing
      c.writing 2 fun c => .done (c.start { push := true, named := h.dest, opA := va, opB := c.src b, rel := rel }
        (.atomic va op wd.bytes (c.src b) (expected c) o.acquires o.releases sc))

/-- An AMO (R78). -/
def Chip.amo (c : Chip) (sw : Bool) (d : Dest) (a b : Src) (wd : AmoWidth) (op : AtomOp) (o : Order) (sc : AmoScope) : Chip :=
  c.atomic { sw := sw, pair := [a, b], dest := d, push := true } a b (fun _ => 0) wd op o sc

/-- AMO ADD. -/
def execAmoAdd (sw : Bool) (d : Dest) (a b : Src) (wd : AmoWidth) (o : Order) (sc : AmoScope) (s : State) := s.issue fun c => c.amo sw d a b wd .add o sc
/-- AMO AND. -/
def execAmoAnd (sw : Bool) (d : Dest) (a b : Src) (wd : AmoWidth) (o : Order) (sc : AmoScope) (s : State) := s.issue fun c => c.amo sw d a b wd .and o sc
/-- AMO OR. -/
def execAmoOr (sw : Bool) (d : Dest) (a b : Src) (wd : AmoWidth) (o : Order) (sc : AmoScope) (s : State) := s.issue fun c => c.amo sw d a b wd .or o sc
/-- AMO XOR. -/
def execAmoXor (sw : Bool) (d : Dest) (a b : Src) (wd : AmoWidth) (o : Order) (sc : AmoScope) (s : State) := s.issue fun c => c.amo sw d a b wd .xor o sc
/-- AMO MIN. -/
def execAmoMin (sw : Bool) (d : Dest) (a b : Src) (wd : AmoWidth) (o : Order) (sc : AmoScope) (s : State) := s.issue fun c => c.amo sw d a b wd .min o sc
/-- AMO MAX. -/
def execAmoMax (sw : Bool) (d : Dest) (a b : Src) (wd : AmoWidth) (o : Order) (sc : AmoScope) (s : State) := s.issue fun c => c.amo sw d a b wd .max o sc
/-- AMO MINU. -/
def execAmoMinu (sw : Bool) (d : Dest) (a b : Src) (wd : AmoWidth) (o : Order) (sc : AmoScope) (s : State) := s.issue fun c => c.amo sw d a b wd .minu o sc
/-- AMO MAXU. -/
def execAmoMaxu (sw : Bool) (d : Dest) (a b : Src) (wd : AmoWidth) (o : Order) (sc : AmoScope) (s : State) := s.issue fun c => c.amo sw d a b wd .maxu o sc
/-- AMO SWAP. -/
def execAmoSwap (sw : Bool) (d : Dest) (a b : Src) (wd : AmoWidth) (o : Order) (sc : AmoScope) (s : State) := s.issue fun c => c.amo sw d a b wd .swap o sc
/-- AMO FADD.f32 (R79). -/
def execAmoFaddF32 (sw : Bool) (d : Dest) (a b : Src) (o : Order) (sc : AmoScope) (s : State) := s.issue fun c => c.amo sw d a b .w32 .fadd32 o sc
/-- AMO FADD.f64 (R79). -/
def execAmoFaddF64 (sw : Bool) (d : Dest) (a b : Src) (o : Order) (sc : AmoScope) (s : State) := s.issue fun c => c.amo sw d a b .w64 .fadd64 o sc

/-- CAS: the expected value is a third source; the result is pushed only (R80). -/
def execCas (sw : Bool) (e a b : Src) (wd : AmoWidth) (o : Order) (sc : AmoScope) (s : State) :=
  s.issue fun c => c.atomic { sw := sw, pair := [a, b], extra := [e], push := true } a b (fun c => c.src e) wd .cas o sc

/-! ### Range fences (R83 to R85) -/

/-- The kinds of fence. -/
inductive FenceKind
  | full | acq | rel | reg
  deriving DecidableEq, Repr

/-- A local access of an operation meets the local range [a, a + n) of its thread. -/
def Thread.localMeets (t : Thread) (o : Op) (a n : Nat) : Bool :=
  o.ranges.any fun r => !r.acc &&
    ((decide (r.lo < t.winBase + a + n) && decide (t.winBase + a < r.hi) && decide (a < t.winSize)) ||
     (decide (0 < t.gangSize) && decide (r.lo + 0x80000000 < t.gangBase + a + n) && decide (t.gangBase + a < r.hi + 0x80000000)))

/-- The operations a fence waits for: its earlier set by storage, range and kind, without the writes that no observer within
its scope could read (R83, R84, R349); an MRD that reads a tile is a tile request, and one that is held at a REL fence as a tile store
is (DESIGN CHOICE, log 84). -/
def Chip.fenceSet (c : Chip) (k : FenceKind) (sc : AgentScope) (all : Bool) (mask : BitVec 3) (a n : Nat) : List Nat :=
  let t := c.thread c.cur
  (c.ops.filter fun o => o.tid == c.cur &&
    ((mask.getLsbD 1 && o.body.isTile && c.awaited o.id)
     || (k != .reg && mask.getLsbD 0 && o.body.isLocal && (k != .acq || o.body.localRead)
         && (all || (decide (0 < n) && t.localMeets o a n)))
     || (k != .reg && mask.getLsbD 2 && (if k = .acq then o.body.reads else (o.body.reads || o.body.writes) && !c.outOfReach sc o)
         && (all || (decide (0 < n) && o.body.touches.any fun b => meets b (BitVec.ofNat 64 a, n)))))).map Op.id

/-- A fence at issue (R84). -/
def Chip.fence (c : Chip) (sw : Bool) (a b : Src) (all : Bool) (mask : BitVec 3) (k : FenceKind) (sc : AgentScope) : Chip :=
  c.issue { sw := sw, pair := if all then [] else [a, b] } fun c =>
    let x := (c.src a).toNat
    let n := (c.src b).toNat
    if !all && decide (2 ^ 64 < x + n) then .trap .illegalOperand 0
    else
      let ids := c.fenceSet k sc all mask x n
      let c := if k = .rel ∨ k = .full then c.modThread c.cur fun t => { t with
        holds := { ids := if k = .rel then ids else [], mask := mask, scope := sc } :: t.holds } else c
      match k with
      | .rel => .done c
      | .reg => .done (if ids.isEmpty then c else c.modThread c.cur fun t => { t with park := .ops ids })
      | _ =>
        if ids.isEmpty && !(k == .full && c.fullOwed c.cur sc) then .done (c.fenceEnds c.cur (k == .full) sc)
        else .done (c.modThread c.cur fun t => { t with park := .fence (k == .full) sc ids })

/-- FNC FULL. -/
def execFncFull (sw : Bool) (a b : Src) (all : Bool) (mask : BitVec 3) (sc : AgentScope) (s : State) := s.issue fun c => c.fence sw a b all mask .full sc
/-- FNC ACQ. -/
def execFncAcq (sw : Bool) (a b : Src) (all : Bool) (mask : BitVec 3) (sc : AgentScope) (s : State) := s.issue fun c => c.fence sw a b all mask .acq sc
/-- FNC REL. -/
def execFncRel (sw : Bool) (a b : Src) (all : Bool) (mask : BitVec 3) (sc : AgentScope) (s : State) := s.issue fun c => c.fence sw a b all mask .rel sc
/-- FNC REG. -/
def execFncReg (sw : Bool) (a b : Src) (all : Bool) (mask : BitVec 3) (sc : AgentScope) (s : State) := s.issue fun c => c.fence sw a b all mask .reg sc

/-! ### Waiting and completion counters (R86 to R90) -/

/-- PREF has no effect that a program can observe but timing (R86). -/
def execPref (sw : Bool) (a b : Src) (s : State) := s.issue fun c => c.issue { sw := sw, pair := [a, b] } .done

/-- MWAIT (R87). (DEDUCED, log 70) -/
def execMwait (sw : Bool) (d : Dest) (a b : Src) (s : State) :=
  s.issue fun c => c.issue { sw := sw, pair := [a, b], dest := d, push := true } fun c =>
    let va := c.src a
    if va.toNat % 8 != 0 then .trap .align va
    else c.impure false fun c => .done (c.start { push := true, named := d, opA := va, opB := c.src b } (.mwait va (c.src b)))

/-- CWAIT: nothing more issues until the count is below t (R88). -/
def execCwait (sw : Bool) (t : BitVec 5) (k : Ctr) (s : State) :=
  s.issue fun c => c.issue { sw := sw } fun c =>
    if (c.core (coreOf c.cur)).cc[k].toNat < t.toNat then .done (c.acquire (coreOf c.cur) .core)
    else .done (c.modThread c.cur fun th => { th with park := .counter k t.toNat })

/-- The accesses of the thread that are not performed. -/
def Chip.unperformedIds (c : Chip) : List Nat := (c.ops.filter fun o => o.tid == c.cur && o.body.accesses).map Op.id

/-- CINC: a release at CORE scope (R89, R90, R358). -/
def execCinc (sw : Bool) (a : Src) (k : Ctr) (s : State) :=
  s.issue fun c => c.issue { sw := sw, pair := [a] } fun c =>
    let v := ((c.core (coreOf c.cur)).cc[k].toNat : Int) + (c.src a).toInt
    if v < 0 ∨ 255 < v then .trap .illegalOperand 0
    else if c.unperformedIds.isEmpty then .done (c.setCounter (coreOf c.cur) k (BitVec.ofInt 8 v))
    else .hold (.ops c.unperformedIds)

/-- CRD (R89); a purity violation (R290). -/
def execCrd (sw : Bool) (d : Dest) (k : Ctr) (s : State) :=
  s.issue fun c => c.issue { sw := sw, dest := d, push := true } fun c =>
    c.impure false fun c => .done (c.emit d ((c.core (coreOf c.cur)).cc[k].setWidth 64) 0)

/-! ### Performing accesses (R76, R349, R350) -/

/-- The page of a read-duplicated mapping has collapsed to one copy (R385). -/
def Chip.single (c : Chip) : Option (Nat × Nat) → Bool
  | none => true
  | some page => c.collapsed.any fun e => e.1 == page.1

/-- The answer to request 0 of an operation. -/
def Op.reply (o : Op) : Option (List Byte) := Table.get? o.replies 0

/-- An access whose request to a peer is out: it is as it was translated when it asked (R382, R383). -/
def Chip.afar (c : Chip) (o : Op) (k : List Byte → Chip) : Chip :=
  match o.reply with
  | some bs => k bs
  | none => c

/-- The access of operation o to n bytes at va. -/
def Chip.opAccess (c : Chip) (o : Op) (need : Need) (va : Word) (n : Nat) : Access :=
  c.access (coreOf o.tid) o.part o.asid o.level need va n

/-- The access of a write of operation o: as it was translated when it was met, if it waits for a collapse (R382, R385). -/
def Chip.writeAccess (c : Chip) (o : Op) (need : Need) (va : Word) (n : Nat) : Access :=
  match Table.get? o.held va.toNat with
  | some (keys, page) => .ok keys page
  | none => c.opAccess o need va n

/-- The write of operation o at va waits at the writer until its page has collapsed (R385). -/
def Chip.holdWrite (c : Chip) (o : Op) (va : Word) (keys : List Nat) (page : Option (Nat × Nat)) : Chip :=
  c.modOp o.id fun q => { q with held := Table.put q.held va.toNat (keys, page) }

/-- A refusal of a byte access. -/
def Chip.refuseAt (c : Chip) (o : Op) (cause : Cause) (va : Word) : Chip := c.refuse o cause va 0

/-- An engine refused in a unit keeps no bytes of it. -/
def Chip.refuseUnit (c : Chip) (o : Op) (cause : Cause) (va token : Word) : Chip :=
  c.refuse { o with moving := none, asked := false, replies := [] } cause va token

/-- A link that is up reaches this device (R411). (DEDUCED, log 39) -/
def Chip.linksUp (c : Chip) (dev : Nat) : Bool :=
  (List.range 36).any fun k => let l := (Table.get? c.links k).getD .empty; l.up && !l.cut.contains dev

end Sys2Proof.Machine

namespace Sys2Proof
open Machine

/-- The device that a flit goes to. -/
def Machine.Sent.dst : Sent → Option Nat
  | .req d .. | .rsp d .. | .notice d .. | .atom d .. | .fence d .. | .mgmt d _ | .evidence d _ => some d
  | _ => none

/-- The number of an operation's request and its device. -/
def Machine.Sent.request : Sent → Option (Nat × Nat)
  | .req d _ tag _ | .atom d _ tag _ => some (tag % 8192, d)
  | _ => none

/-- The tag of a request that a device answers. -/
def Machine.Sent.tag : Sent → Option Nat
  | .req _ _ tag _ | .atom _ _ tag _ => some tag
  | _ => none

/-- Bytes of a frame on another device, apart from every key of this package (R286, R384). (DEDUCED, log 64) -/
def farKeys (dev pa n : Nat) : List Nat := (List.range n).map fun i => 2 ^ 60 + dev * 2 ^ 52 + pa + i

/-- Bytes on another device that a request writes (R286). (DEDUCED, log 64) -/
def Machine.Sent.writes : Sent → List Nat
  | .req dev _ _ (.write pa bs) => farKeys dev pa bs.length
  | .atom dev _ _ a => farKeys dev a.pa 8
  | _ => []

end Sys2Proof

namespace Sys2Proof.Machine

/-- The tag of request r of operation id, and its parts. -/
def tagOf (id r : Nat) : Nat := 8192 * id + r

/-- Requests leave for peers; a write of them to a page whose code is digested raises the code generation first (R286). -/
def Chip.send (c : Chip) (ms : List Sent) : Chip :=
  let c := c.raiseCode (ms.flatMap Sent.writes)
  { c with sent := c.sent ++ ms }

/-- Send requests to a peer once, and wait for their answers (R102, R361); an unreachable peer is LINK_LOST (R76, R411). -/
def Chip.ask (c : Chip) (o : Op) (va token : Word) (ms : List Sent) : Chip :=
  if o.asked then c
  else if ms.all fun m => m.dst.all c.linksUp then (c.modOp o.id fun q => { q with asked := true, peers := ms.filterMap Sent.request }).send ms
  else c.refuseUnit o .linkLost va token

/-- Perform the read of a load (R72, R76). -/
def Chip.doLoad (c : Chip) (o : Op) (va : Word) (n : Nat) (signed code : Bool) : Chip :=
  if o.asked then c.afar o fun bs => c.finish o (extendTo n signed bs) 0
  else if !code && !c.mayAccess o [(va, n)] then c
  else match c.opAccess o (if code then .fetch else .read) va n with
    | .fault w => c.waitPage o w
    | .refuse cause _ => c.refuseAt o cause va
    | .far dev pa => c.ask o va 0 [.req dev o.part (tagOf o.id 0) (.read pa n)]
    | .ok keys _ =>
      if c.poisoned keys then c.refuseAt o .memUncorrectable va
      else if c.hostHolds keys true then c.snoop keys false
      else
        let k := coreOf o.tid
        let c := c.fetchHost keys
        let (bs, c) := if code then (keys.map c.mem.byte, c.touchCode k keys) else ((c.touch (some k) keys).noteRead o.tid keys).readL1 k keys
        ((c.keepXlat k o.part o.asid va).finish o (extendTo n signed bs) 0)

/-- Perform a store at its home (R349). -/
def Chip.doStore (c : Chip) (o : Op) (va : Word) (bs : List Byte) : Chip :=
  if o.asked then c.afar o fun _ => c.finish o 0 0
  else if !c.mayAccess o [(va, bs.length)] then c
  else match c.writeAccess o .write va bs.length with
    | .fault w => c.waitPage o w
    | .refuse cause _ => c.refuseAt o cause va
    | .far dev pa => c.ask o va 0 [.req dev o.part (tagOf o.id 0) (.write pa bs)]
    | .ok keys page =>
      if !c.single page then c.holdWrite o va keys page
      else if c.hostHolds keys false then c.snoop keys true
      else (((c.perform (.thread o.tid) keys bs).released o.tid o.rel keys).keepXlat (coreOf o.tid) o.part o.asid va).finish o 0 0

/-- The accesses that a release of this scope waits for: the earlier ones that an observer within it could see (R82, R349).
(DESIGN CHOICE, log 63) -/
def Chip.releaseWaits (c : Chip) (o : Op) (s : AgentScope) : List Nat :=
  ((c.earlier o).filter fun q => q.body.accesses && !c.outOfReach s q).map Op.id

/-- The scope of the release that an atomic's write is: the wider of its own and that of a fence before it (R82, R353). -/
def Op.releases (o : Op) (rel : Bool) (sc : AmoScope) : Option AgentScope :=
  match rel, o.rel with
  | false, s => s
  | true, some s => some (if s.wide then s else sc.agent)
  | true, none => some sc.agent

/-- Perform an atomic at its home, indivisibly; the line leaves the issuing core's L1 (R78, R80 to R82). A CAS whose compare fails
writes nothing (R80). -/
def Chip.doAtomic (c : Chip) (o : Op) (va : Word) (op : AtomOp) (n : Nat) (x expected : Word) (acq rel : Bool) (sc : AmoScope) : Chip :=
  let acquired := fun (c : Chip) => if acq then c.acquireBy o.tid sc.agent else c
  if o.asked then c.afar o fun bs => (acquired c).finish o (extendTo n false bs) 0
  else if !c.mayAccess o [(va, n)] || (rel && !(c.releaseWaits o sc.agent).isEmpty) then c
  else match c.writeAccess o .atomic va n with
    | .fault w => c.waitPage o w
    | .refuse cause _ => c.refuseAt o cause va
    | .far dev pa => c.ask o va 0 [.atom dev o.part (tagOf o.id 0)
        { pa := pa, op := op, width := if n = 4 then .w32 else .w64, operand := x, expected := expected }]
    | .ok keys page =>
      if c.poisoned keys then c.refuseAt o .memUncorrectable va
      else if !c.single page then c.holdWrite o va keys page
      else if c.hostHolds keys false then c.snoop keys true
      else
        let k := coreOf o.tid
        let c := c.fetchHost keys
        let old := keys.map c.mem.byte
        let c := acquired ((((c.ownHosts (.thread o.tid) keys).classify none keys)).noteRead o.tid keys)
        let c := if op.writes n old expected then
            (c.perform (.thread o.tid) keys (op.newBytes n old x expected)).released o.tid (o.releases rel sc) keys
          else c
        let c := c.modCore k fun q => { q with l1 := q.l1.filter fun l => !(keys.map lineOf).contains l, stale := q.stale.filter fun e => !(keys.map lineOf).contains e.1 }
        (c.keepXlat k o.part o.asid va).finish o (extendTo n false old) 0

/-- One read of an MWAIT at the home: it is satisfied by a value at least the bound, and acquires (R87). -/
def Chip.doMwait (c : Chip) (o : Op) (va bound : Word) : Chip :=
  if o.asked then c.afar o fun bs => (c.acquireBy o.tid .domain).finish o (wordOfBytes64 bs) 0
  else if !c.mayAccess o [(va, 8)] then c
  else match c.opAccess o .read va 8 with
    | .fault w => c.waitPage o w
    | .refuse cause _ => c.refuseAt o cause va
    | .far dev pa => c.ask o va 0 [.req dev o.part (tagOf o.id 0) (.watch pa bound)]
    | .ok keys _ =>
      if c.poisoned keys then c.refuseAt o .memUncorrectable va
      else if c.hostHolds keys true then c.snoop keys false
      else
        let c := (c.fetchHost keys).touch none keys
        let v := wordOfBytes64 (keys.map c.mem.byte)
        if v.slt bound then c
        else
          let c := (c.noteRead o.tid keys).acquireBy o.tid .domain
          let k := coreOf o.tid
          (c.modCore k fun q => { q with stale := q.stale.filter fun e => !(keys.map lineOf).contains e.1 }).finish o v 0

/-- Perform the read of an LDL (R74). -/
def Chip.doLocalLoad (c : Chip) (o : Op) (p n : Nat) (signed : Bool) : Chip :=
  if c.mayLocal o then
    c.finish o (extendTo n signed ((c.core (coreOf o.tid)).scratch.bytes p n)) 0
  else c

/-- Perform an STL (R74). -/
def Chip.doLocalStore (c : Chip) (o : Op) (p : Nat) (bs : List Byte) : Chip :=
  if c.mayLocal o then
    (c.modCore (coreOf o.tid) fun q => { q with scratch := q.scratch.setBytes p bs }).finish o 0 0
  else c

/-! ### Accesses of the engines (R352, R366) -/

/-- What translating the runs of an access gives. -/
inductive Runs
  | ok (ps : List Piece)
  | fault (w : FaultWait)
  | refuse (cause : Cause) (va : Word)

/-- Translate runs of at most 64 KiB in order. -/
def Chip.runs (c : Chip) (o : Op) (need : Need) : List (Word × Nat) → Runs
  | [] => .ok []
  | (va, n) :: rest =>
    match c.opAccess o need va n with
    | .fault w => .fault w
    | .refuse cause at_ => .refuse cause at_
    | .ok keys page =>
      match c.runs o need rest with
      | .ok ps => .ok (.here keys page :: ps)
      | r => r
    | .far dev pa =>
      match c.runs o need rest with
      | .ok ps => .ok (.there dev pa n :: ps)
      | r => r

/-- The local bytes of pieces. -/
def hereKeys (ps : List Piece) : List Nat := ps.flatMap fun p => match p with
  | .here keys _ => keys
  | .there .. => []

/-- Requests for the pieces on other devices. -/
def askPieces (o : Op) (ps : List Piece) (f : Nat → Nat → Nat → LinkReq) : List Sent :=
  ps.zipIdx.filterMap fun (p, i) => match p with
    | .here .. => none
    | .there dev pa n => some (.req dev o.part (tagOf o.id i) (f i pa n))

/-- Every piece on another device is answered. -/
def answered (o : Op) (ps : List Piece) : Bool :=
  ps.zipIdx.all fun (p, i) => match p with
    | .here .. => true
    | .there .. => (Table.get? o.replies i).isSome

/-- An engine's access: done with these bytes, or not yet. -/
inductive Got
  | bytes (bs : List Byte) (c : Chip)
  | stay (c : Chip)

/-- Bytes of a piece. -/
def Piece.size : Piece → Nat
  | .here keys _ => keys.length
  | .there _ _ n => n

/-- The first n bytes of pieces. -/
def takePieces : List Piece → Nat → List Piece
  | [], _ => []
  | p :: ps, n =>
    if n = 0 then []
    else if p.size ≤ n then p :: takePieces ps (n - p.size)
    else match p with
      | .here keys pg => [.here (keys.take n) pg]
      | .there dev pa _ => [.there dev pa n]

/-- Pieces without their first n bytes. -/
def dropPieces : List Piece → Nat → List Piece
  | [], _ => []
  | p :: ps, n =>
    if p.size ≤ n then dropPieces ps (n - p.size)
    else match p with
      | .here keys pg => .here (keys.drop n) pg :: ps
      | .there dev pa m => .there dev (pa + n) (m - n) :: ps

/-- The positions an engine moves next, and those left after them: some whole words of 4 bytes of its unit, in an order of
its own (R348; DESIGN CHOICE, log 4). -/
def Moving.choose (m : Moving) (draws : Nat) : (Nat × Nat) × List (Nat × Nat) :=
  let w := (Config.freeWord draws).toNat
  let i := if Config.coin draws then 0 else w % max 1 m.left.length
  let r := m.left.getD i (0, 0)
  let words := (r.2 - r.1 + 3) / 4
  let a := if Config.coin draws then 0 else w / 2 ^ 16 % max 1 words
  let n := if Config.coin draws then words else 1 + w / 2 ^ 32 % max 1 (words - a)
  let lo := r.1 + 4 * a
  let hi := min r.2 (lo + 4 * n)
  ((lo, hi), m.left.take i ++ (if r.1 < lo then [(r.1, lo)] else []) ++ (if hi < r.2 then [(hi, r.2)] else []) ++ m.left.drop (i + 1))

/-- The positions that an engine moves now; they stay the same while a peer is asked. -/
def Chip.nowMoving (c : Chip) (o : Op) (m : Moving) : Moving × List (Nat × Nat) × Chip :=
  match m.now with
  | some rs => (m, rs, c)
  | none =>
    let (r, left) := m.choose c.draws
    let m := { m with now := some [r], left := left }
    (m, [r], Chip.modOp { c with draws := c.draws + 1 } o.id fun q => { q with moving := some m })

/-- The pieces of these positions. -/
def Moving.piecesOf (m : Moving) (rs : List (Nat × Nat)) : List Piece := rs.flatMap fun r => takePieces (dropPieces m.ps r.1) (r.2 - r.1)

/-- Bytes lo to hi − 1 of a buffer replaced. -/
def patch (buf : List Byte) (lo : Nat) (bs : List Byte) : List Byte := buf.take lo ++ bs ++ buf.drop (lo + bs.length)

/-- The positions moved are done: the unit is read or written, or has some left. -/
def Chip.movedOn (c : Chip) (o : Op) (m : Moving) : Got :=
  if m.left.isEmpty then .bytes m.buf (c.modOp o.id fun q => { q with moving := none, asked := false, replies := [] })
  else .stay (c.modOp o.id fun q => { q with moving := some { m with now := none }, asked := false, replies := [] })

/-- The bytes of a buffer at each of these positions replaced, in order. -/
def patches (buf : List Byte) : List (Nat × Nat) → List Byte → List Byte
  | [], _ => buf
  | r :: rs, bs => patches (patch buf r.1 (bs.take (r.2 - r.1))) rs (bs.drop (r.2 - r.1))

/-- An engine reads some bytes of its unit (R348, R366); a port that has gone down loses them (R392). -/
def Chip.readMoving (c : Chip) (o : Op) (m : Moving) (va token : Word) : Got :=
  let (m, rs, c) := c.nowMoving o m
  let ps := m.piecesOf rs
  let keys := hereKeys ps
  if c.portDown keys then .stay (c.refuseUnit o .linkLost va token)
  else if c.poisoned keys then .stay (c.refuseUnit o .memUncorrectable va token)
  else if c.hostHolds keys true then .stay (c.snoop keys false)
  else if !answered o ps then .stay (c.ask o va token (askPieces o ps fun _ pa n => .read pa n))
  else
    let c := ((c.wakeFor o.part keys).fetchHost keys).touch none keys
    let bs := ps.zipIdx.flatMap fun (p, i) => match p with
      | .here keys _ => keys.map c.mem.byte
      | .there .. => (Table.get? o.replies i).getD []
    c.movedOn o { m with buf := patches m.buf rs bs }

/-- An engine reads runs of bytes, all of them translated before any is read; token records how far it has gone (R306, R366). -/
def Chip.readRuns (c : Chip) (o : Op) (rs : List (Word × Nat)) (token : Word) : Got :=
  let va := (rs.head?.map (·.1)).getD 0
  match o.moving with
  | some m => c.readMoving o m va token
  | none =>
    match c.askTables o rs with
    | some c => .stay c
    | none =>
    let c := c.walked (coreOf o.tid) o.part o.asid rs
    match c.runs o .read (rs.flatMap cutRun) with
    | .fault w => .stay (c.waitPage o w)
    | .refuse cause va => .stay (c.refuse o cause va token)
    | .ok ps =>
      let n := (ps.map Piece.size).sum
      if n = 0 then .bytes [] c
      else c.readMoving o { wr := false, ps := ps, left := [(0, n)], now := none, buf := List.replicate n 0 } va token

/-- The bytes of each piece, in order. -/
def pieceBytes : List Piece → List Byte → List (Piece × List Byte)
  | [], _ => []
  | p :: ps, bs => (p, bs.take p.size) :: pieceBytes ps (bs.drop p.size)

/-- A piece on another device, which a link may lose. -/
def Piece.abroad : Piece → Bool
  | .here .. => false
  | .there .. => true

/-- Pieces with their positions. -/
def placed : Nat → List Piece → List ((Nat × Nat) × Piece)
  | _, [] => []
  | n, p :: ps => ((n, n + p.size), p) :: placed (n + p.size) ps

/-- The move of a unit that writes: what goes to peers goes first and together, so that no byte here of a unit that is lost is written
(R366). (DESIGN CHOICE, log 12) -/
def writesOf (ps : List Piece) (bs : List Byte) : Moving :=
  let at_ := placed 0 ps
  let first := (at_.filter fun x => x.2.abroad).map (·.1)
  { wr := true, ps := ps, left := (at_.filter fun x => !x.2.abroad).map (·.1), now := if first.isEmpty then none else some first, buf := bs }

/-- A copy or a fill. -/
def OpBody.isCopy : OpBody → Bool
  | .copy _ => true
  | _ => false

/-- An engine writes some bytes of its unit (R348, R366): a port that is down loses a unit of which no byte is written yet (R392;
DESIGN CHOICE, log 12). -/
def Chip.writeMoving (c : Chip) (o : Op) (m : Moving) (va token : Word) : Got :=
  let (m, rs, c) := c.nowMoving o m
  let ps := m.piecesOf rs
  let keys := hereKeys ps
  let data := pieceBytes ps (rs.flatMap fun r => (m.buf.drop r.1).take (r.2 - r.1))
  if !m.begun && !o.asked && c.portDown (hereKeys m.ps) then .stay (c.refuseUnit o .linkLost va token)
  else if !(ps.all fun p => match p with
      | .here _ page => c.single page
      | .there .. => true) then .stay c
  else if c.hostHolds keys false then .stay (c.snoop keys true)
  else if !answered o ps then
    .stay (c.ask o va token (askPieces o ps fun i pa _ => .write pa ((data[i]?.map (·.2)).getD [])))
  else
    let local_ := data.flatMap fun (p, b) => match p with
      | .here .. => b
      | .there .. => []
    ((c.wakeFor o.part keys).perform (.engine o.tid) keys local_ o.body.isCopy).movedOn o { m with begun := true }

/-- An engine writes runs of bytes, all of them translated before any is written. -/
def Chip.writeRuns (c : Chip) (o : Op) (rs : List (Word × Nat)) (bs : List Byte) (token : Word) : Got :=
  let va := (rs.head?.map (·.1)).getD 0
  match o.moving with
  | some m => c.writeMoving o m va token
  | none =>
    match c.askTables o rs with
    | some c => .stay c
    | none =>
    let c := c.walked (coreOf o.tid) o.part o.asid rs
    match c.runs o .write (rs.flatMap cutRun) with
    | .fault w => .stay (c.waitPage o w)
    | .refuse cause va => .stay (c.refuse o cause va token)
    | .ok ps =>
      let n := (ps.map Piece.size).sum
      if n = 0 then .bytes [] c
      else
        let m := writesOf ps bs
        Chip.writeMoving (c.modOp o.id fun q => { q with moving := some m }) { o with moving := some m } m va token

end Sys2Proof.Machine
end

