-- ==== Sys2Proof/Machine/Formats.lean ====
section
/-!
DEFINITION. Format codes, twin-shift values, saturating conversions, block scales and tile layout: R101, R146 to R163.
-/

namespace Sys2Proof.Machine

/-- The kinds of format (R146). -/
inductive Kind
  | raw
  | flt (f : FFmt)
  | int (n : Nat)
  | nat8
  | ts8
  | sc8
  | reserved
  deriving DecidableEq, Repr

/-- The kind of a format code (R146). -/
def kindOf : Nat → Kind
  | 0 => .raw | 1 => .flt fp64 | 2 => .flt fp32 | 3 => .flt bf16 | 4 => .flt fp16 | 5 => .flt e4m3 | 6 => .flt e5m2
  | 7 => .ts8 | 9 => .int 64 | 10 => .int 32 | 11 => .int 16 | 12 => .int 8 | 13 => .int 4 | 14 => .nat8 | 15 => .sc8
  | _ => .reserved

/-- Bits of an element (R146). -/
def elemBits (fmt : Nat) : Nat :=
  match kindOf fmt with
  | .flt f => 1 + f.e + f.f
  | .int n => n
  | _ => 8

/-- The exponent used in block scale choice (R146). -/
def emaxElem (fmt : Nat) : Int :=
  match fmt with
  | 5 => 7
  | 6 => 14
  | 12 => 6
  | 13 => 2
  | _ => 0

/-- A numeric format: not RAW, SC8 or reserved (R147). -/
def numeric (fmt : Nat) : Bool :=
  match kindOf fmt with
  | .raw | .sc8 | .reserved => false
  | _ => true

/-- Bytes of n elements, INT4 packed two to a byte (R160). -/
def elemBytes (fmt n : Nat) : Nat := (n * elemBits fmt + 7) / 8

/-- The magnitude of a TS8 term in units of 2^−6 (R157). -/
def ts8Term (s c : Nat) : Int := if c = 7 then 0 else (if s = 1 then -1 else 1) * (2 ^ (6 - c) : Nat)

/-- The value of a TS8 byte in units of 2^−6 (R157). -/
def ts8Units (b : Nat) : Int := ts8Term (b / 128 % 2) (b / 16 % 8) + ts8Term (b / 8 % 2) (b % 8)

/-- The pairs of exponents of R158, a below b. -/
def ts8Pairs : List (Nat × Nat) := (List.range 7).flatMap fun a => ((List.range 7).filter (a < ·)).map fun b => (a, b)

/-- The canonical byte of a positive magnitude, if TS8 holds it (R158); sign bits clear. -/
def ts8Mag (n : Nat) : Option Nat :=
  if n = 0 then some 0x77
  else if n = 128 then some 0x00
  else match (List.range 7).find? fun c => 2 ^ (6 - c) == n with
    | some c => some (16 * c + 7)
    | none =>
      match ts8Pairs.find? fun (a, b) => 2 ^ (6 - a) + 2 ^ (6 - b) == n with
      | some (a, b) => some (16 * a + b)
      | none => (ts8Pairs.find? fun (a, b) => 2 ^ (6 - a) == n + 2 ^ (6 - b)).map fun (a, b) => 16 * a + 8 + b

/-- The canonical byte of a value (R158): with the sign, s1 is set and s2 turns, but an absent second term keeps s2 = 0. -/
def ts8Byte (neg : Bool) (n : Nat) : Nat :=
  let b := (ts8Mag n).getD 0x77
  if !neg || n = 0 then b else if b % 8 = 7 then b + 128 else (b + 128) ^^^ 8

/-- The magnitudes TS8 holds, in units of 2^−6, ascending. -/
def ts8Mags : List Nat := (List.range 129).filter fun n => (ts8Mag n).isSome

/-- Twice the distance of m · 2^x from n, x and n in units of 2^−6, over a common scale. -/
def ts8Dist (m : Nat) (x : Int) (n : Nat) : Nat :=
  if 0 ≤ x then ((m * 2 ^ x.toNat : Nat) - (n : Int) : Int).natAbs
  else ((m : Int) - (n * 2 ^ (-x).toNat : Nat)).natAbs

/-- The nearest magnitude; on a tie the smaller (R159). -/
def ts8Nearest (m : Nat) (x : Int) : Nat :=
  ts8Mags.foldl (fun best n => if ts8Dist m x n < ts8Dist m x best then n else best) 0

/-- What a quantisation or saturating conversion gives: bits, flags, SAT and UNF events. -/
structure Quant where
  bits : Nat
  flags : FlagSet
  sat : Nat
  unf : Nat
  deriving DecidableEq, Repr

/-- One event if p. -/
def ev (p : Bool) : Nat := if p then 1 else 0

/-- TS8 quantisation (R159); an infinity gives ±2 with SAT, a NaN 0x77 with NV. (DEDUCED, log 33) -/
def quantTs8 : FVal → Quant
  | .nan _ => { bits := 0x77, flags := flagNV, sat := 0, unf := 0 }
  | .inf s => { bits := ts8Byte s 128, flags := 0, sat := 1, unf := 0 }
  | .fin s m x =>
    if m = 0 then { bits := 0x77, flags := 0, sat := 0, unf := 0 }
    else if 2 ≤ (m.log2 : Int) + x || (exactAdd false m x true 2 0).1 > 0 then
      { bits := ts8Byte s 128, flags := 0, sat := 1, unf := 0 }
    else if (m.log2 : Int) + x < -8 then { bits := 0x77, flags := 0, sat := 0, unf := 1 }
    else
      let n := ts8Nearest m (x + 6)
      { bits := ts8Byte s n, flags := 0, sat := 0, unf := ev (n == 0) }

/-- Bits of an integer in n-bit two's complement. -/
def intBits (n : Nat) (v : Int) : Nat := (v % (2 ^ n : Nat)).toNat

/-- A saturating conversion to lo … hi (R156). -/
def quantInt (n : Nat) (lo hi : Int) : FVal → Quant
  | .nan _ => { bits := 0, flags := flagNV, sat := 0, unf := 0 }
  | .inf s => { bits := intBits n (if s then lo else hi), flags := 0, sat := 1, unf := 0 }
  | .fin s m x =>
    let (v, ne) := FVal.toInteger 0 s m x
    if v < lo then { bits := intBits n lo, flags := 0, sat := 1, unf := 0 }
    else if hi < v then { bits := intBits n hi, flags := 0, sat := 1, unf := 0 }
    else { bits := intBits n v, flags := flagIf ne flagNX, sat := 0, unf := ev (m != 0 && v == 0) }

/-- A saturating conversion to a floating-point format (R155). (DEDUCED, log 68) -/
def quantFlt (F : FFmt) : FVal → Quant
  | .nan _ => { bits := F.nan, flags := flagNV, sat := 0, unf := 0 }
  | .inf s => if F.inf then { bits := F.signed s F.infCode, flags := 0, sat := 0, unf := 0 }
    else { bits := F.signed s F.maxCode, flags := flagNV, sat := 1, unf := 0 }
  | .fin s m x =>
    let r := F.round 0 true s m x
    { bits := r.bits, flags := if r.zeroed then flagUF ||| flagNX else r.flags, sat := ev r.ovf, unf := ev r.zeroed }

/-- A saturating conversion to a format (R155, R156, R159). -/
def quantize (fmt : Nat) (v : FVal) : Quant :=
  match kindOf fmt with
  | .flt F => quantFlt F v
  | .int n => quantInt n (-(2 ^ (n - 1) : Nat)) ((2 ^ (n - 1) : Nat) - 1) v
  | .nat8 => quantInt 8 0 255 v
  | .ts8 => quantTs8 v
  | _ => { bits := 0, flags := 0, sat := 0, unf := 0 }

/-- The signed value of n bits. -/
def signedOf (n bits : Nat) : Int := if bits < 2 ^ (n - 1) then bits else (bits : Int) - (2 ^ n : Nat)

/-- The exact value of an element (R148, R157, R160). -/
def elemValue (fmt bits : Nat) : FVal :=
  match kindOf fmt with
  | .flt F => F.value bits
  | .int n => .ofInt (signedOf n (bits % 2 ^ n))
  | .ts8 =>
    let u := ts8Units bits
    .fin (decide (u < 0)) u.natAbs (-6)
  | _ => .fin false bits 0

/-- Element i of bytes packed in a format (R160). -/
def elemAt (fmt : Nat) (bs : List Byte) (i : Nat) : Nat :=
  if elemBits fmt = 4 then (bs.getD (i / 2) 0).toNat / (if i % 2 = 0 then 1 else 16) % 16
  else natOfBytes ((bs.drop (i * (elemBits fmt / 8))).take (elemBits fmt / 8))

/-- Elements packed to bytes, INT4 two to a byte; the spare high nibble of an odd number of them is zero (R160; DESIGN CHOICE, log
80). (DESIGN CHOICE, log 80) -/
def packElems (fmt : Nat) : List Nat → List Byte
  | [] => []
  | [x] => bytesOfNat (if elemBits fmt = 4 then 1 else elemBits fmt / 8) x
  | x :: y :: xs =>
    if elemBits fmt = 4 then BitVec.ofNat 8 (x + 16 * y) :: packElems fmt xs
    else bytesOfNat (elemBits fmt / 8) x ++ packElems fmt (y :: xs)

/-- An element scaled by a power of two. -/
def FVal.scale (v : FVal) (k : Int) : FVal :=
  match v with
  | .fin s m x => .fin s m (x + k)
  | v => v

/-- Compare magnitudes of finite values. -/
def magLt (m : Nat) (x : Int) (n : Nat) (y : Int) : Bool := decide ((exactAdd false m x true n y).1 < 0)

/-- The greatest magnitude among finite values. -/
def amax (vs : List FVal) : Nat × Int :=
  vs.foldl (fun (m, x) v => match v with
    | .fin _ n y => if magLt m x n y then (n, y) else (m, x)
    | _ => (m, x)) (0, 0)

/-- A value that is not finite. -/
def FVal.nonfinite : FVal → Bool
  | .fin .. => false
  | _ => true

/-- The scale code of a block (R162). -/
def scaleCode (fmt : Nat) (vs : List FVal) : Nat :=
  if vs.any FVal.nonfinite then 255
  else
    let (m, x) := amax vs
    if m = 0 then 0 else (min (max ((m.log2 : Int) + x - emaxElem fmt + 127) 1) 254).toNat

/-- The canonical zero of a block format (R162). -/
def canonZero (fmt : Nat) : Nat := if fmt = 7 then 0x77 else 0

/-- A quantised block: its scale code and its elements (R162); a signalling NaN raises NV (R149). -/
def quantBlock (fmt : Nat) (vs : List FVal) : Nat × List Quant :=
  let s := scaleCode fmt vs
  if s = 0 || s = 255 then
    (s, vs.map fun v => { bits := canonZero fmt, flags := flagIf v.signals flagNV, sat := 0, unf := 0 })
  else (s, vs.map fun v => quantize fmt (v.scale (127 - s)))

/-- ROWS of a handle (R99). -/
def hRows (h : Word) : Nat := 8 * 2 ^ fld h 54 2
/-- COLS of a handle. -/
def hCols (h : Word) : Nat := 8 * 2 ^ fld h 52 2
/-- FMT of a handle. -/
def hFmt (h : Word) : Nat := fld h 59 5
/-- BLK = 3 in a handle. -/
def hBlocked (h : Word) : Bool := fld h 56 3 == 3
/-- The header of a handle: FMT, BLK, ROWS, COLS (R124). -/
def hHeader (h : Word) : BitVec 12 := h.extractLsb' 52 12
/-- Space of a handle. -/
def hSpace (h : Word) : Nat := fld h 44 8
/-- Index of a handle. -/
def hIndex (h : Word) : Nat := fld h 16 28
/-- Version of a handle. -/
def hVersion (h : Word) : BitVec 16 := h.extractLsb' 0 16

/-- tbytes(h): elements, then scale bytes (R121, R163). -/
def tbytes (h : Word) : Nat := elemBytes (hFmt h) (hRows h * hCols h) + if hBlocked h then hRows h * hCols h / 8 else 0

/-- Granules of an extent (R101). -/
def granuleCount (n : Nat) : Nat := (n + 127) / 128

/-- A handle of a header and the rest of another handle. -/
def handleOf (hdr : BitVec 12) (space index : Nat) (v : BitVec 16) : Word :=
  hdr ++ BitVec.ofNat 8 space ++ BitVec.ofNat 28 index ++ v

/-! ### Digests in GF(2^128) (R284) -/

/-- Multiplication by x modulo x^128 + x^7 + x^2 + x + 1. -/
def gfDouble (a : Digest) : Digest := (a <<< 1) ^^^ if a.getLsbD 127 then 0x87 else 0

/-- The field product: the bits k − 1 to 0 of b, high first. -/
def gfMul (a b : Digest) : Nat → Digest → Digest
  | 0, acc => acc
  | k + 1, acc => gfMul a b k (gfDouble acc ^^^ if b.getLsbD k then a else 0)

/-- A 16-byte block as a polynomial: bit i of byte j is the coefficient of x^(8j + i). -/
def gfBlock (bs : List Byte) : Digest := BitVec.ofNat 128 (natOfBytes bs)

/-- The digest over the data after Y (R284); fuel bounds the blocks. -/
def gfBlocks (key : Digest) : Nat → List Byte → Digest → Digest
  | 0, _, y => y
  | n + 1, bs, y => if bs.isEmpty then y else gfBlocks key n (bs.drop 16) (gfMul (y ^^^ gfBlock (bs.take 16)) key 128 0)

/-- A digest with its header block (R284). (DESIGN CHOICE, log 7) -/
def digestOf (key : Digest) (header data : List Byte) : Digest :=
  gfBlocks key (data.length / 16 + 2) (header ++ data) 0

/-- The header block of a tile digest (R284): FMT, BLK, shape, tag 0, tbytes. -/
def tileHeader (hdr : BitVec 12) (n : Nat) : List Byte :=
  [(hdr.extractLsb' 7 5).setWidth 8, (hdr.extractLsb' 4 3).setWidth 8, (hdr.extractLsb' 0 4).setWidth 8, 0, 0, 0, 0, 0]
    ++ bytesOfNat 8 n

/-- The header block of a task key (tag 1) or code digest (tag 2). -/
def tagHeader (tag n : Nat) : List Byte := [0, 0, 0, BitVec.ofNat 8 tag, 0, 0, 0, 0] ++ bytesOfNat 8 n

/-- The partition's key H_t (R285). (DESIGN CHOICE, log 7) -/
def Chip.key (c : Chip) (p : Nat) : Digest :=
  if Config.hiddenKey (c.part p).keyNo = 0 then 1 else Config.hiddenKey (c.part p).keyNo

/-- The digest of a tile version (R284). -/
def Chip.tileDigest (c : Chip) (p : Nat) (hdr : BitVec 12) (bytes : List Byte) : Digest :=
  digestOf (c.key p) (tileHeader hdr bytes.length) bytes

end Sys2Proof.Machine
end

