-- ==== Sys2Proof/Machine/Homes.lean ====
section
/-!
DEFINITION. The homes of tile versions: spaces, heads, entries, extents, and what a home does with a request (R99 to
R119, R129 to R136).
-/

namespace Sys2Proof.Machine

/-! ### Spaces and slices -/

/-- The definition of a space of a partition (R102). -/
def Chip.space? (c : Chip) (p id : Nat) : Option Space := c.spaces.find? fun s => s.part == p && s.id == id

/-- The home slice of a name of a space homed on this package (R103). (DESIGN CHOICE, log 6) -/
def Chip.homeSlice (c : Chip) (s : Space) (index : Nat) : Nat :=
  let ss := c.slices s.part
  chooseSlice (if s.home = 1 then ss.filter fun k => k / 16 == s.die else ss) (s.id * 2 ^ 28 + index)

/-- The home slice of a name. -/
def Chip.sliceOf (c : Chip) (p space index : Nat) : Nat :=
  match c.space? p space with
  | some s => c.homeSlice s index
  | none => 0

/-! ### Names -/

/-- A name of a partition (R99). -/
structure Name where
  part : Nat
  space : Nat
  index : Nat
  deriving DecidableEq, Repr

/-- The name of an entry. -/
def Entry.name (e : Entry) : Name := { part := e.part, space := e.space, index := e.index }
/-- The name of a head. -/
def Head.name (h : Head) : Name := { part := h.part, space := h.space, index := h.index }
/-- The name of a request. -/
def Req.name (r : Req) : Name := { part := r.part, space := r.space, index := r.index }

/-- The entry of a version. -/
def Chip.entry? (c : Chip) (n : Name) (v : BitVec 16) : Option Entry := c.entries.find? fun e => e.name == n && e.version == v

/-- The head of a name. -/
def Chip.head? (c : Chip) (n : Name) : Option Head := c.heads.find? fun h => h.name == n

end Sys2Proof.Machine

namespace Sys2Proof
open Machine

/-- The body is a store. -/
def TileBody.isStore : TileBody → Bool
  | .store .. | .gather .. | .aliasOf .. => true
  | _ => false

/-- The body takes a use count to the new version. -/
def TileBody.uses : TileBody → Nat
  | .store u _ | .gather u | .aliasOf _ u => u
  | _ => 0

end Sys2Proof

namespace Sys2Proof.Machine

/-- A store that waits at the home and keeps its version reserved (R21). -/
def Req.reserves (r : Req) : Bool :=
  r.body.isStore && (r.phase == .waitHead || r.phase == .waitStore || r.phase == .gathering)

/-- A request that keeps its version's place in the window: a waiter or a waiting store (R108). (DEDUCED, log 13) -/
def Req.standing (r : Req) : Bool := r.phase == .waiter || r.phase == .waitRecord || r.reserves

/-- Some request stands on a version. -/
def Chip.standingOn (c : Chip) (n : Name) (v : BitVec 16) : Bool :=
  c.reqs.any fun r => r.name == n && r.version == v && r.standing

/-- The window test of R109 for a version without an entry: a cause, or in the window. -/
def Head.window (h : Head) (v : BitVec 16) : Option Cause :=
  let w := (v - h.lo).toNat
  let a := (v - h.hi).toNat
  if 1 ≤ w ∧ w ≤ 2 ^ 15 then none
  else if 1 ≤ a ∧ a ≤ 2 ^ 15 - 1 then some .vwindow
  else some .vdead

/-- PUBLISHED versions with uses above zero (R111). -/
def Chip.liveVersions (c : Chip) (n : Name) : Nat :=
  (c.entries.filter fun e => e.name == n && e.state == .published && decide (0 < e.uses)).length

/-! ### Room -/

/-- Entries and heads of a partition in a slice. -/
def Chip.tableUsed (c : Chip) (p slice : Nat) : Nat :=
  (c.entries.filter fun e => e.part == p && c.sliceOf p e.space e.index == slice).length +
  (c.heads.filter fun h => h.part == p && c.sliceOf p h.space h.index == slice).length

/-- Entries and heads of a space. -/
def Chip.spaceUsed (c : Chip) (p s : Nat) : Nat :=
  (c.entries.filter fun e => e.part == p && e.space == s).length + (c.heads.filter fun h => h.part == p && h.space == s).length

/-- An entry is free in the slice, within the partition's share and the space's quota (R105, R106, R111). -/
def Chip.roomFor (c : Chip) (s : Space) (slice : Nat) : Bool :=
  decide (c.tableUsed s.part slice < 256 * (c.part s.part).layout.vtshare) &&
  (s.equota == 0 || decide (c.spaceUsed s.part s.id < s.equota))

/-- SRAM granules in use in a slice (R117). -/
def Chip.sramUsed (c : Chip) (slice : Nat) : Nat :=
  ((c.extents.filter fun e => e.2.back == 0 && e.2.slice == slice).map fun e => e.2.gran).sum

/-- Backing kinds in the order of a preference (R117). -/
def backOrder : Nat → List Nat
  | 0 => [0, 1, 2]
  | 1 => [1, 2]
  | _ => [2, 1]

/-- Bytes that extents hold in a frame of a pool. (DESIGN CHOICE, log 18) -/
def Chip.frameUsed (c : Chip) (a : Nat) : Nat :=
  ((c.extents.filter fun e => e.2.back != 0 && e.2.frame == a).map fun e => 128 * e.2.gran).sum

/-- A frame of a partition's pool lies in memory that the partition may reach: in its channels alone (R397, R401). -/
def Chip.frameMay (c : Chip) (p : Nat) (f : Nat × Nat × Nat) : Bool :=
  (List.range (max 1 (f.2.2 / 65536))).all fun i => (c.reach p f.1 (f.2.1 + 65536 * i)).isNone

/-- The first frame of the pool that takes an extent of a backing: HBM4E of the home die, or CXL expansion memory (R117; DESIGN
CHOICE, log 18). -/
def Chip.poolFrame (c : Chip) (p slice back gran : Nat) : Option Nat :=
  ((c.part p).frames.find? fun f => f.1 + 1 == back && (back != 1 || dieOfHbm f.2.1 == slice / 16) && c.frameMay p f
    && decide (c.frameUsed f.2.1 + 128 * gran ≤ f.2.2)).map fun f => f.2.1

/-- The first kind that takes an extent, with its frame; none where no kind does (R117). (DESIGN CHOICE, log 18) -/
def Chip.placeExtent (c : Chip) (s : Space) (slice gran : Nat) : Option (Nat × Nat) :=
  (backOrder s.backing).findSome? fun k =>
    if k = 0 then if c.sramUsed slice + gran ≤ 16384 then some (0, 0) else none
    else (c.poolFrame s.part slice k gran).map fun f => (k, f)

/-- What keeps a partition from the frame of an extent of its: a channel that is not its own any more, or a port that is down (R118,
R392, R401). -/
def Chip.frameFault (c : Chip) (p : Nat) (x : Extent) : Option Cause :=
  if x.back = 0 then none
  else
    let size := (((c.part p).frames.find? fun f => f.1 + 1 == x.back && f.2.1 == x.frame).map fun f => f.2.2).getD 65536
    (List.range (max 1 (size / 65536))).findSome? fun i => c.reach p (x.back - 1) (x.frame + 65536 * i)

/-- What keeps the bytes of an extent of a partition from being delivered (R118, R401). -/
def Chip.extentFault (c : Chip) (p : Nat) (x : Nat) : Option Cause :=
  (Table.get? c.extents x).bind fun e => (c.frameFault p e).or (if e.bad then some .memUncorrectable else none)

/-! ### Extents, cinders and heads -/

/-- A reference more on an extent. -/
def Chip.addRef (c : Chip) (x : Nat) : Chip :=
  match Table.get? c.extents x with
  | some e => { c with extents := Table.put c.extents x { e with refs := e.refs + 1 } }
  | none => c

/-- A reference less; an extent without references is free (R108). -/
def Chip.dropRef (c : Chip) (x : Nat) : Chip :=
  match Table.get? c.extents x with
  | some e => { c with extents := if e.refs ≤ 1 then Table.erase c.extents x else Table.put c.extents x { e with refs := e.refs - 1 } }
  | none => c

/-- The entry of a version changed. -/
def Chip.modEntry (c : Chip) (n : Name) (v : BitVec 16) (f : Entry → Entry) : Chip :=
  { c with entries := c.entries.map fun e => if e.name = n ∧ e.version = v then f e else e }

/-- The head of a name changed. -/
def Chip.modHead (c : Chip) (n : Name) (f : Head → Head) : Chip :=
  { c with heads := c.heads.map fun h => if h.name = n then f h else h }

/-- A request changed. -/
def Chip.modReq (c : Chip) (id : Nat) (f : Req → Req) : Chip :=
  { c with reqs := c.reqs.map fun r => if r.id = id then f r else r }

/-- A request gone. -/
def Chip.dropReq (c : Chip) (id : Nat) : Chip := { c with reqs := c.reqs.filter fun r => r.id != id }

/-- The request of an id. -/
def Chip.req? (c : Chip) (id : Nat) : Option Req := c.reqs.find? fun r => r.id == id

/-- Uses set; at zero the entry becomes DEAD and drops its extent (R107, R108). (DEDUCED, log 13) -/
def Chip.setUses (c : Chip) (e : Entry) (u : Nat) : Chip :=
  if u = 0 then (c.modEntry e.name e.version fun e => { e with state := .dead, uses := 0 }).dropRef e.extent
  else c.modEntry e.name e.version fun e => { e with uses := u }

/-- The low-water mark advances over versions that hold nothing (R108). (DEDUCED, log 13) -/
def Chip.advance (c : Chip) (n : Name) : Nat → Chip
  | 0 => c
  | k + 1 =>
    match c.head? n with
    | none => c
    | some h =>
      if h.lo = h.hi || (c.entry? n (h.lo + 1)).isSome || c.standingOn n (h.lo + 1) then c
      else (c.modHead n fun h => { h with lo := h.lo + 1 }).advance n k

/-- A DEAD entry of a name that nothing waits on, with a waiter record or for one. (DEDUCED, log 13) (DEDUCED, log 24) -/
def Chip.cinder (c : Chip) (n : Name) (e : Entry) : Bool :=
  e.name == n && e.state == .dead &&
  !c.reqs.any fun r => r.name == n && r.version == e.version && (r.phase == .waiter || r.phase == .waitRecord)

/-- A name with nothing left releases its head (R106). (DEDUCED, log 13) -/
def Chip.releaseHead (c : Chip) (n : Name) : Chip :=
  { c with heads := c.heads.filter fun h =>
      !(h.name == n && h.lo == h.hi && !(c.entries.any fun e => e.name == n) && !(c.reqs.any fun r => r.name == n && r.standing)) }

/-- Every cinder of a name is reclaimed at once, and a head left with nothing goes (R106, R107, R108). (DEDUCED, log 13) -/
def Chip.settle (c : Chip) (n : Name) : Chip :=
  let gone := c.entries.filter (c.cinder n)
  let c := { c with entries := c.entries.filter fun e => !gone.contains e }
  (if gone.isEmpty then c else c.advance n 65536).releaseHead n

/-! ### Answers -/

/-- The information word of R132. -/
def Chip.infoWord (c : Chip) (e : Entry) : Word :=
  let x := Table.get? c.extents e.extent
  let slice := c.sliceOf e.part e.space e.index
  BitVec.ofNat 64 (min 65535 ((x.map Extent.refs).getD 0) * 2 ^ 48 + e.uses * 2 ^ 32 + slice / 16 * 2 ^ 25 + slice % 16 * 2 ^ 21
    + (x.map Extent.gran).getD 0 * 2 ^ 9 + (x.map Extent.back).getD 0)

/-- The state word of R130. -/
def Chip.stateWord (c : Chip) (n : Name) (v : BitVec 16) : Word :=
  let h := (c.head? n).getD { part := n.part, space := n.space, index := n.index, hi := 0xFFFF, lo := 0xFFFF }
  let (u, cls) : Nat × Nat := match c.entry? n v with
    | some e => match e.state with
      | .pending => (0, 2)
      | .published => (e.uses, 3)
      | .dead => (0, 4)
    | none =>
      if c.reqs.any fun r => r.name == n && r.version == v && r.reserves then (0, 1)
      else match h.window v with
        | none => (0, 0)
        | some .vwindow => (0, 6)
        | some _ => (0, 5)
  h.lo ++ h.hi ++ BitVec.ofNat 16 u ++ BitVec.ofNat 16 cls

/-- The value of a request that delivers no bytes: the handle, half of the digest, the information word (R129). -/
def Chip.lookValue (c : Chip) (r : Req) (e : Entry) : Look → Word
  | .digest hi => if hi then e.digest.extractLsb' 64 64 else e.digest.extractLsb' 0 64
  | .info => c.infoWord e
  | _ => handleOf r.header r.space r.index r.version

/-- The operation of a request is answered with a value. -/
def Chip.answerOp (c : Chip) (id : Nat) (v : Word) : Chip := c.modOp id fun o => { o with ready := true, result := v }

/-- A SPAWNP's command changed. -/
def Chip.modSpawnp (c : Chip) (id : Nat) (f : SpawnpCmd → SpawnpCmd) : Chip :=
  c.modOp id fun o => match o.body with
    | .spawnp s => { o with body := .spawnp (f s) }
    | _ => o

/-- PUBSTAT of a virtual function (R404): 0 published, 1 WONCE, 2 waiting on quota, 3 refused. -/
def Chip.reportVf (c : Chip) (vf : Nat) (busy : Bool) (stat : Nat) : Chip :=
  { c with vfs := Table.put c.vfs vf { (Table.get? c.vfs vf).getD .empty with busy := busy, stat := stat } }

/-- A request that delivers no bytes is answered and gone. (DESIGN CHOICE, log 87) -/
def Chip.answer (c : Chip) (r : Req) (v : Word) : Chip :=
  let c := c.dropReq r.id
  match r.origin with
  | .op id => c.answerOp id v
  | .peer dev tag => { c with sent := c.sent ++ [.rsp dev tag (.served v [])] }
  | .vf vf => c.reportVf vf false 0
  | .hitOutput op k => c.modSpawnp op fun s => { s with hits := s.hits.filter (· != k) }
  | _ => c

/-- The origin is a thread or an engine command, here or on a peer: its waiting counts (R24). (DEDUCED, log 24) -/
def Origin.counts : Origin → Bool
  | .vf .. | .launch => false
  | _ => true

/-- Waiter records in use in a slice. -/
def Chip.recordsUsed (c : Chip) (slice : Nat) : Nat :=
  (c.reqs.filter fun r => r.phase == .waiter && c.sliceOf r.part r.space r.index == slice).length

/-- The requests that registered at the home slice of r before it (R20). -/
def Chip.before (c : Chip) (r : Req) : List Req :=
  (c.reqs.takeWhile fun q => q.id != r.id).filter fun q => c.sliceOf q.part q.space q.index == c.sliceOf r.part r.space r.index

/-- A load joins the waiter list, or waits for a record behind those that wait for one (R114, R116). (DEDUCED, log 24) -/
def Chip.joinWaiters (c : Chip) (r : Req) : Chip :=
  if 4096 ≤ c.recordsUsed (c.sliceOf r.part r.space r.index) || (c.before r).any fun q => q.phase == .waitRecord then c.modReq r.id fun q => { q with phase := .waitRecord }
  else
    let c := c.modReq r.id fun q => { q with phase := .waiter }
    if r.origin.counts then c.modPart r.part fun p => { p with vtWaits := p.vtWaits + 1 } else c

/-- The tag of a tile request: the last of its operation's. -/
def tileTag (id : Nat) : Nat := tagOf id 8191

/-- The scheduler's load of a launch version is over: it registers a load of the next, which stands in the home's queue (R262).
(DEDUCED, log 26) -/
def Chip.nextLaunch (c : Chip) (r : Req) : Chip :=
  let v := r.version + 1
  let q := { r with id := c.nextId, version := v, phase := .travelling }
  (Chip.joinWaiters { c with reqs := c.reqs ++ [q], nextId := c.nextId + 1 } q).modPart r.part
    fun x => { x with launch := Table.put x.launch r.index v.toNat }

/-- A request leaves its home, on another package by a flit to where it was sent; a store that is PENDING is published (R119). -/
def Chip.leaveReq (c : Chip) (r : Req) : Chip :=
  match r.phase with
  | .pending => c
  | .closing => c.dropReq r.id
  | _ =>
    let c := c.dropReq r.id
    let c := match r.phase, r.sentTo with
      | .away, some (dev, rp) | .remote, some (dev, rp) | .gathering, some (dev, rp) =>
        { c with sent := c.sent ++ [Sent.req dev rp (tileTag r.id) .leave] }
      | _, _ => c
    let c := match r.phase, r.body with
      | .served x, _ => c.dropRef x
      | _, .aliasOf x _ => c.dropRef x
      | _, _ => c
    c.settle r.name

/-- The cause that the single result of a SPAWNP delivers, once one more output is refused: a fatal one before a WONCE, else the
first (R246). (DESIGN CHOICE, log 75) -/
def worse (old : Option (Cause × Word)) (cause : Cause) (target : Word) : Option (Cause × Word) :=
  match old with
  | none => some (cause, target)
  | some (x, a) => if x.resumable && !cause.resumable then some (cause, target) else some (x, a)

/-- The progress token of a matrix command (R306). (DEDUCED, log 30) -/
def mxToken (att rung blocks : Nat) : Word := BitVec.ofNat 64 (2 ^ 13 * att + 2 ^ 10 * rung + blocks)

/-- The progress token of an MMUL (R204, R306): before its first attempt it stands at its floor. (DEDUCED, log 30) -/
def mulToken (m : MulCmd) (att : Option Attempt) : Word :=
  match att with
  | some a => mxToken a.attempts a.rung a.blocks
  | none => mxToken 0 (fld m.ladder 0 3) 0

/-- The progress token of an operation whose tile request is refused (R204, R306). -/
def OpBody.askToken : OpBody → Word
  | .mmul m att => mulToken m att
  | _ => 0

/-- A request is refused with a cause (R23, R118): its references are dropped, and its issuer learns of it. (DESIGN CHOICE, log 75) -/
def Chip.refuseReq (c : Chip) (r : Req) (cause : Cause) : Chip :=
  let c := c.dropReq r.id
  let c := match r.phase with
    | .served x => c.dropRef x
    | _ => c
  let c := match r.body with
    | .aliasOf x _ => c.dropRef x
    | _ => c
  match r.origin with
  | .op id =>
    match c.op? id with
    | some o => (c.refuse o cause 0 o.body.askToken).modThread o.tid fun t => { t with
        owed := t.owed.map fun x => if x.id = o.id then { x with req := some r } else x }
    | none => c
  | .peer dev tag => { c with sent := c.sent ++ [.rsp dev tag (.refused cause)] }
  | .vf vf => c.reportVf vf false (if cause = .wonce then 1 else 3)
  | .hitOutput op k => c.modSpawnp op fun s =>
      { s with hits := s.hits.filter (· != k), failed := worse s.failed cause r.target }
  | .argDigest op _ =>
    match c.op? op with
    | some o => Chip.refuse ((c.reqs.filter fun q => match q.origin with
        | .argDigest id _ => id == op
        | _ => false).foldl Chip.leaveReq c) { o with opA := r.target } cause 0 0
    | none => c
  | .launch => c.nextLaunch r

/-- The digest of an argument reaches its SPAWNP (R246). -/
def Chip.takeDigest (c : Chip) (r : Req) (d : Digest) : Chip :=
  match r.origin with
  | .argDigest op k => (c.dropReq r.id).modSpawnp op fun s => { s with digests := Table.put s.digests k d }
  | .peer dev tag =>
    { c.dropReq r.id with sent := c.sent ++ [.rsp dev tag (.served 0 (bytesOfNat 16 d.toNat))] }
  | _ => c.dropReq r.id

/-- Bytes of an extent. -/
def Chip.extentBytes (c : Chip) (x : Nat) : List Byte := ((Table.get? c.extents x).map Extent.bytes).getD []

/-- An error is detected in an extent: cellar entries that hold it are removed and count CEL_EVICT (R291). -/
def Chip.detect (c : Chip) (x : Nat) : Chip :=
  (c.cellar.filter fun e => e.outs.any fun o => o.2.1 == x).foldl (fun c e =>
    let c := e.outs.foldl (fun c o => c.dropRef o.2.1) { c with cellar := c.cellar.filter (· != e) }
    c.modPart e.part fun p => { p with celEvict := p.celEvict + 1 }) c

/-- A waiter's bytes go in the NOTICE class, others' in the RSP class (R115). -/
def Chip.deliver (c : Chip) (r : Req) (e : Entry) : Chip :=
  match r.origin with
  | .peer dev tag =>
    let body := LinkRsp.served (handleOf r.header r.space r.index r.version) (c.extentBytes e.extent)
    { c.dropReq r.id with sent := c.sent ++ [if r.phase = .waiter then Sent.notice dev tag body else Sent.rsp dev tag body] }
  | _ => (c.addRef e.extent).modReq r.id fun q => { q with phase := .served e.extent }

/-- A delivery is refused: an uncorrectable error is detected, an extent out of reach is not (R118, R291). -/
def Chip.refuseBytes (c : Chip) (r : Req) (e : Entry) (cause : Cause) : Chip :=
  (if cause = .memUncorrectable then c.detect e.extent else c).refuseReq r cause

/-- The scheduler's load of a launch version is served: it takes the version's header and the ASID of its root tasks (R406), the
remaining uses are released, and the next load stands (R262). (DEDUCED, log 26) -/
def Chip.serveLaunch (c : Chip) (r : Req) (e : Entry) : Chip :=
  match c.extentFault r.part e.extent with
  | some cause => c.refuseBytes r e cause
  | none =>
    (((c.addRef e.extent).modReq r.id fun q => { q with phase := .served e.extent, header := e.header, asid := e.asid }).setUses e 0).nextLaunch r

/-- The home cannot reach the peer whose request this is, which raises LINK_LOST on its own package (R118): it goes, and its delivery
takes no use (DESIGN CHOICE, log 94). -/
def Chip.strandedPeer (c : Chip) (r : Req) : Bool :=
  match r.origin with
  | .peer dev _ => !c.linksUp dev
  | _ => false

/-- A load-class or use-change request meets its PUBLISHED entry (R114, R118, R124, R129, R135, R136). -/
def Chip.serve (c : Chip) (r : Req) (e : Entry) : Chip :=
  if r.origin = .launch then c.serveLaunch r e
  else if e.header != r.header then c.refuseReq r .badHandle
  else match r.body with
  | .load keep =>
    match c.extentFault r.part e.extent with
    | some cause => c.refuseBytes r e cause
    | none =>
      if c.strandedPeer r then c.dropReq r.id
      else
        let c := c.deliver r e
        if keep || e.uses == 65535 then c else c.setUses e (e.uses - 1)
  | .look .bytes =>
    match c.extentFault r.part e.extent with
    | some cause => c.refuseBytes r e cause
    | none => if c.strandedPeer r then c.dropReq r.id else c.deliver r e
  | .look .key => c.takeDigest r e.digest
  | .look w => c.answer r (c.lookValue r e w)
  | .talias .. => (c.addRef e.extent).modReq r.id fun q => { q with phase := .served e.extent }
  | .change add n =>
    if add then
      if e.uses = 65535 then c.answer r 65535
      else if 65534 < e.uses + n then c.refuseReq r .illegalOperand
      else (c.setUses e (e.uses + n)).answer r (BitVec.ofNat 64 (e.uses + n))
    else
      let u := if n = 0 ∨ e.uses ≤ n ∨ e.uses = 65535 then 0 else e.uses - n
      (c.setUses e u).answer r (BitVec.ofNat 64 u)
  | _ => c

/-! ### Registration -/

/-- A store waits: the partition's counter rises once, and a virtual function's PUBSTAT shows it (R24, R404). -/
def Chip.countStall (c : Chip) (r : Req) : Chip :=
  let c := match r.origin with
    | .vf vf => c.reportVf vf true 2
    | _ => c
  if r.counted then c
  else (c.modReq r.id fun q => { q with counted := true }).modPart r.part fun p => { p with vtStall := p.vtStall + 1 }

/-- An earlier load of the version waits for a record, or is the scheduler's and is still to be served: this request stands
behind it (R116, R262). (DEDUCED, log 24) (DEDUCED, log 26) -/
def Chip.recordQueue (c : Chip) (r : Req) : Bool :=
  (c.before r).any fun q => q.name == r.name && q.version == r.version &&
    (q.phase == .waitRecord || (q.phase == .waiter && q.origin == .launch && (c.part q.part).state == .running))

/-- An earlier request to the name waits for its head: this one stands behind it (R106). -/
def Chip.nameQueue (c : Chip) (r : Req) : Bool := (c.before r).any fun q => q.phase == .waitHead && q.name == r.name

/-- The bytes a store publishes. -/
def Chip.storeBytes (c : Chip) : TileBody → List Byte
  | .store _ bs => bs
  | .aliasOf x _ => c.extentBytes x
  | _ => []

/-- The entry a store makes (R105). -/
def Req.entry (r : Req) (x : Nat) : Entry where
  part := r.part
  space := r.space
  index := r.index
  version := r.version
  state := .pending
  uses := r.body.uses
  header := r.header
  extent := x
  digest := 0
  asid := r.asid

/-- A store makes its entry PENDING, with its bytes in an extent of this kind and frame (R105, R111, R117). -/
def Chip.putStore (c : Chip) (r : Req) (slice : Nat) (back : Nat × Nat) : Chip :=
  match r.body with
  | .aliasOf x _ => { (c.modReq r.id fun q => { q with phase := .pending }) with entries := r.entry x :: c.entries }
  | b =>
    let bytes := c.storeBytes b
    let x : Extent := { bytes := bytes, gran := granuleCount bytes.length, refs := 1, back := back.1, slice := slice, frame := back.2, bad := false }
    { (c.modReq r.id fun q => { q with phase := .pending }) with
        entries := r.entry c.nextId :: c.entries, extents := Table.put c.extents c.nextId x, nextId := c.nextId + 1 }

/-- The place that a store of the space takes for its bytes; a TALIAS's are there (R111, R117, R135). -/
def Chip.storePlace (c : Chip) (s : Space) (slice : Nat) (b : TileBody) : Option (Nat × Nat) :=
  match b with
  | .aliasOf .. => some (0, 0)
  | b => c.placeExtent s slice (granuleCount (c.storeBytes b).length)

/-- An earlier store of the name waits at its home: no later one passes it (R112). -/
def Chip.nameStores (c : Chip) (r : Req) : Bool := (c.before r).any fun q => q.phase == .waitStore && q.name == r.name

/-- What a request that waits at its home waits for is there: a free entry, for a store within its quota and with a place for
its bytes, and no earlier one of its name (R106, R111, R112). (DEDUCED, log 13) -/
def Chip.couldGo (c : Chip) (q : Req) : Bool :=
  match c.space? q.part q.space with
  | none => false
  | some s => c.roomFor s (c.homeSlice s q.index) && match q.phase with
    | .waitHead => true
    | .waitStore => decide (c.liveVersions q.name < s.vquota) && !c.nameStores q && (c.storePlace s (c.homeSlice s q.index) q.body).isSome
    | _ => false

/-- A request that waits at its home takes what it waits for: its name's head, its entry and the place of its bytes. -/
def Chip.takes (c : Chip) (q : Req) : Chip :=
  match c.space? q.part q.space with
  | none => c
  | some s =>
    let slice := c.homeSlice s q.index
    if q.phase = .waitHead then
      if (c.head? q.name).isSome then c
      else { c with heads := { part := q.part, space := q.space, index := q.index, hi := 0xFFFF, lo := 0xFFFF } :: c.heads }
    else c.putStore q slice ((c.storePlace s slice q.body).getD (0, 0))

/-- The home once each request before r that could go has taken what it waits for: what is left is for r (R106, R112, R420). (DEDUCED,
log 13) -/
def Chip.ahead (c : Chip) (r : Req) : Chip := (c.before r).foldl (fun a q => if a.couldGo q then a.takes q else a) c

/-- The earlier requests of the slice leave r no free entry (R106, R112, R420). (DEDUCED, log 13) -/
def Chip.headQueue (c : Chip) (r : Req) : Bool :=
  match c.space? r.part r.space with
  | none => false
  | some s => !(c.ahead r).roomFor s (c.homeSlice s r.index)

/-- An earlier request stands before the store r: a waiting store of its name, one that takes the last entry, or for a store that waits
itself an earlier one that waits for nothing of its own name and space (R112, R420). (DEDUCED, log 13) -/
def Chip.storeQueue (c : Chip) (r : Req) : Bool :=
  c.nameStores r || c.headQueue r || (r.phase == .waitStore && (c.before r).any fun q => match c.space? q.part q.space with
    | none => false
    | some s => q.phase == .waitStore && decide (c.liveVersions q.name < s.vquota)
        && (s.equota == 0 || decide (c.spaceUsed s.part s.id < s.equota))
        && (q.part == r.part || c.roomFor s (c.homeSlice s q.index)))

/-- Go on with the name's head, made now if a free entry allows it (R106). -/
def Chip.withHead (c : Chip) (s : Space) (r : Req) (k : Chip → Head → Chip) : Chip :=
  match c.head? r.name with
  | some h => k c h
  | none =>
    if c.roomFor s (c.homeSlice s r.index) && !c.headQueue r then
      let h : Head := { part := r.part, space := r.space, index := r.index, hi := 0xFFFF, lo := 0xFFFF }
      k { c with heads := h :: c.heads } h
    else
      let c := c.modReq r.id fun q => { q with phase := .waitHead }
      if r.body.isStore then c.countStall r else c

/-- A load-class or use-change request at its home (R114, R129, R136). -/
def Chip.homeLoad (c : Chip) (s : Space) (r : Req) : Chip :=
  match c.entry? r.name r.version with
  | some e =>
    match e.state with
    | .published =>
      if r.origin = .launch ∧ (c.part r.part).state ≠ .running then c.modReq r.id fun q => { q with phase := .waiter }
      else if c.recordQueue r then c.modReq r.id fun q => { q with phase := .waitRecord }
      else (c.serve r e).settle r.name
    | .pending => c.joinWaiters r
    | .dead => (c.refuseReq r .vdead).settle r.name
  | none =>
    c.withHead s r fun c h =>
      match h.window r.version with
      | none => c.joinWaiters r
      | some cause => (c.refuseReq r cause).settle r.name

/-- A probe at its home (R130, R131). -/
def Chip.homeProbe (c : Chip) (s : Space) (r : Req) : Chip :=
  c.withHead s r fun c _ => (c.answer r (c.stateWord r.name r.version)).releaseHead r.name

/-- A store finds room and makes its entry PENDING, or waits for one of the four conditions or behind a store of its name (R111,
R112); what earlier requests of the slice can take is theirs. -/
def Chip.homePlace (c : Chip) (s : Space) (r : Req) : Chip :=
  let slice := c.homeSlice s r.index
  match (c.ahead r).storePlace s slice r.body with
  | some back =>
    if decide (s.vquota ≤ c.liveVersions r.name) || !c.roomFor s slice || c.storeQueue r then
      (c.modReq r.id fun q => { q with phase := .waitStore }).countStall r
    else c.putStore r slice back
  | none => (c.modReq r.id fun q => { q with phase := .waitStore }).countStall r

/-- A store at its home: write-once first, then the window, then room (R21, R111, R134). -/
def Chip.homeStore (c : Chip) (s : Space) (r : Req) : Chip :=
  if (c.entry? r.name r.version).isSome ||
      c.reqs.any fun q => q.id != r.id && q.name == r.name && q.version == r.version && q.reserves then
    (c.modPart r.part fun p => { p with vtWonce := p.vtWonce + 1 }).refuseReq r .wonce
  else if c.nameQueue r then (c.modReq r.id fun q => { q with phase := .waitHead }).countStall r
  else
    c.withHead s r fun c h =>
      match h.window r.version with
      | some cause => (c.refuseReq r cause).settle r.name
      | none =>
        match r.body with
        | .gather _ =>
          let c := c.modReq r.id fun q => { q with phase := .gathering }
          match r.origin with
          | .peer dev tag => { c with sent := c.sent ++ [.rsp dev tag .begin] }
          | _ => c
        | _ => c.homePlace s r

/-- A request at its home by its class. -/
def Chip.atHome (c : Chip) (s : Space) (r : Req) : Chip :=
  if r.body.isStore then c.homeStore s r
  else if c.nameQueue r then c.modReq r.id fun q => { q with phase := .waitHead }
  else match r.body with
  | .probe => c.homeProbe s r
  | _ => c.homeLoad s r

/-- Where the issuing package's definition sends a request: device and partition (R102). (DEDUCED, log 23) -/
def Chip.destination (c : Chip) (s : Space) : Nat × Nat := if s.home = 2 then (s.device, s.rpart) else (c.device.toNat, s.part)

/-- A TALIAS whose source and target go to different places is refused on the issuing package before it registers (R135).
(DEDUCED, log 23) -/
def Chip.aliasApart (c : Chip) (r : Req) (s : Space) : Option Cause :=
  match r.body, r.origin with
  | .talias .., .peer .. => none
  | .talias .., _ =>
    match c.space? r.part (hSpace r.target) with
    | none => some .spaceUndef
    | some d => if c.destination s = c.destination d then none else some .illegalOperand
  | _, _ => none

/-- The space id that a remote home reads (R102). (DEDUCED, log 23) -/
def Space.selected (s : Space) : Nat := if s.rmap then s.rspace else s.id

/-- The request as a flit carries it: its handle names the selected space. -/
def Chip.flitBody (c : Chip) (r : Req) (s : Space) : LinkReq :=
  match r.body with
  | .talias src u =>
    match c.space? r.part (hSpace r.target) with
    | some d => .tile (handleOf (hHeader r.target) d.selected (hIndex r.target) (hVersion r.target))
        (.talias (handleOf (hHeader src) s.selected (hIndex src) (hVersion src)) u)
    | none => .tile src r.body
  | .aliasOf x u => .tile (handleOf r.header s.selected r.index r.version) (.store u (c.extentBytes x))
  | b => .tile (handleOf r.header s.selected r.index r.version) b

/-- A registered request stands behind every request registered before (R20). -/
def Chip.registered (c : Chip) (r : Req) : Chip := { c with reqs := (c.reqs.filter fun q => q.id != r.id) ++ [r] }

/-- A request reaches the place its space sends it: home, peer or nowhere (R100, R102, R398). (DESIGN CHOICE, log 22)
(DEDUCED, log 23) (DESIGN CHOICE, log 62) -/
def Chip.route (c : Chip) (r : Req) : Chip :=
  match c.space? r.part r.space with
  | none => c.refuseReq r .spaceUndef
  | some s =>
    match c.aliasApart r s with
    | some cause => c.refuseReq r cause
    | none =>
      if s.home = 2 then
        match r.origin, r.body with
        | .peer .., _ => c.refuseReq r .spaceUndef
        | .hitOutput .., _ => c.refuseReq r .illegalOperand
        | _, _ =>
          if !(c.part r.part).layout.nb.getLsbD 8 then c.refuseReq r .protection
          else if !c.linksUp s.device then c.refuseReq r .linkLost
          else { (c.modReq r.id fun q => { q with phase := .away, sentTo := some (s.device, s.rpart) }) with
                  sent := c.sent ++ [.req s.device s.rpart (tileTag r.id) (c.flitBody r s)] }
      else if !(c.slices s.part).any fun k => s.home != 1 || k / 16 == s.die then c.refuseReq r .protection
      else (c.registered r).atHome s r

/-- The names that a request acts at in its order: its own, and for a TALIAS that goes to a peer as one flit its target's too (R20,
R135). -/
def Chip.namesOf (c : Chip) (r : Req) : List Name :=
  match r.body, c.space? r.part (hSpace r.target) with
  | .talias .., some d => if d.home = 2 then [r.name, { part := r.part, space := hSpace r.target, index := hIndex r.target }] else [r.name]
  | _, _ => [r.name]

/-- The name that an MRD of the tile route is to publish at, before it makes its request (R207, R213). (DESIGN CHOICE, log 84) -/
def Op.storesTo (o : Op) : Option Name :=
  match o.body with
  | .mx (.rdTile _ _ _ _ h _) => some { part := o.part, space := hSpace h, index := hIndex h }
  | _ => none

/-- Requests of the same thread to the same name that were issued before r travel still, or are still to be made (R20, R420). -/
def Chip.outOfOrder (c : Chip) (r : Req) : Bool :=
  (c.reqs.any fun q => decide (q.id < r.id) && q.phase == .travelling && q.tid == r.tid && (c.namesOf r).contains q.name)
  || c.ops.any fun o => decide (o.id < r.id) && o.tid == r.tid && o.storesTo.any (c.namesOf r).contains

/-- The accesses that precede the request in its thread are performed (R139, R283). (DEDUCED, log 21) -/
def Chip.forked (c : Chip) (r : Req) : Bool :=
  match r.origin with
  | .op id | .argDigest id _ | .hitOutput id _ =>
    match c.op? id with
    | some o => !c.heldByFork o
    | none => true
  | _ => true

/-- A digest request waits for the sweep of its slice (R295). -/
def Chip.swept (c : Chip) (r : Req) : Bool :=
  match r.body with
  | .look (.digest _) | .look .key => !(c.part r.part).sweepLeft.contains (c.sliceOf r.part r.space r.index)
  | _ => true

/-- A peer's request that stands at its home is reported as registered (R20, R115). (DESIGN CHOICE, log 22) -/
def Chip.ackPeer (c : Chip) (r : Req) : Chip :=
  match r.origin with
  | .peer src tag => if (c.req? r.id).isSome then { c with sent := c.sent ++ [.rsp src tag .done] } else c
  | _ => c

/-- A travelling request of this kind arrives, if it may (R20). -/
def Chip.register (c : Chip) (id : Nat) (kind : TileBody → Bool) : Chip :=
  match c.req? id with
  | none => c
  | some r => if r.phase = .travelling && kind r.body && !c.outOfOrder r && c.forked r && c.swept r then (c.route r).ackPeer r else c

/-! ### The schedulers' loads of launch names (R262) -/

/-- The header of a launch tile: INT64, 8 × 8 (R262). -/
def launchHeader : BitVec 12 := 0x480

/-- Launch name n of partition p has no load of its scheduler: it registers one of the next version (R262). (DEDUCED, log 26) (DESIGN CHOICE, log 62) -/
def Chip.armLaunch (c : Chip) (p n : Nat) : Chip :=
  if c.reqs.any fun r => r.origin == .launch && r.part == p && r.index == n && r.standing then c
  else
    let r : Req := { id := c.nextId, part := p, space := 255, index := n, header := launchHeader, body := .load false, origin := .launch,
                     version := BitVec.ofNat 16 ((Table.get? (c.part p).launch n).getD 0), tid := 2 ^ 22 + p, graph := 0, asid := 0,
                     phase := .travelling, counted := false, target := 0 }
    match (c.space? p 255).filter fun s => s.home != 2 && !(c.slices p).isEmpty with
    | some s => (Chip.registered { c with reqs := c.reqs ++ [r], nextId := c.nextId + 1 } r).atHome s r
    | none => c

/-- The loads of all launch names of a partition. (DEDUCED, log 26) -/
def Chip.armLaunches (c : Chip) (p : Nat) : Chip := (List.range 16).foldl (fun c n => c.armLaunch p n) c

/-- A head that only a scheduler's load keeps. (DEDUCED, log 26) -/
def Chip.launchOnly (c : Chip) (h : Head) : Bool :=
  !(c.entries.any fun e => e.name == h.name) && c.reqs.all fun r => r.name != h.name || !r.standing || r.origin == .launch

/-- The loads of the launch names of a partition leave, with the heads that only they keep. (DEDUCED, log 26) -/
def Chip.dropLaunches (c : Chip) (p id : Nat) : Chip :=
  { c with heads := c.heads.filter fun h => !(h.part == p && h.space == id && id == 255 && c.launchOnly h)
           reqs := c.reqs.filter fun r => !(r.part == p && r.space == id && r.origin == .launch && r.standing) }

/-! ### Steps of a home -/

end Sys2Proof.Machine

namespace Sys2Proof
open Machine

/-- The body is of load class, or a probe, or a use change. -/
def TileBody.isLoad : TileBody → Bool
  | .load _ | .look _ | .talias .. => true
  | _ => false

/-- The body changes uses. -/
def TileBody.isChange : TileBody → Bool
  | .change .. => true
  | _ => false

end Sys2Proof

namespace Sys2Proof.Machine

/-- A request that waits in this phase is taken up again, in its place (R106, R112, R116); one whose space has been removed is
refused (R100). -/
def Chip.resume (c : Chip) (id : Nat) (ph : Phase) : Chip :=
  match c.req? id with
  | none => c
  | some r =>
    if r.phase != ph || !c.swept r then c
    else match (c.space? r.part r.space).filter fun s => s.home != 2 with
    | none => c.refuseReq r .spaceUndef
    | some s =>
      match ph with
      | .waitHead => if c.nameQueue r then c else c.atHome s r
      | .waitRecord => if 4096 ≤ c.recordsUsed (c.homeSlice s r.index) || (c.before r).any (fun q => q.phase == .waitRecord) then c else c.atHome s r
      | .waitStore => c.homePlace s r
      | _ => c

/-- A pure task publishes a declared output: the cellar takes a reference on its extent (R248). One that is published again is held in
its latest extent alone (DESIGN CHOICE, log 86). (DEDUCED, log 36) -/
def Chip.noteOutput (c : Chip) (r : Req) (x : Nat) : Chip :=
  match r.origin with
  | .op id =>
    match c.op? id with
    | none => c
    | some o =>
      match (c.thread o.tid).pureTask with
      | none => c
      | some p =>
        match p.outs.findIdx? fun h => hSpace h == r.space && hIndex h == r.index && hVersion h == r.version with
        | none => c
        | some k => ((p.held.filter (·.1 == k)).foldl (fun c h => c.dropRef h.2.1) (c.addRef x)).modThread o.tid fun t => { t with
            pureTask := some { p with
              published := k :: p.published.filter (· != k), held := (k, x, r.header) :: p.held.filter (·.1 != k) } }
  | _ => c

/-- The waiters of a version are served in registration order (R22, R114). -/
def Chip.serveWaiters (c : Chip) (n : Name) (v : BitVec 16) : List Req → Chip
  | [] => c
  | r :: rest =>
    let served :=
      if r.origin = .launch ∧ (c.part r.part).state ≠ .running then c
      else match c.entry? n v with
      | some e => match e.state with
        | .published => c.serve r e
        | _ => c.refuseReq r .vdead
      | none => c.refuseReq r .vdead
    Chip.serveWaiters served n v rest

/-- The publishing store's result returns, once the loads that registered for its version before are served (R22, R116). -/
def Chip.closeStore (c : Chip) (r : Req) : Chip :=
  if (c.before r).any fun q => q.name == r.name && q.version == r.version && q.phase == .waitRecord then c
  else
    let v := match r.origin, c.op? r.id with
      | .op _, some o => o.result
      | _, _ => handleOf r.header r.space r.index r.version
    (c.answer r v).settle r.name

/-- A PENDING version is published (R107, R111, R114, R22); the accesses before its store come before those after a request that it
serves (R139, R353). -/
def Chip.publish (c : Chip) (id : Nat) : Chip :=
  match c.req? id with
  | none => c
  | some r =>
    if r.phase = .closing then c.closeStore r
    else match c.entry? r.name r.version with
    | none => c
    | some e =>
      if r.phase != .pending then c
      else
        let c := c.modEntry r.name r.version fun e => { e with
          state := .published, uses := r.body.uses, digest := c.tileDigest r.part r.header (c.extentBytes e.extent) }
        let c := c.modHead r.name fun h =>
          let a := (r.version - h.hi).toNat
          if 1 ≤ a ∧ a ≤ 2 ^ 15 then { h with hi := r.version } else h
        let c := (c.noteOutput r e.extent).releaseWide
        let c := c.serveWaiters r.name r.version (c.reqs.filter fun q => q.name == r.name && q.version == r.version && q.phase == .waiter)
        let r := { r with phase := .closing }
        (c.registered r).closeStore r

end Sys2Proof.Machine
end

