-- ==== Sys2Proof/Machine/Vector.lean ====
section
/-!
DEFINITION. Vector instructions: R34, R37, R215 to R243. The pipe performs a thread's vector instructions in issue
order (R220): one that finds the pipe empty is performed as it issues, another waits as an operation of body vec.
-/

namespace Sys2Proof

/-- Lane width in bytes (R215). -/
def EType.bytes : EType → Nat
  | .f64 | .s64 => 8
  | .f32 | .s32 => 4
  | .bf16 | .f16 | .s16 => 2
  | .s8 => 1

/-- Lane count (R215). -/
def EType.lanes (et : EType) : Nat := 256 / et.bytes

/-- Etypes 0 to 3. -/
def EType.isFloat : EType → Bool
  | .f64 | .f32 | .bf16 | .f16 => true
  | _ => false

/-- The floating-point format of an etype 0 to 3; that of another is not used. -/
def EType.fmt : EType → Machine.FFmt
  | .f32 => Machine.fp32
  | .bf16 => Machine.bf16
  | .f16 => Machine.fp16
  | _ => Machine.fp64

/-- The format code of a narrow format (R146, R230). -/
def Narrow.code : Narrow → Nat
  | .ts8 => 7
  | .e4m3 => 5
  | .e5m2 => 6
  | .int8 => 12
  | .nat8 => 14
  | .int4 => 13

/-- NAT8 takes no block scales (R241). -/
def Narrow.blocked (f : Narrow) (raw : BitVec 3) : Bool := raw == 0 && f != .nat8

end Sys2Proof

namespace Sys2Proof.Machine

/-! ### Lanes and predicates -/

/-- Lane i at width w (R34). -/
def vlane (v : VWord) (w i : Nat) : Nat := (v.extractLsb' (8 * w * i) (8 * w)).toNat

/-- A register of lanes of width w, lane 0 first (R34). -/
def vofLanes (w : Nat) (ls : List Nat) : VWord := BitVec.ofNat 2048 (ls.foldr (fun x acc => x + 2 ^ (8 * w) * acc) 0)

/-- The bytes of a register, byte 0 first. -/
def vbytes (v : VWord) : List Byte := (List.range 256).map fun i => v.extractLsb' (8 * i) 8

/-- A register of bytes, byte 0 first. -/
def vofBytes (bs : List Byte) : VWord := BitVec.ofNat 2048 (natOfBytes bs)

/-- Bit i of the governing predicate; m0 reads as all ones (R34, R215). -/
def Thread.active (t : Thread) (m : Mask) (i : Nat) : Bool := m == 0 || t.pred[m].getLsbD i

/-- A predicate of n bits, zero above. -/
def predOf (bits : List Bool) : BitVec 256 := BitVec.ofNat 256 (bits.foldr (fun b acc => (if b then 1 else 0) + 2 * acc) 0)

/-- A predicate write; m0 discards it (R34). -/
def Thread.setPred (t : Thread) (m : Mask) (bits : List Bool) : Thread :=
  if m = 0 then t else { t with pred := t.pred.set m (predOf bits) }

/-- The predicate a register field names (R218). -/
def predField (v : VReg) : Mask := ⟨v.val % 4, by omega⟩

/-- Flags into a slot of VFLAGS (R37). -/
def orSlot (fl : BitVec 160) (slot : Nat) (f : FlagSet) : BitVec 160 := fl ||| (f.setWidth 160 <<< (5 * slot))

/-- Flags of lanes at width w, each into its slot, unless Q = 1 (R37, R216). -/
def Thread.laneFlags (t : Thread) (q : Bool) (w : Nat) (fs : List (Nat × FlagSet)) : Thread :=
  if q then t else { t with vflags := fs.foldl (fun fl (i, f) => orSlot fl (i * w / 8) f) t.vflags }

/-- The lanes of the destination that f gives, at width w; a lane it does not give keeps its value. -/
def Thread.writeLanes (t : Thread) (vd : VReg) (w : Nat) (q : Bool) (f : Nat → Option FRes) : Thread :=
  let n := 256 / w
  let t' := { t with vec := t.vec.set vd (vofLanes w ((List.range n).map fun i =>
    match f i with
    | some r => r.1
    | none => vlane t.vec[vd] w i)) }
  t'.laneFlags q w ((List.range n).filterMap fun i => (f i).map fun r => (i, r.2))

/-- The lane loop of R223: every active lane i becomes f i. -/
def Thread.laneLoop (t : Thread) (vd : VReg) (et : EType) (m : Mask) (q : Bool) (f : Nat → FRes) : Thread :=
  t.writeLanes vd et.bytes q fun i => if t.active m i then some (f i) else none

/-- Lane i of a register at an etype. -/
def Thread.lane (t : Thread) (v : VReg) (et : EType) (i : Nat) : Nat := vlane t.vec[v] et.bytes i

/-- The value of a floating-point lane. -/
def Thread.fval (t : Thread) (v : VReg) (et : EType) (i : Nat) : FVal := et.fmt.value (t.lane v et i)

/-- A two-source VFP function. -/
def Thread.vfp2 (t : Thread) (vd va vb : VReg) (et : EType) (m : Mask) (q : Bool) (f : FVal → FVal → FRes) : Thread :=
  t.laneLoop vd et m q fun i => f (t.fval va et i) (t.fval vb et i)

/-- A one-source VFP function. -/
def Thread.vfp1 (t : Thread) (vd va : VReg) (et : EType) (m : Mask) (q : Bool) (f : FVal → FRes) : Thread :=
  t.laneLoop vd et m q fun i => f (t.fval va et i)

/-- VABS and VNEG: the sign bit of a number; a NaN gives the canonical NaN (R223). -/
def FFmt.signOp (F : FFmt) (flip : Bool) (x : Nat) : FRes :=
  if (F.value x).isNan then (F.nan, 0)
  else (F.signed (flip && decide (x < F.signBit)) (x % F.signBit), 0)

/-- A VINT function (R224). -/
def Thread.vint (t : Thread) (vd va vb : VReg) (et : EType) (m : Mask) (f : IntFn) : Thread :=
  let w := 8 * et.bytes
  t.laneLoop vd et m true fun i => ((f w (BitVec.ofNat w (t.lane va et i)) (BitVec.ofNat w (t.lane vb et i))).toNat, 0)

/-- The signed value of a lane. -/
def EType.sval (et : EType) (x : Nat) : Int := signedOf (8 * et.bytes) x

/-- A lane as VEXT and VRED push it (R231). -/
def pushLane (et : EType) (x : Nat) : Word :=
  if et.isFloat then BitVec.ofNat 64 x else BitVec.ofInt 64 (EType.sval et x)

/-! ### Compares (R232) -/

/-- A condition on two lanes: the bit and the flags. -/
def vcompare (cond : VCond) (et : EType) (x y : Nat) : Bool × FlagSet :=
  if et.isFloat then
    let a := et.fmt.value x
    let b := et.fmt.value y
    let nan := a.isNan || b.isNan
    let quiet := flagIf (a.signals || b.signals) flagNV
    let loud := flagIf nan flagNV
    match cond with
    | .eq => (!nan && a.eqv b, quiet)
    | .ne => (nan || !a.eqv b, quiet)
    | .lt => (!nan && a.lt b, loud)
    | .le => (!nan && !b.lt a, loud)
    | .gt => (!nan && b.lt a, loud)
    | .ge => (!nan && !a.lt b, loud)
    | .c6 => (nan, quiet)
    | .c7 => (!nan, quiet)
  else
    let a := EType.sval et x
    let b := EType.sval et y
    (match cond with
      | .eq => x == y
      | .ne => x != y
      | .lt => decide (a < b)
      | .le => decide (a ≤ b)
      | .gt => decide (b < a)
      | .ge => decide (b ≤ a)
      | .c6 => decide (x < y)
      | .c7 => decide (y ≤ x), 0)

/-- VCMP: bits of inactive lanes are 0; the flags of lane i go to the slot that holds it (R216, R232). -/
def Thread.vcmp (t : Thread) (vd va vb : VReg) (cond : VCond) (et : EType) (m : Mask) (q : Bool) : Thread :=
  let r := fun i => vcompare cond et (t.lane va et i) (t.lane vb et i)
  (t.setPred (predField vd) ((List.range et.lanes).map fun i => t.active m i && (r i).1)).laneFlags q et.bytes
    (((List.range et.lanes).filter (t.active m)).map fun i => (i, (r i).2))

/-- VMSK (R234). -/
def Thread.vmsk (t : Thread) (vd va vb : VReg) (op : MskOp) (et : EType) : Thread :=
  let a := t.active (predField va)
  let b := t.active (predField vb)
  t.setPred (predField vd) ((List.range et.lanes).map fun i =>
    match op with
    | .and => a i && b i
    | .or => a i || b i
    | .xor => a i != b i
    | .andn => a i && !b i
    | .not => !a i
    | .nz => t.lane va et i != 0
    | .first => a i && !(List.range i).any a)

/-! ### Conversions (R236) -/

/-- The range of an integer etype. -/
def EType.lo (et : EType) : Int := -(2 ^ (8 * et.bytes - 1) : Nat)
/-- The range of an integer etype. -/
def EType.hi (et : EType) : Int := (2 ^ (8 * et.bytes - 1) : Nat) - 1

/-- The conversion of one lane (R236). -/
def convertLane (et tg : EType) (rm : RMode) (x : Nat) : FRes :=
  if et.isFloat then
    if tg.isFloat then tg.fmt.convert rm (et.fmt.value x)
    else let r := convertInt (EType.lo tg) (EType.hi tg) rm (et.fmt.value x); (intBits (8 * tg.bytes) r.1, r.2)
  else
    let v := EType.sval et x
    if tg.isFloat then tg.fmt.convert rm (.ofInt v)
    else (intBits (8 * tg.bytes) (max (EType.lo tg) (min (EType.hi tg) v)),
      flagIf (decide (v < EType.lo tg) || decide (EType.hi tg < v)) flagNV)

/-- p lies below the ratio of the wider width to the narrower (R236). -/
def partOk (et tg : EType) (p : BitVec 3) : Bool :=
  decide (p.toNat < max et.bytes tg.bytes / min et.bytes tg.bytes)

/-- VCVT and VCVTZ: the mask governs destination lanes at the target width. -/
def Thread.vcvt (t : Thread) (vd va : VReg) (p : BitVec 3) (tg et : EType) (m : Mask) (q : Bool) (rm : RMode) : Thread :=
  t.writeLanes vd tg.bytes q fun j =>
    if !t.active m j then none
    else if tg.lanes ≤ et.lanes then some (convertLane et tg rm (t.lane va et (p.toNat * tg.lanes + j)))
    else if p.toNat * et.lanes ≤ j ∧ j < (p.toNat + 1) * et.lanes then
      some (convertLane et tg rm (t.lane va et (j - p.toNat * et.lanes)))
    else none

/-! ### Reductions and scans (R237, R238) -/

/-- A lane taken in alone: a NaN becomes the canonical NaN, with NV if it signals. (DEDUCED, log 34) -/
def takeFirst (et : EType) (x : Nat) : FRes :=
  if et.isFloat && (et.fmt.value x).isNan then et.fmt.nanRes (et.fmt.value x).signals else (x, 0)

/-- A sum step at the etype. (DEDUCED, log 34) -/
def sumStep (et : EType) (rm : RMode) : Option Nat → Nat → FRes
  | none, x => takeFirst et x
  | some a, x => if et.isFloat then et.fmt.add rm (et.fmt.value a) (et.fmt.value x) else ((a + x) % 2 ^ (8 * et.bytes), 0)

/-- A maximum or minimum step. (DEDUCED, log 34) -/
def extremeStep (et : EType) (big : Bool) : Option Nat → Nat → FRes
  | none, x => takeFirst et x
  | some a, x =>
    if et.isFloat then et.fmt.minmax big a x
    else (if decide (EType.sval et a < EType.sval et x) = big then x else a, 0)

/-- The fold of a step over lanes: the value, if there is a lane, and the flags. (DEDUCED, log 34) -/
def reduceLanes (step : Option Nat → Nat → FRes) (xs : List Nat) : Option Nat × FlagSet :=
  xs.foldl (fun (acc, fl) x => let r := step acc x; (some r.1, fl ||| r.2)) (none, 0)

/-- The running values of a step; excl writes the value before each lane (R238). (DEDUCED, log 34) -/
def scanLanes (step : Option Nat → Nat → FRes) (excl : Bool) : List (Nat × Nat) → Option Nat → FlagSet → List (Nat × FRes)
  | [], _, _ => []
  | (i, x) :: rest, acc, fl =>
    let r := step acc x
    (i, if excl then (acc.getD 0, fl) else r) :: scanLanes step excl rest (some r.1) r.2

/-- The active lanes of a register, ascending. -/
def Thread.actives (t : Thread) (v : VReg) (et : EType) (m : Mask) : List (Nat × Nat) :=
  ((List.range et.lanes).filter (t.active m)).map fun i => (i, t.lane v et i)

/-- The least value of an etype for MAX of no lane, and the greatest for MIN. -/
def EType.extreme (et : EType) (big : Bool) : Nat :=
  if et.isFloat then et.fmt.signed big et.fmt.infCode
  else intBits (8 * et.bytes) (if big then EType.lo et else EType.hi et)

/-- VRED: the word pushed and the flags (R237). -/
def Thread.vred (t : Thread) (va : VReg) (op : RedOp) (et : EType) (m : Mask) (rm : RMode) : Word × FlagSet :=
  let xs := (t.actives va et m).map (·.2)
  match op with
  | .sum =>
    if et.isFloat then
      let r := reduceLanes (sumStep et rm) xs
      (pushLane et (r.1.getD 0), r.2)
    else (BitVec.ofInt 64 ((xs.map fun x => EType.sval et x).sum), 0)
  | .max => let r := reduceLanes (extremeStep et true) xs; (pushLane et (r.1.getD (EType.extreme et true)), r.2)
  | .min => let r := reduceLanes (extremeStep et false) xs; (pushLane et (r.1.getD (EType.extreme et false)), r.2)

/-- VSCAN (R238). -/
def Thread.vscan (t : Thread) (vd va : VReg) (op : ScanOp) (et : EType) (m : Mask) (q : Bool) (rm : RMode) : Thread :=
  let rs := match op with
    | .isum => scanLanes (sumStep et rm) false (t.actives va et m) none 0
    | .xsum => scanLanes (sumStep et rm) true (t.actives va et m) none 0
    | .max => scanLanes (extremeStep et true) false (t.actives va et m) none 0
    | .min => scanLanes (extremeStep et false) false (t.actives va et m) none 0
  t.writeLanes vd et.bytes q fun i => (rs.find? fun e => e.1 == i).map (·.2)

/-! ### Compaction, permutation, amax (R239, R240) -/

/-- VCMPR. -/
def Thread.vcmpr (t : Thread) (vd va : VReg) (et : EType) (m : Mask) : Thread :=
  let xs := (t.actives va et m).map (·.2)
  t.writeLanes vd et.bytes true fun i => some (xs.getD i 0, 0)

/-- VEXPD. -/
def Thread.vexpd (t : Thread) (vd va : VReg) (et : EType) (m : Mask) : Thread :=
  t.laneLoop vd et m true fun i => (t.lane va et ((List.range i).filter (t.active m)).length, 0)

/-- VPERM. -/
def Thread.vperm (t : Thread) (vd va vb : VReg) (et : EType) (m : Mask) : Thread :=
  t.laneLoop vd et m true fun i =>
    (if t.lane vb et i < et.lanes then t.lane va et (t.lane vb et i) else 0, 0)

/-- The lanes of block b that are active. -/
def Thread.blockLanes (t : Thread) (m : Mask) (b : Nat) : List Nat :=
  ((List.range 8).map (8 * b + ·)).filter (t.active m)

/-- The amax of a block (R240). -/
def Thread.blockAmax (t : Thread) (va : VReg) (et : EType) (m : Mask) (b : Nat) : FRes :=
  let xs := (t.blockLanes m b).map (t.lane va et)
  if et.isFloat then
    let vs := xs.map et.fmt.value
    if vs.any FVal.isNan then et.fmt.nanRes (vs.any FVal.signals)
    else (xs.foldl (fun a x => max a (x % et.fmt.signBit)) 0, 0)
  else (xs.foldl (fun a x => max a (EType.sval et x).natAbs) 0, 0)

/-- VAMAX. -/
def Thread.vamax (t : Thread) (vd va : VReg) (et : EType) (m : Mask) (q : Bool) : Thread :=
  t.writeLanes vd et.bytes q fun j => some (if j < et.lanes / 8 then t.blockAmax va et m j else (0, 0))

/-! ### Quantise and dequantise (R241, R242) -/

/-- An element that is not there. -/
def Quant.zero (fmt : Nat) : Quant := { bits := canonZero fmt, flags := 0, sat := 0, unf := 0 }

/-- The elements of a block in lane order, with its scale code; inactive lanes are absent elements. -/
def Thread.quantLanes (t : Thread) (va : VReg) (fmt : Nat) (et : EType) (m : Mask) (b : Nat) : Nat × List Quant :=
  let lanes := t.blockLanes m b
  let vs := lanes.map (t.fval va et)
  let (s, qs) := quantBlock fmt vs
  (s, (List.range 8).map fun j => (((lanes.zip qs).find? fun e => e.1 == 8 * b + j).map (·.2)).getD (.zero fmt))

/-- VQNT: the image, and the flags by source lane (R241). -/
def Thread.vqnt (t : Thread) (vd va : VReg) (raw : BitVec 3) (nf : Narrow) (et : EType) (m : Mask) (q : Bool) : Thread :=
  let fmt := nf.code
  let n := et.lanes
  let blocks := (List.range (n / 8)).map (t.quantLanes va fmt et m)
  let qs : List Quant := if raw = 0 then blocks.flatMap (·.2)
    else (List.range n).map fun i => if t.active m i then quantize fmt (t.fval va et i) else .zero fmt
  let scales := if raw = 0 then blocks.map fun b => BitVec.ofNat 8 b.1 else []
  let image := packElems fmt (qs.map Quant.bits) ++ scales
  let count := fun (f : Quant → Nat) => bytesOfNat 2 (min 65535 (qs.map f).sum)
  let t' := { t with vec := t.vec.set vd (vofBytes
    (image ++ List.replicate (252 - image.length) 0 ++ count Quant.sat ++ count Quant.unf)) }
  t'.laneFlags q et.bytes (qs.zipIdx.map fun (r, i) => (i, r.flags))

/-- VDQ (R242). -/
def Thread.vdq (t : Thread) (vd va : VReg) (raw : BitVec 3) (nf : Narrow) (et : EType) (m : Mask) (q : Bool) (rm : RMode) :
    Thread :=
  let fmt := nf.code
  let bs := vbytes t.vec[va]
  let e := elemBytes fmt et.lanes
  t.laneLoop vd et m q fun i =>
    let v := elemValue fmt (elemAt fmt bs i)
    if raw = 0 then
      let s := (bs.getD (e + i / 8) 0).toNat
      if s = 0 then (0, 0)
      else if s = 255 then (et.fmt.nan, 0)
      else et.fmt.convert rm (v.scale ((s : Int) - 127))
    else et.fmt.convert rm v

/-- VFLRD and VFLCL (R243). -/
def Thread.flagSlot (t : Thread) (i : Nat) : Nat := (t.vflags.extractLsb' (5 * i) 5).toNat

/-- VFLCL. -/
def Thread.vflcl (t : Thread) (m : Mask) : Thread :=
  { t with vflags := ((List.range 32).filter (t.active m)).foldl (fun fl i => fl &&& ~~~ orSlot 0 i 31) t.vflags }

/-! ### What the pipe does with an instruction -/

/-- A thread that pushes a lane, a count or a reduction: the value, with flags in slot 0 (R216). -/
def Thread.pushing (t : Thread) (q : Bool) (r : Word × FlagSet) : Thread × Word := (t.laneFlags q 8 [(0, r.2)], r.1)

/-- The effect of a vector instruction that reaches no memory, with its scalar source x and the mode of VCSR, and the
value it pushes; any other instruction has none here. -/
def Thread.vrun (t : Thread) (i : Instr) (x : Word) (rm : RMode) : Thread × Word :=
  match i with
  | .vaddFp _ vd va vb et m q => (t.vfp2 vd va vb et m q (et.fmt.add rm), 0)
  | .vsubFp _ vd va vb et m q => (t.vfp2 vd va vb et m q (et.fmt.sub rm), 0)
  | .vmulFp _ vd va vb et m q => (t.vfp2 vd va vb et m q (et.fmt.mul rm), 0)
  | .vfma _ vd va vb vc et m q =>
    (t.laneLoop vd et m q fun i => et.fmt.fma rm (t.fval va et i) (t.fval vb et i) (t.fval vc et i), 0)
  | .vfnma _ vd va vb vc et m q =>
    (t.laneLoop vd et m q fun i => et.fmt.fma rm (t.fval va et i).negate (t.fval vb et i) (t.fval vc et i), 0)
  | .vdiv _ vd va vb et m q => (t.vfp2 vd va vb et m q (et.fmt.div rm), 0)
  | .vsqrt _ vd va et m q => (t.vfp1 vd va et m q (et.fmt.sqrt rm), 0)
  | .vrsq _ vd va et m q => (t.vfp1 vd va et m q et.fmt.rsqrt, 0)
  | .vexp2 _ vd va et m q => (t.vfp1 vd va et m q et.fmt.exp2, 0)
  | .vlog2 _ vd va et m q => (t.vfp1 vd va et m q et.fmt.log2, 0)
  | .vminFp _ vd va vb et m q => (t.laneLoop vd et m q fun i => et.fmt.minmax false (t.lane va et i) (t.lane vb et i), 0)
  | .vmaxFp _ vd va vb et m q => (t.laneLoop vd et m q fun i => et.fmt.minmax true (t.lane va et i) (t.lane vb et i), 0)
  | .vabsFp _ vd va et m q => (t.laneLoop vd et m q fun i => et.fmt.signOp false (t.lane va et i), 0)
  | .vnegFp _ vd va et m q => (t.laneLoop vd et m q fun i => et.fmt.signOp true (t.lane va et i), 0)
  | .vaddInt _ vd va vb et m _ => (t.vint vd va vb et m fun _ a b => a + b, 0)
  | .vsubInt _ vd va vb et m _ => (t.vint vd va vb et m fun _ a b => a - b, 0)
  | .vmulInt _ vd va vb et m _ => (t.vint vd va vb et m fun _ a b => a * b, 0)
  | .vminInt _ vd va vb et m _ => (t.vint vd va vb et m fun _ a b => if a.slt b then a else b, 0)
  | .vmaxInt _ vd va vb et m _ => (t.vint vd va vb et m fun _ a b => if a.slt b then b else a, 0)
  | .vminu _ vd va vb et m _ => (t.vint vd va vb et m fun _ a b => if a.ult b then a else b, 0)
  | .vmaxu _ vd va vb et m _ => (t.vint vd va vb et m fun _ a b => if a.ult b then b else a, 0)
  | .vabsInt _ vd va et m _ => (t.vint vd va va et m fun _ a _ => if a.msb then -a else a, 0)
  | .vnegInt _ vd va et m _ => (t.vint vd va va et m fun _ a _ => -a, 0)
  | .vand _ vd va vb et m _ => (t.vint vd va vb et m fun _ a b => a &&& b, 0)
  | .vor _ vd va vb et m _ => (t.vint vd va vb et m fun _ a b => a ||| b, 0)
  | .vxor _ vd va vb et m _ => (t.vint vd va vb et m fun _ a b => a ^^^ b, 0)
  | .vnot _ vd va et m _ => (t.vint vd va va et m fun _ a _ => ~~~a, 0)
  | .vshl _ vd va vb et m _ => (t.vint vd va vb et m fun n a b => a <<< (b.toNat % n), 0)
  | .vshr _ vd va vb et m _ => (t.vint vd va vb et m fun n a b => a >>> (b.toNat % n), 0)
  | .vsra _ vd va vb et m _ => (t.vint vd va vb et m fun n a b => a.sshiftRight (b.toNat % n), 0)
  | .vbc _ vd _ et m _ => (t.laneLoop vd et m true fun _ => (x.toNat % 2 ^ (8 * et.bytes), 0), 0)
  | .vext _ va _ et _ => (t, pushLane et (t.lane va et x.toNat))
  | .vmov _ vd va et m _ => (t.laneLoop vd et m true fun i => (t.lane va et i, 0), 0)
  | .vcmp _ vd va vb cond et m q => (t.vcmp vd va vb cond et m q, 0)
  | .vsel _ vd va vb et m _ => (t.laneLoop vd et 0 true fun i => (t.lane (if t.active m i then va else vb) et i, 0), 0)
  | .vcvt _ vd va p tg et m q => (t.vcvt vd va p tg et m q rm, 0)
  | .vred _ va op et m q => t.pushing q (t.vred va op et m rm)
  | .vscan _ vd va op et m q => (t.vscan vd va op et m q rm, 0)
  | .vcmpr _ vd va et m _ => (t.vcmpr vd va et m, 0)
  | .vexpd _ vd va et m _ => (t.vexpd vd va et m, 0)
  | .vperm _ vd va vb et m _ => (t.vperm vd va vb et m, 0)
  | .viota _ vd et m _ =>
    (t.laneLoop vd et m true fun i => (if et.isFloat then (et.fmt.convert 0 (.ofInt i)).1 else i % 2 ^ (8 * et.bytes), 0), 0)
  | .vcnt _ et m _ => (t, BitVec.ofNat 64 ((List.range et.lanes).filter (t.active m)).length)
  | .vmsk _ vd va vb op et _ => (t.vmsk vd va vb op et, 0)
  | .vamax _ vd va et m q => (t.vamax vd va et m q, 0)
  | .vqnt _ vd va raw nf et m q => (t.vqnt vd va raw nf et m q, 0)
  | .vdq _ vd va raw nf et m q => (t.vdq vd va raw nf et m q rm, 0)
  | .vflrd _ vd m _ => (t.laneLoop vd .s64 m true fun i => (t.flagSlot i, 0), 0)
  | .vflcl _ m _ => (t.vflcl m, 0)
  | .vcvtz _ vd va p tg et m q => (t.vcvt vd va p tg et m q 1, 0)
  | _ => (t, 0)

/-- The current thread's pipe holds an instruction. -/
def Chip.piped (c : Chip) : List Nat :=
  (c.ops.filter fun o => o.tid == c.cur && match o.body with
    | .vec .. => true
    | _ => false).map Op.id

/-- A vector instruction past its checks: performed now if the pipe is empty, else placed in the pipe (R220). -/
def Chip.vstart (c : Chip) (i : Instr) (x : Word) (push : Bool) : Chip :=
  let t := c.thread c.cur
  if c.piped.isEmpty then
    let r := t.vrun i x t.vrm
    let c := c.modThread c.cur fun _ => r.1
    if push then c.emit none r.2 0 else c
  else c.start { push := push } (.vec i x t.vrm)

/-- A vector instruction that reaches no memory, at issue. -/
def Chip.vector (c : Chip) (h : Hdr) (i : Instr) : Chip := c.issue h fun c => .done (c.vstart i 0 h.push)

/-- The header of a two-source vector instruction (R218). -/
def vhdr2 (sw ok : Bool) (vd va vb : VReg) : Hdr := { sw := sw, etype := ok, vpair := some (va, vb), vuse := [vd, va, vb] }
/-- The header of a vector instruction with the registers listed. -/
def vhdr (sw ok : Bool) (vs : List VReg) : Hdr := { sw := sw, etype := ok, vuse := vs }

/-! ### VFP and VINT -/

/-- VADD_FP. -/
def execVaddFp (sw : Bool) (vd va vb : VReg) (et : EType) (m : Mask) (q : Bool) (s : State) := s.issue fun c => c.vector (vhdr2 sw et.isFloat vd va vb) (.vaddFp sw vd va vb et m q)
/-- VSUB_FP. -/
def execVsubFp (sw : Bool) (vd va vb : VReg) (et : EType) (m : Mask) (q : Bool) (s : State) := s.issue fun c => c.vector (vhdr2 sw et.isFloat vd va vb) (.vsubFp sw vd va vb et m q)
/-- VMUL_FP. -/
def execVmulFp (sw : Bool) (vd va vb : VReg) (et : EType) (m : Mask) (q : Bool) (s : State) := s.issue fun c => c.vector (vhdr2 sw et.isFloat vd va vb) (.vmulFp sw vd va vb et m q)
/-- VFMA. -/
def execVfma (sw : Bool) (vd va vb vc : VReg) (et : EType) (m : Mask) (q : Bool) (s : State) := s.issue fun c => c.vector { vhdr2 sw et.isFloat vd va vb with vuse := [vd, va, vb, vc] } (.vfma sw vd va vb vc et m q)
/-- VFNMA. -/
def execVfnma (sw : Bool) (vd va vb vc : VReg) (et : EType) (m : Mask) (q : Bool) (s : State) := s.issue fun c => c.vector { vhdr2 sw et.isFloat vd va vb with vuse := [vd, va, vb, vc] } (.vfnma sw vd va vb vc et m q)
/-- VDIV. -/
def execVdiv (sw : Bool) (vd va vb : VReg) (et : EType) (m : Mask) (q : Bool) (s : State) := s.issue fun c => c.vector (vhdr2 sw et.isFloat vd va vb) (.vdiv sw vd va vb et m q)
/-- VSQRT. -/
def execVsqrt (sw : Bool) (vd va : VReg) (et : EType) (m : Mask) (q : Bool) (s : State) := s.issue fun c => c.vector (vhdr sw et.isFloat [vd, va]) (.vsqrt sw vd va et m q)
/-- VRSQ. -/
def execVrsq (sw : Bool) (vd va : VReg) (et : EType) (m : Mask) (q : Bool) (s : State) := s.issue fun c => c.vector (vhdr sw et.isFloat [vd, va]) (.vrsq sw vd va et m q)
/-- VEXP2: FP64 raises ILLEGAL_OPERAND (R164). -/
def execVexp2 (sw : Bool) (vd va : VReg) (et : EType) (m : Mask) (q : Bool) (s : State) := s.issue fun c => c.vector (vhdr sw (et.isFloat && et != .f64) [vd, va]) (.vexp2 sw vd va et m q)
/-- VLOG2: FP64 raises ILLEGAL_OPERAND (R164). -/
def execVlog2 (sw : Bool) (vd va : VReg) (et : EType) (m : Mask) (q : Bool) (s : State) := s.issue fun c => c.vector (vhdr sw (et.isFloat && et != .f64) [vd, va]) (.vlog2 sw vd va et m q)
/-- VMIN_FP. -/
def execVminFp (sw : Bool) (vd va vb : VReg) (et : EType) (m : Mask) (q : Bool) (s : State) := s.issue fun c => c.vector (vhdr2 sw et.isFloat vd va vb) (.vminFp sw vd va vb et m q)
/-- VMAX_FP. -/
def execVmaxFp (sw : Bool) (vd va vb : VReg) (et : EType) (m : Mask) (q : Bool) (s : State) := s.issue fun c => c.vector (vhdr2 sw et.isFloat vd va vb) (.vmaxFp sw vd va vb et m q)
/-- VABS_FP. -/
def execVabsFp (sw : Bool) (vd va : VReg) (et : EType) (m : Mask) (q : Bool) (s : State) := s.issue fun c => c.vector (vhdr sw et.isFloat [vd, va]) (.vabsFp sw vd va et m q)
/-- VNEG_FP. -/
def execVnegFp (sw : Bool) (vd va : VReg) (et : EType) (m : Mask) (q : Bool) (s : State) := s.issue fun c => c.vector (vhdr sw et.isFloat [vd, va]) (.vnegFp sw vd va et m q)
/-- VADD_INT. -/
def execVaddInt (sw : Bool) (vd va vb : VReg) (et : EType) (m : Mask) (q : Bool) (s : State) := s.issue fun c => c.vector (vhdr2 sw (!et.isFloat) vd va vb) (.vaddInt sw vd va vb et m q)
/-- VSUB_INT. -/
def execVsubInt (sw : Bool) (vd va vb : VReg) (et : EType) (m : Mask) (q : Bool) (s : State) := s.issue fun c => c.vector (vhdr2 sw (!et.isFloat) vd va vb) (.vsubInt sw vd va vb et m q)
/-- VMUL_INT. -/
def execVmulInt (sw : Bool) (vd va vb : VReg) (et : EType) (m : Mask) (q : Bool) (s : State) := s.issue fun c => c.vector (vhdr2 sw (!et.isFloat) vd va vb) (.vmulInt sw vd va vb et m q)
/-- VMIN_INT. -/
def execVminInt (sw : Bool) (vd va vb : VReg) (et : EType) (m : Mask) (q : Bool) (s : State) := s.issue fun c => c.vector (vhdr2 sw (!et.isFloat) vd va vb) (.vminInt sw vd va vb et m q)
/-- VMAX_INT. -/
def execVmaxInt (sw : Bool) (vd va vb : VReg) (et : EType) (m : Mask) (q : Bool) (s : State) := s.issue fun c => c.vector (vhdr2 sw (!et.isFloat) vd va vb) (.vmaxInt sw vd va vb et m q)
/-- VMINU. -/
def execVminu (sw : Bool) (vd va vb : VReg) (et : EType) (m : Mask) (q : Bool) (s : State) := s.issue fun c => c.vector (vhdr2 sw (!et.isFloat) vd va vb) (.vminu sw vd va vb et m q)
/-- VMAXU. -/
def execVmaxu (sw : Bool) (vd va vb : VReg) (et : EType) (m : Mask) (q : Bool) (s : State) := s.issue fun c => c.vector (vhdr2 sw (!et.isFloat) vd va vb) (.vmaxu sw vd va vb et m q)
/-- VABS_INT. -/
def execVabsInt (sw : Bool) (vd va : VReg) (et : EType) (m : Mask) (q : Bool) (s : State) := s.issue fun c => c.vector (vhdr sw (!et.isFloat) [vd, va]) (.vabsInt sw vd va et m q)
/-- VNEG_INT. -/
def execVnegInt (sw : Bool) (vd va : VReg) (et : EType) (m : Mask) (q : Bool) (s : State) := s.issue fun c => c.vector (vhdr sw (!et.isFloat) [vd, va]) (.vnegInt sw vd va et m q)
/-- VAND. -/
def execVand (sw : Bool) (vd va vb : VReg) (et : EType) (m : Mask) (q : Bool) (s : State) := s.issue fun c => c.vector (vhdr2 sw (!et.isFloat) vd va vb) (.vand sw vd va vb et m q)
/-- VOR. -/
def execVor (sw : Bool) (vd va vb : VReg) (et : EType) (m : Mask) (q : Bool) (s : State) := s.issue fun c => c.vector (vhdr2 sw (!et.isFloat) vd va vb) (.vor sw vd va vb et m q)
/-- VXOR. -/
def execVxor (sw : Bool) (vd va vb : VReg) (et : EType) (m : Mask) (q : Bool) (s : State) := s.issue fun c => c.vector (vhdr2 sw (!et.isFloat) vd va vb) (.vxor sw vd va vb et m q)
/-- VNOT. -/
def execVnot (sw : Bool) (vd va : VReg) (et : EType) (m : Mask) (q : Bool) (s : State) := s.issue fun c => c.vector (vhdr sw (!et.isFloat) [vd, va]) (.vnot sw vd va et m q)
/-- VSHL. -/
def execVshl (sw : Bool) (vd va vb : VReg) (et : EType) (m : Mask) (q : Bool) (s : State) := s.issue fun c => c.vector (vhdr2 sw (!et.isFloat) vd va vb) (.vshl sw vd va vb et m q)
/-- VSHR. -/
def execVshr (sw : Bool) (vd va vb : VReg) (et : EType) (m : Mask) (q : Bool) (s : State) := s.issue fun c => c.vector (vhdr2 sw (!et.isFloat) vd va vb) (.vshr sw vd va vb et m q)
/-- VSRA. -/
def execVsra (sw : Bool) (vd va vb : VReg) (et : EType) (m : Mask) (q : Bool) (s : State) := s.issue fun c => c.vector (vhdr2 sw (!et.isFloat) vd va vb) (.vsra sw vd va vb et m q)

/-! ### VMISC -/

/-- VBC (R231). -/
def execVbc (sw : Bool) (vd : VReg) (x : Src) (et : EType) (m : Mask) (q : Bool) (s : State) :=
  s.issue fun c => c.issue { vhdr sw true [vd] with extra := [x] } fun c => .done (c.vstart (.vbc sw vd x et m q) (c.src x) false)

/-- VEXT: a lane number of n or more raises ILLEGAL_OPERAND at issue (R231). -/
def execVext (sw : Bool) (va : VReg) (x : Src) (et : EType) (q : Bool) (s : State) :=
  s.issue fun c => c.issue { vhdr sw true [va] with extra := [x], push := true } fun c =>
    if et.lanes ≤ (c.src x).toNat then .trap .illegalOperand 0
    else .done (c.vstart (.vext sw va x et q) (c.src x) true)

/-- VMOV (R231). -/
def execVmov (sw : Bool) (vd va : VReg) (et : EType) (m : Mask) (q : Bool) (s : State) := s.issue fun c => c.vector (vhdr sw true [vd, va]) (.vmov sw vd va et m q)
/-- VCMP (R232). -/
def execVcmp (sw : Bool) (vd va vb : VReg) (cond : VCond) (et : EType) (m : Mask) (q : Bool) (s : State) := s.issue fun c => c.vector { vhdr2 sw true vd va vb with vuse := [va, vb] } (.vcmp sw vd va vb cond et m q)
/-- VSEL (R233). -/
def execVsel (sw : Bool) (vd va vb : VReg) (et : EType) (m : Mask) (q : Bool) (s : State) := s.issue fun c => c.vector (vhdr2 sw true vd va vb) (.vsel sw vd va vb et m q)

/-- VCVT: a target equal to et, or a part p at or above the ratio, raises ILLEGAL_OPERAND (R236). (DEDUCED, log 69) -/
def execVcvt (sw : Bool) (vd va : VReg) (p : BitVec 3) (t : EType) (et : EType) (m : Mask) (q : Bool) (s : State) :=
  s.issue fun c => c.vector (vhdr sw (t != et && partOk et t p) [vd, va]) (.vcvt sw vd va p t et m q)

/-- VCVTZ: from a float to an integer, toward zero (R236). (DEDUCED, log 69) -/
def execVcvtz (sw : Bool) (vd va : VReg) (p : BitVec 3) (t : EType) (et : EType) (m : Mask) (q : Bool) (s : State) :=
  s.issue fun c => c.vector (vhdr sw (et.isFloat && !t.isFloat && partOk et t p) [vd, va]) (.vcvtz sw vd va p t et m q)

/-- VRED (R237). -/
def execVred (sw : Bool) (va : VReg) (op : RedOp) (et : EType) (m : Mask) (q : Bool) (s : State) := s.issue fun c => c.vector { vhdr sw true [va] with push := true } (.vred sw va op et m q)
/-- VSCAN (R238). -/
def execVscan (sw : Bool) (vd va : VReg) (op : ScanOp) (et : EType) (m : Mask) (q : Bool) (s : State) := s.issue fun c => c.vector (vhdr sw true [vd, va]) (.vscan sw vd va op et m q)
/-- VCMPR (R239). -/
def execVcmpr (sw : Bool) (vd va : VReg) (et : EType) (m : Mask) (q : Bool) (s : State) := s.issue fun c => c.vector (vhdr sw true [vd, va]) (.vcmpr sw vd va et m q)
/-- VEXPD (R239). -/
def execVexpd (sw : Bool) (vd va : VReg) (et : EType) (m : Mask) (q : Bool) (s : State) := s.issue fun c => c.vector (vhdr sw true [vd, va]) (.vexpd sw vd va et m q)
/-- VPERM (R239). -/
def execVperm (sw : Bool) (vd va vb : VReg) (et : EType) (m : Mask) (q : Bool) (s : State) := s.issue fun c => c.vector (vhdr2 sw true vd va vb) (.vperm sw vd va vb et m q)
/-- VIOTA (R235). -/
def execViota (sw : Bool) (vd : VReg) (et : EType) (m : Mask) (q : Bool) (s : State) := s.issue fun c => c.vector (vhdr sw true [vd]) (.viota sw vd et m q)
/-- VCNT (R235). -/
def execVcnt (sw : Bool) (et : EType) (m : Mask) (q : Bool) (s : State) := s.issue fun c => c.vector { vhdr sw true [] with push := true } (.vcnt sw et m q)
/-- VMSK (R234). -/
def execVmsk (sw : Bool) (vd va vb : VReg) (op : MskOp) (et : EType) (q : Bool) (s : State) := s.issue fun c => c.vector (vhdr sw true (if op = .nz then [va] else [])) (.vmsk sw vd va vb op et q)
/-- VAMAX (R240). -/
def execVamax (sw : Bool) (vd va : VReg) (et : EType) (m : Mask) (q : Bool) (s : State) := s.issue fun c => c.vector (vhdr sw true [vd, va]) (.vamax sw vd va et m q)

/-- The vb field of VQNT and VDQ: 0 or 1, and 1 for NAT8 (R241, R242). -/
def imageOk (raw : BitVec 3) (nf : Narrow) : Bool := raw == 1 || nf.blocked raw

/-- VQNT (R241). -/
def execVqnt (sw : Bool) (vd va : VReg) (raw : BitVec 3) (nf : Narrow) (et : EType) (m : Mask) (q : Bool) (s : State) :=
  s.issue fun c => c.issue (vhdr sw et.isFloat [vd, va]) fun c =>
    if imageOk raw nf then .done (c.vstart (.vqnt sw vd va raw nf et m q) 0 false) else .trap .illegalOperand 0

/-- VDQ (R242). -/
def execVdq (sw : Bool) (vd va : VReg) (raw : BitVec 3) (nf : Narrow) (et : EType) (m : Mask) (q : Bool) (s : State) :=
  s.issue fun c => c.issue (vhdr sw et.isFloat [vd, va]) fun c =>
    if imageOk raw nf then .done (c.vstart (.vdq sw vd va raw nf et m q) 0 false) else .trap .illegalOperand 0

/-- VFLRD (R243). -/
def execVflrd (sw : Bool) (vd : VReg) (m : Mask) (q : Bool) (s : State) := s.issue fun c => c.vector (vhdr sw true [vd]) (.vflrd sw vd m q)
/-- VFLCL (R243). -/
def execVflcl (sw : Bool) (m : Mask) (q : Bool) (s : State) := s.issue fun c => c.vector (vhdr sw true []) (.vflcl sw m q)

/-! ### VMEM (R225 to R228) -/

/-- VLD and VST at issue: the 256 bytes are checked whatever the mask, and enter the scoreboard (R226). -/
def Chip.vlocal (c : Chip) (h : Hdr) (x : Src) (et : EType) (wr : Bool) (i : Instr) : Chip :=
  c.issue h fun c =>
    match (c.thread c.cur).localAddr (c.src x) 256 with
    | some p =>
      if (c.src x).toNat % et.bytes != 0 then .trap .align (c.src x)
      else
        let e := fun c : Chip => Eff.done (c.start { ranges := [.scratch p 256 wr] } (.vec i (BitVec.ofNat 64 p) 0))
        if wr then c.writing 0 e else e c
    | none => .trap .align (c.src x)

/-- VLD. -/
def execVld (sw : Bool) (vd : VReg) (x : Src) (et : EType) (m : Mask) (q : Bool) (s : State) :=
  s.issue fun c => c.vlocal { vhdr sw true [vd] with extra := [x] } x et false (.vld sw vd x et m q)
/-- VST. -/
def execVst (sw : Bool) (vd : VReg) (x : Src) (et : EType) (m : Mask) (q : Bool) (s : State) :=
  s.issue fun c => c.vlocal { vhdr sw true [vd] with extra := [x] } x et true (.vst sw vd x et m q)

/-- The lane addresses of VLDG and VSTG (R225). -/
def Thread.lineLanes (t : Thread) (x : Word) (et : EType) (m : Mask) : List (Nat × Word) :=
  ((List.range et.lanes).filter (t.active m)).map fun i => (i, x + BitVec.ofNat 64 (i * et.bytes))

/-- The lane addresses of VGATH and VSCAT (R225). -/
def Thread.spreadLanes (t : Thread) (va : VReg) (x : Word) (et : EType) (m : Mask) : List (Nat × Word) :=
  ((List.range et.lanes).filter (t.active m)).map fun i =>
    (i, x + BitVec.ofInt 64 (EType.sval et (t.lane va et i) * et.bytes))

/-- What the pipe makes of a byte-memory vector instruction: its lane accesses, or ALIGN (R228). -/
def Thread.vform (t : Thread) (i : Instr) (x : Word) : Option OpBody :=
  match i with
  | .vldg _ vd _ et m _ => some (.vget vd et.bytes false (t.lineLanes x et m) [])
  | .vstg _ vd _ et m _ => some (.vput et.bytes false (t.lineLanes x et m) t.vec[vd] [])
  | .vgath _ vd va _ et m _ =>
    let ls := t.spreadLanes va x et m
    if ls.all fun e => e.2.toNat % et.bytes == 0 then some (.vget vd et.bytes true ls []) else none
  | .vscat _ vd va _ et m _ =>
    let ls := t.spreadLanes va x et m
    if ls.all fun e => e.2.toNat % et.bytes == 0 then some (.vput et.bytes true ls t.vec[vd] []) else none
  | _ => none

/-- A byte-memory vector instruction at issue (R227 to R229). -/
def Chip.vbyte (c : Chip) (h : Hdr) (x : Src) (et : EType) (aligned wr : Bool) (i : Instr) : Chip :=
  c.issue h fun c =>
    if aligned && (c.src x).toNat % et.bytes != 0 then .trap .align (c.src x)
    else c.impure false fun c =>
      let rel := if wr then (c.thread c.cur).releasing else none
      let e := fun c : Chip => Eff.done (c.start { outst := !wr, opA := c.src x, rel := rel } (.vec i (c.src x) 0))
      if wr then c.writing 2 e else e c

/-- VLDG: vd stays outstanding (R221). -/
def execVldg (sw : Bool) (vd : VReg) (x : Src) (et : EType) (m : Mask) (q : Bool) (s : State) :=
  s.issue fun c => c.vbyte { vhdr sw true [vd] with extra := [x], vout := [vd] } x et true false (.vldg sw vd x et m q)
/-- VSTG. -/
def execVstg (sw : Bool) (vd : VReg) (x : Src) (et : EType) (m : Mask) (q : Bool) (s : State) :=
  s.issue fun c => c.vbyte { vhdr sw true [vd] with extra := [x] } x et true true (.vstg sw vd x et m q)
/-- VGATH: vd stays outstanding (R221). -/
def execVgath (sw : Bool) (vd va : VReg) (x : Src) (et : EType) (m : Mask) (q : Bool) (s : State) :=
  s.issue fun c => c.vbyte { vhdr sw true [vd, va] with extra := [x], vout := [vd] } x et false false (.vgath sw vd va x et m q)
/-- VSCAT. -/
def execVscat (sw : Bool) (vd va : VReg) (x : Src) (et : EType) (m : Mask) (q : Bool) (s : State) :=
  s.issue fun c => c.vbyte { vhdr sw true [vd, va] with extra := [x] } x et false true (.vscat sw vd va x et m q)

/-! ### The pipe performs an instruction -/

/-- Bytes of active lanes of a store of width w: the address of each and its byte. -/
def activeBytes (t : Thread) (data : VWord) (m : Mask) (w addr : Nat) : List (Nat × Byte) :=
  ((List.range 256).filter fun k => t.active m (k / w)).map fun k => (addr + k, data.extractLsb' (8 * k) 8)

/-- The instruction at the head of the thread's pipe is performed (R220, R226, R228). (DEDUCED, log 14) -/
def Chip.doVec (c : Chip) (o : Op) (i : Instr) (x : Word) (rm : RMode) : Chip :=
  let t := c.thread o.tid
  let k := coreOf o.tid
  if (c.earlier o).any fun q => match q.body with
      | .vec .. => true
      | _ => false
  then c
  else match i with
  | .vld _ vd _ et m _ =>
    if c.mayLocal o then
      let bs := (c.core k).scratch.bytes x.toNat 256
      (c.modThread o.tid fun t => t.laneLoop vd et m true fun j => (elemOf bs et.bytes j, 0)).finish o 0 0
    else c
  | .vst _ vd _ et m _ =>
    if c.mayLocal o then
      let ws := activeBytes t t.vec[vd] m et.bytes x.toNat
      (c.modCore k fun q => { q with scratch := q.scratch.setAt (ws.map (·.1)) (ws.map (·.2)) }).finish o 0 0
    else c
  | .vldg .. | .vstg .. | .vgath .. | .vscat .. =>
    match t.vform i x with
    | some b => c.modOp o.id fun q => { q with body := b }
    | none => c.refuse o .align x 0
  | _ =>
    let r := t.vrun i x rm
    (c.modThread o.tid fun _ => r.1).finish o r.2 0
where
  /-- Lane j of loaded bytes. -/
  elemOf (bs : List Byte) (w j : Nat) : Nat := natOfBytes ((bs.drop (w * j)).take w)

/-- Two lane accesses of an operation overlap: the same virtual bytes, or two mappings of one memory (R227, R350). -/
def Chip.lanesMeet (c : Chip) (o : Op) (w : Nat) (a b : Nat × Word) : Bool := c.overlap o o (a.2, w) (b.2, w)

/-- The lane to be performed next is free among those that overlap no earlier one (R227, R421; log 3). (DEDUCED, log 56) -/
def Chip.nextLane (c : Chip) (o : Op) (w : Nat) (lanes : List (Nat × Word)) : List (Nat × Word) :=
  let k := Config.pick c.draws % max 1 lanes.length
  match lanes[k]? with
  | none => lanes
  | some e => if (lanes.take k).any (c.lanesMeet o w e) then lanes else e :: lanes.eraseIdx k

/-- The lanes performed, counted in ascending lane order: those before the first that is not; only VGATH and VSCAT count them
(R306). (DEDUCED, log 56) -/
def laneToken (spread : Bool) (lanes : List (Nat × Word)) (done : List Nat) : Word :=
  if spread then BitVec.ofNat 64 (done.filter fun i => lanes.all fun e => decide (i < e.1)).length else 0

/-- A lane of VLDG or VGATH arrives. -/
def Chip.laneArrives (c : Chip) (o : Op) (v : VReg) (w : Nat) (sp : Bool) (lane : Nat) (rest : List (Nat × Word)) (done : List Nat)
    (bs : List Byte) : Chip :=
  (c.modThread o.tid fun t => t.writeLanes v w true fun i => if i = lane then some (natOfBytes bs, 0) else none).modOp o.id
    fun q => { q with body := .vget v w sp rest (lane :: done), asked := false, replies := [] }

/-- One lane access of VLDG or VGATH, or its end (R227, R228). (DEDUCED, log 14) (DEDUCED, log 56) -/
def Chip.doVget (c : Chip) (o : Op) (v : VReg) (w : Nat) (sp : Bool) (lanes : List (Nat × Word)) (done : List Nat) : Chip :=
  let lanes := if o.asked then lanes else c.nextLane o w lanes
  let c := (c.modOp o.id fun q => { q with body := .vget v w sp lanes done })
  let c := { c with draws := c.draws + 1 }
  let refuse := fun (c : Chip) (cause : Cause) (va : Word) => c.refuse o cause va (laneToken sp lanes done)
  match lanes with
  | [] => c.finish o 0 0
  | (lane, va) :: rest =>
    if o.asked then c.afar o fun bs => c.laneArrives o v w sp lane rest done bs
    else if !c.mayAccess o [(va, w)] then c
    else match c.opAccess o .read va w with
      | .fault f => c.waitPage o f
      | .refuse cause _ => refuse c cause va
      | .far dev pa => c.ask o va (laneToken sp lanes done) [.req dev o.part (tagOf o.id 0) (.read pa w)]
      | .ok keys _ =>
        if c.poisoned keys then refuse c .memUncorrectable va
        else if c.hostHolds keys true then c.snoop keys false
        else
          let k := coreOf o.tid
          let c := ((c.fetchHost keys).touch (some k) keys).noteRead o.tid keys
          let (bs, c) := c.readL1 k keys
          (c.keepXlat k o.part o.asid va).laneArrives o v w sp lane rest done bs

/-- One lane access of VSTG or VSCAT, or its end (R227, R228). (DEDUCED, log 14) (DEDUCED, log 56) -/
def Chip.doVput (c : Chip) (o : Op) (w : Nat) (sp : Bool) (lanes : List (Nat × Word)) (data : VWord) (done : List Nat) : Chip :=
  let lanes := if o.asked then lanes else c.nextLane o w lanes
  let c := (c.modOp o.id fun q => { q with body := .vput w sp lanes data done })
  let c := { c with draws := c.draws + 1 }
  let refuse := fun (c : Chip) (cause : Cause) (va : Word) => c.refuse o cause va (laneToken sp lanes done)
  match lanes with
  | [] => c.finish o 0 0
  | (lane, va) :: rest =>
    let bs := bytesOfNat w (vlane data w lane)
    let goOn := fun (c : Chip) => c.modOp o.id fun q => { q with
      body := .vput w sp rest data (lane :: done), asked := false, replies := [], held := Table.erase q.held va.toNat }
    if o.asked then c.afar o fun _ => goOn c
    else if !c.mayAccess o [(va, w)] then c
    else match c.writeAccess o .write va w with
      | .fault f => c.waitPage o f
      | .refuse cause _ => refuse c cause va
      | .far dev pa => c.ask o va (laneToken sp lanes done) [.req dev o.part (tagOf o.id 0) (.write pa bs)]
      | .ok keys page =>
        if !c.single page then c.holdWrite o va keys page
        else if c.hostHolds keys false then c.snoop keys true
        else goOn (((c.perform (.thread o.tid) keys bs).released o.tid o.rel keys).keepXlat (coreOf o.tid) o.part o.asid va)

end Sys2Proof.Machine
end

