-- ==== Sys2Proof/Machine/Tile.lean ====
section
/-!
DEFINITION. Tile instructions and the steps of tile requests: R20 to R25, R99 to R138.
-/

namespace Sys2Proof.Machine

/-! ### Purity of tile requests (R138, R290) -/

/-- Two handles name one version (R138). -/
def sameVersion (g h : Word) : Bool := g.extractLsb' 0 52 == h.extractLsb' 0 52

/-- A PURITY 0 space is strict for stores, by the issuing package's definition (R290). -/
def Chip.strictSpace (c : Chip) (h : Word) : Bool :=
  match c.space? (c.thread c.cur).part (hSpace h) with
  | some s => !s.purity
  | none => false

/-- Go on if the request is one a pure task may make, else as a violation (R290). (DEDUCED, log 70) -/
def Chip.pureOr (c : Chip) (ok : PureTask → Bool) (strict : Bool) (k : Chip → Eff) : Eff :=
  match (c.thread c.cur).pureTask with
  | none => k c
  | some p => if ok p then k c else c.impure strict k

/-- The handle is an argument of the pure task. -/
def PureTask.reads (p : PureTask) (h : Word) : Bool := p.args.any (sameVersion h)
/-- The handle is a declared output of the pure task. -/
def PureTask.publishes (p : PureTask) (h : Word) : Bool := p.outs.any (sameVersion h)

/-! ### Issue -/

/-- A request of the current thread about a handle; its id is that of the operation just started. -/
def Chip.request (c : Chip) (id : Nat) (h : Word) (body : TileBody) (target : Word) : Chip :=
  let t := c.thread c.cur
  let r : Req := { id := id, part := t.part, space := hSpace h, index := hIndex h, version := hVersion h, header := hHeader h,
                   body := body, origin := .op id, tid := c.cur, graph := t.graph, asid := t.asid, phase := .travelling,
                   counted := false, target := target }
  { c with reqs := c.reqs ++ [r] }

/-- A tile command starts: its operation and its request, unless its counter is full (R39, R120). -/
def Chip.tile (c : Chip) (a : Start) (k : Ctr) (det : Bool) (ob : OpBody) (h : Word) (body : TileBody) : Eff :=
  c.unlessFull k (.done ((c.start { a with push := !det, eng := true, cc := some k } ob).request c.nextId h body a.opA))

/-- The header of a tile command with two sources. -/
def tileHdr (sw : Bool) (a b : Src) (det : Bool) : Hdr := { sw := sw, pair := [a, b], push := !det }
/-- The header of a tile command with one source. -/
def tileHdr1 (sw : Bool) (a : Src) (det : Bool) : Hdr := { sw := sw, pair := [a], push := !det }

/-- A handle read at issue (R100, R123). -/
def withHandle (h : Word) (e : Eff) : Eff := if badHandle h then .trap .badHandle 0 else e

/-- A local range at an alignment (R123): the scratchpad address, or ALIGN. -/
def Chip.withLocal (c : Chip) (la : Word) (n align : Nat) (k : Nat → Eff) : Eff :=
  if la.toNat % align != 0 then .trap .align la
  else match (c.thread c.cur).localAddr la n with
    | some p => k p
    | none => .trap .align la

/-- A word of the current core's scratchpad. -/
def Chip.scratchWord (c : Chip) (p : Nat) : Word := (c.core (coreOf c.cur)).scratch.word p

/-- A record of n bytes read at issue (R122). (DEDUCED, log 61) -/
def Chip.withRecord (c : Chip) (la : Word) (n align : Nat) (k : Chip → Nat → Eff) : Eff :=
  c.withLocal la n align fun p => c.whenFree [.scratch p n false] fun c => k c p

/-- Registers a tile fills (R123). -/
def vecCount (h : Word) : Nat := (tbytes h + 255) / 256

/-- The registers v(k) to v(k + n − 1). -/
def vecRange (k : VReg) (n : Nat) : List VReg := (List.finRange 8).filter fun v => decide (k.val ≤ v.val) && decide (v.val < k.val + n)

/-- The vector register operands of an engine command are taken once the pipe has written them (R191, R220). -/
def Chip.afterPipe (c : Chip) (k : Chip → Eff) : Eff := if c.piped.isEmpty then k c else .hold (.gone c.piped)

/-- TLD (R125). -/
def execTld (sw : Bool) (a b : Src) (k : Ctr) (det keep : Bool) (s : State) :=
  s.issue fun c => c.issue (tileHdr sw a b det) fun c =>
    let h := c.src a
    withHandle h (c.withLocal (c.src b) (tbytes h) 16 fun p =>
      c.pureOr (·.reads h) false fun c =>
        c.tile { opA := h, opB := c.src b, result := h, ranges := [.scratch p (tbytes h) true] } k det (.tileLocal p) h (.load keep))

/-- TLDV (R125, R127). -/
def execTldv (sw : Bool) (a : Src) (k : Ctr) (v : VReg) (keep : Bool) (s : State) :=
  s.issue fun c =>
    let vs := vecRange v (vecCount (c.src a))
    c.issue { tileHdr1 sw a false with vuse := vs, vout := vs } fun c =>
    let h := c.src a
    withHandle h (if 8 < v.val + vecCount h then .trap .illegalOperand 0
      else c.pureOr (·.reads h) false fun c => c.afterPipe fun c =>
        c.tile { opA := h, result := h } k false (.tileVec v) h (.load keep))

/-- TST: the bytes are read at issue (R133). (DEDUCED, log 61) -/
def execTst (sw : Bool) (a b : Src) (k : Ctr) (det : Bool) (s : State) :=
  s.issue fun c => c.issue (tileHdr sw a b det) fun c =>
    let h := c.src a
    let w := c.src b
    withHandle h (c.withLocal (w.extractLsb' 0 32 |>.setWidth 64) (tbytes h) 16 fun p =>
      if fld w 48 16 != 0 || fld w 32 16 == 0 then .trap .illegalOperand 0
      else c.pureOr (·.publishes h) (c.strictSpace h) fun c => c.whenFree [.scratch p (tbytes h) false] fun c =>
        c.writing 1 fun c => c.tile { opA := h, opB := w, result := h } k det (.tile false) h
          (.store (fld w 32 16) ((c.core (coreOf c.cur)).scratch.bytes p (tbytes h))))

/-- The bytes of v(k) onward. -/
def Thread.vecBytes (t : Thread) (k : VReg) (n : Nat) : List Byte :=
  (List.range n).map fun i => (t.vec.toList.getD (k.val + i / 256) 0).extractLsb' (8 * (i % 256)) 8

/-- TSTV (R133). -/
def execTstv (sw : Bool) (a b : Src) (k : Ctr) (det : Bool) (v : VReg) (s : State) :=
  s.issue fun c => c.issue { tileHdr sw a b det with vuse := vecRange v (vecCount (c.src a)) } fun c =>
    let h := c.src a
    let u := (c.src b).toNat
    withHandle h (if 8 < v.val + vecCount h then .trap .illegalOperand 0
      else if u = 0 ∨ 65535 < u then .trap .illegalOperand 0
      else c.pureOr (·.publishes h) (c.strictSpace h) fun c => c.afterPipe fun c =>
        c.writing 1 fun c => c.tile { opA := h, opB := c.src b, result := h } k det (.tile false) h
          (.store u ((c.thread c.cur).vecBytes v (tbytes h))))

/-- TALIAS: the request is first a load of the source (R135). -/
def execTalias (sw : Bool) (a b : Src) (k : Ctr) (det : Bool) (s : State) :=
  s.issue fun c => c.issue (tileHdr sw a b det) fun c =>
    let h := c.src a
    withHandle h (c.withRecord (c.src b) 16 8 fun c p =>
      let src := c.scratchWord p
      let u := c.scratchWord (p + 8)
      withHandle src (if fld u 16 48 != 0 || u == 0 then .trap .illegalOperand 0
        else c.pureOr (fun q => q.publishes h && q.reads src) (c.strictSpace h) fun c =>
          c.writing 1 fun c => c.tile { opA := h, opB := c.src b, result := h } k det (.tile true) src (.talias src (fld u 0 16))))

/-- A load-class request without a use (R129). -/
def Chip.look (c : Chip) (sw : Bool) (a : Src) (k : Ctr) (det : Bool) (w : Look) : Chip :=
  c.issue (tileHdr1 sw a det) fun c =>
    let h := c.src a
    withHandle h (c.pureOr (·.reads h) false fun c => c.tile { opA := h, result := h } k det (.tile true) h (.look w))

/-- TWAIT (R129). -/
def execTwait (sw : Bool) (a : Src) (k : Ctr) (det : Bool) (s : State) := s.issue fun c => c.look sw a k det .handle
/-- TDIG (R129). -/
def execTdig (sw : Bool) (a : Src) (k : Ctr) (det hi : Bool) (s : State) := s.issue fun c => c.look sw a k det (.digest hi)
/-- TINFO (R129, R132). -/
def execTinfo (sw : Bool) (a : Src) (k : Ctr) (det : Bool) (s : State) := s.issue fun c => c.look sw a k det .info

/-- TPROBE: its word acquires nothing (R130, R139). -/
def execTprobe (sw : Bool) (a : Src) (k : Ctr) (det : Bool) (s : State) :=
  s.issue fun c => c.issue (tileHdr1 sw a det) fun c =>
    let h := c.src a
    withHandle h (c.pureOr (·.reads h) false fun c => c.tile { opA := h, result := h } k det (.tile false) h .probe)

/-- TADD and TREL at issue (R136). -/
def Chip.useChange (c : Chip) (sw : Bool) (a b : Src) (k : Ctr) (det add : Bool) : Chip :=
  c.issue (tileHdr sw a b det) fun c =>
    let h := c.src a
    let n := (c.src b).toNat
    withHandle h (if 65534 < n ∨ (add ∧ n = 0) then .trap .illegalOperand 0
      else c.pureOr (fun _ => false) false fun c =>
        c.tile { opA := h, opB := c.src b, result := h } k det (.tile true) h (.change add n))

/-- TADD (R136). -/
def execTadd (sw : Bool) (a b : Src) (k : Ctr) (det : Bool) (s : State) := s.issue fun c => c.useChange sw a b k det true
/-- TREL (R136). -/
def execTrel (sw : Bool) (a b : Src) (k : Ctr) (det : Bool) (s : State) := s.issue fun c => c.useChange sw a b k det false

/-- The row step of a transfer record, if its stride is allowed (R122). -/
def rowStep (h : Word) (w : Word) : Option Nat :=
  let row := elemBytes (hFmt h) (hCols h)
  let st := fld w 0 32
  if st = 0 then some row else if st < row then none else some st

/-- TIMP (R134): a purity violation in a pure task. -/
def execTimp (sw : Bool) (a b : Src) (k : Ctr) (det : Bool) (s : State) :=
  s.issue fun c => c.issue (tileHdr sw a b det) fun c =>
    let h := c.src a
    withHandle h (c.withRecord (c.src b) 16 8 fun c p =>
      let w := c.scratchWord (p + 8)
      match rowStep h w with
      | none => .trap .illegalOperand 0
      | some st =>
        if fld w 48 16 != 0 || fld w 32 16 == 0 then .trap .illegalOperand 0
        else c.pureOr (fun _ => false) (c.strictSpace h) fun c =>
          c.writing 1 fun c => c.tile { opA := h, opB := c.src b, result := h } k det (.gather (c.scratchWord p) st []) h (.gather (fld w 32 16)))

/-- TEXP (R125, R128): a purity violation in a pure task. -/
def execTexp (sw : Bool) (a b : Src) (k : Ctr) (det keep : Bool) (s : State) :=
  s.issue fun c => c.issue (tileHdr sw a b det) fun c =>
    let h := c.src a
    withHandle h (c.withRecord (c.src b) 16 8 fun c p =>
      let w := c.scratchWord (p + 8)
      match rowStep h w with
      | none => .trap .illegalOperand 0
      | some st =>
        if fld w 32 32 != 0 then .trap .illegalOperand 0
        else c.pureOr (fun _ => false) false fun c =>
          c.tile { opA := h, opB := c.src b, result := h } k det (.tileMem (c.scratchWord p) st 0) h (.load keep))

/-! ### TSPACE (R102, R104, R137) -/

/-- A descriptor's fields are allowed. -/
def Chip.descriptorOk (c : Chip) (p : Nat) (w0 w1 : Word) (rest : List Byte) : Bool :=
  let home := fld w0 0 2
  fld w0 5 4 == 0 && fld w0 39 25 == 0 && fld w1 16 16 == 0 && rest.all (· == 0) && home != 3
  && (home != 1 || (c.slices p).any fun k => k / 16 == fld w0 2 3)
  && (home != 2 || (fld w0 9 12 != c.device.toNat && decide (fld w0 21 5 < 20)))
  && fld w0 26 2 != 3 && w0.getLsbD 28 && (home == 2 || fld w0 30 9 == 0) && fld w1 0 16 != 0

/-- The space a descriptor defines. -/
def spaceOf (p id : Nat) (w0 w1 : Word) : Space :=
  { part := p, id := id, home := fld w0 0 2, die := fld w0 2 3, device := fld w0 9 12, rpart := fld w0 21 5,
    backing := fld w0 26 2, purity := w0.getLsbD 29, rspace := fld w0 30 8, rmap := w0.getLsbD 38, vquota := fld w1 0 16,
    equota := fld w1 32 32 }

/-- TSPACE at issue: a descriptor is checked before the home that it selects (R104, R137; DESIGN CHOICE, log 85). (DEDUCED, log 23)
(DEDUCED, log 71) -/
def execTspace (sw : Bool) (a b : Src) (k : Ctr) (det : Bool) (s : State) :=
  s.issue fun c => c.issue (tileHdr sw a b det) fun c =>
    let x := (c.src a).toNat
    let t := c.thread c.cur
    let start := fun (c : Chip) (body : OpBody) (id : Nat) => c.impure false fun c =>
      let a : Start := { push := !det, eng := true, cc := some k, opA := c.src a, opB := c.src b, result := BitVec.ofNat 64 id }
      c.unlessFull k (.done (c.start a body))
    if x = 255 ∨ x = 0x1FF then if t.level = .user then .trap .privilege 0 else go c t x start b
    else if x < 0x1FF ∧ x ≠ 255 then go c t x start b
    else .trap .illegalOperand 0
where
  /-- The command past its check of A. -/
  go (c : Chip) (t : Thread) (x : Nat) (start : Chip → OpBody → Nat → Eff) (b : Src) : Eff :=
    if 0x100 ≤ x then if b = .n 0 then start c (.tspace true (x - 0x100) []) (x - 0x100) else .trap .illegalOperand 0
    else c.withRecord (c.src b) 64 64 fun c p =>
      let bs := (c.core (coreOf c.cur)).scratch.bytes p 64
      let w0 := c.scratchWord p
      if !c.descriptorOk t.part w0 (c.scratchWord (p + 8)) (bs.drop 16) then .trap .illegalOperand 0
      else if t.level = .user ∧ fld w0 0 2 = 2 ∧ (if w0.getLsbD 38 then fld w0 30 8 else x) = 255 then .trap .privilege 0
      else start c (.tspace false x bs) x

/-- A space in use (R104), but for the schedulers' loads of its launch names. (DEDUCED, log 26) -/
def Chip.spaceBusy (c : Chip) (p id : Nat) : Bool :=
  (c.entries.any fun e => e.part == p && e.space == id) || (c.heads.any fun h => h.part == p && h.space == id && !c.launchOnly h)
  || c.reqs.any fun r => r.part == p && r.space == id && r.standing && r.origin != .launch

/-- The slices take the definition, or refuse it (R104, R137). -/
def Chip.doTspace (c : Chip) (o : Op) (remove : Bool) (id : Nat) (bs : List Byte) : Chip :=
  if c.heldByFork o then c
  else if c.spaceBusy o.part id then c.refuse o .illegalOperand 0 0
  else
    let others := c.spaces.filter fun s => !(s.part == o.part && s.id == id)
    let new := spaceOf o.part id (wordOfBytes64 (bs.take 8)) (wordOfBytes64 ((bs.drop 8).take 8))
    Chip.finish { c.dropLaunches o.part id with spaces := if remove then others else new :: others } o o.result 0

/-! ### Delivery -/

/-- The request of an operation is served from this extent. -/
def Chip.servedExtent (c : Chip) (id : Nat) : Option Nat :=
  match c.req? id with
  | some r => match r.phase with
    | .served x => some x
    | _ => none
  | none => none

/-- The delivery of an operation's bytes is over: its references are dropped. -/
def Chip.delivered (c : Chip) (id : Nat) : Chip :=
  match c.servedExtent id with
  | some x => (c.dropReq id).dropRef x
  | none => c

/-- Vector registers take bytes, then zeros to the end of the last one (R125). -/
def Thread.fillVecs (t : Thread) (k : VReg) (bs : List Byte) : Thread :=
  (vecRange k ((bs.length + 255) / 256)).foldl (fun t (v : VReg) =>
    { t with vec := t.vec.set v (vofBytes ((bs.drop (256 * (v.val - k.val))).take 256)) }) t

/-- Rows of a tile in byte memory, and its scales after them (R122, R125): the runs of payload bytes lo to hi − 1. -/
def tileRuns (h : Word) (va : Word) (step lo hi : Nat) : List (Word × Nat) :=
  let row := elemBytes (hFmt h) (hCols h)
  let body := (List.range (hRows h)).filterMap fun r =>
    let x := max lo (r * row)
    let y := min hi ((r + 1) * row)
    if x < y then some (va + BitVec.ofNat 64 (r * step + (x - r * row)), y - x) else none
  let e := hRows h * row
  let x := max lo e
  let y := min hi (tbytes h)
  body ++ if x < y then [(va + BitVec.ofNat 64 (hRows h * step + (x - e)), y - x)] else []

/-- Served bytes arrive at the issuing core (R125). -/
def Chip.tileArrives (c : Chip) (o : Op) (x : Nat) : Chip :=
  let bs := c.extentBytes x
  let done := fun (c : Chip) => (c.modOp o.id fun q => { q with ready := true, ranges := [] }).delivered o.id
  match o.body with
  | .tileLocal p =>
    if c.granted (coreOf o.tid) o.id o.ranges then
      done (c.modCore (coreOf o.tid) fun q => { q with scratch := q.scratch.setBytes p (bs.take (tbytes o.opA)) })
    else c
  | .tileVec v => done (c.modThread o.tid fun t => t.fillVecs v (bs.take (tbytes o.opA)))
  | .tileMem _ _ n => if tbytes o.opA ≤ n then done c else c
  | _ => c

/-- One 4 KiB unit of a TEXP is written (R128, R306), unless its extent has gone bad or out of reach before it (R118, R291). -/
def Chip.texpUnit (c : Chip) (o : Op) (va : Word) (step n x : Nat) : Chip :=
  let m := min 4096 (tbytes o.opA - n)
  match if o.moving.isNone then c.extentFault o.part x else none with
  | some cause => ((if cause = .memUncorrectable then c.detect x else c).refuse o cause 0 (BitVec.ofNat 64 n)).delivered o.id
  | none =>
  match c.writeRuns o (tileRuns o.opA va step n (n + m)) (((c.extentBytes x).drop n).take m) (BitVec.ofNat 64 n) with
  | .stay c => if (c.op? o.id).isSome then c else c.delivered o.id
  | .bytes _ c => c.modOp o.id fun q => { q with body := .tileMem va step (n + m) }

/-- One 4 KiB unit of a TIMP is read, once its store is registered (R134, R306). -/
def Chip.timpUnit (c : Chip) (o : Op) (va : Word) (step : Nat) (bs : List Byte) : Chip :=
  let n := bs.length
  let m := min 4096 (tbytes o.opA - n)
  match c.readRuns o (tileRuns o.opA va step n (n + m)) (BitVec.ofNat 64 n) with
  | .stay c => c
  | .bytes b c => c.modOp o.id fun q => { q with body := .gather va step (bs ++ b) }

/-- A TIMP whose bytes are complete: its store goes on for room (R134), or travels on with its bytes. -/
def Chip.gathered (c : Chip) (id : Nat) : Chip :=
  match c.op? id, c.req? id with
  | some o, some r =>
    match o.body, r.body with
    | .gather _ _ bs, .gather u =>
      if r.phase = .gathering && bs.length == tbytes o.opA then
        let q := { r with body := .store u bs }
        match r.sentTo, c.space? r.part r.space with
        | some (dev, rp), _ =>
          if c.linksUp dev then { (c.modReq id fun _ => { q with phase := .remote }) with
            sent := c.sent ++ [.req dev rp (tileTag id) (.tile (handleOf r.header r.space r.index r.version) q.body)] }
          else c.refuseReq r .linkLost
        | none, some s =>
          (c.modReq id fun _ => q).homePlace s q
        | none, none => c
      else c
    | _, _ => c
  | _, _ => c

/-- A TALIAS whose source is served: the store of its target runs (R135); target then names the source. -/
def Chip.aliasGoes (c : Chip) (id : Nat) : Chip :=
  match c.req? id with
  | none => c
  | some r =>
    match r.body, r.phase with
    | .talias _ u, .served x =>
      let g := r.target
      if hHeader g != r.header then c.refuseReq r .badHandle
      else
        let q := { r with space := hSpace g, index := hIndex g, version := hVersion g, body := .aliasOf x u, phase := .travelling,
                          counted := false, target := handleOf r.header r.space r.index r.version }
        if c.outOfOrder q then c
        else match (c.space? q.part q.space).filter fun s => s.home != 2 with
        | none => (c.modReq id fun _ => q).refuseReq q .spaceUndef
        | some s => ((c.modReq id fun _ => q).registered q).homeStore s q
    | _, _ => c

/-- A tile operation ends, once it has been answered (R25, R120). -/
def Chip.endTile (c : Chip) (o : Op) (acq : Bool) : Chip :=
  if o.ready then (if acq then c.acquire (coreOf o.tid) .domain else c).finish o o.result 0 else c

/-! ### Steps -/

/-- TILE_STORE_REGISTER. -/
def execTileStoreRegister (id : Nat) (s : State) := s.on fun c => c.register id TileBody.isStore
/-- TILE_LOAD_REGISTER. -/
def execTileLoadRegister (id : Nat) (s : State) := s.on fun c => c.register id TileBody.isLoad
/-- TILE_USE_CHANGE_REGISTER. -/
def execTileUseChangeRegister (id : Nat) (s : State) := s.on fun c => c.register id TileBody.isChange
/-- TILE_PROBE_REGISTER. -/
def execTileProbeRegister (id : Nat) (s : State) := s.on fun c => c.register id (· == .probe)
/-- WAITING_STORE_RELEASE. -/
def execWaitingStoreRelease (id : Nat) (s : State) := s.on fun c => c.resume id .waitStore
/-- HEAD_CREATE. -/
def execHeadCreate (id : Nat) (s : State) := s.on fun c => c.resume id .waitHead
/-- WAITER_RECORD_FREE. -/
def execWaiterRecordFree (id : Nat) (s : State) := s.on fun c => c.resume id .waitRecord
/-- PUBLICATION: the accesses before the store are performed (R139). -/
def execPublication (id : Nat) (s : State) := s.on fun c => c.publish id
/-- TILE_LOAD_COMPLETE. -/
def execTileLoadComplete (id : Nat) (s : State) :=
  s.on fun c => match c.op? id, c.servedExtent id with
    | some o, some x => c.tileArrives o x
    | _, _ => c
/-- TIMP_GATHER_COMPLETE. -/
def execTimpGatherComplete (id : Nat) (s : State) := s.on fun c => c.gathered id
/-- TALIAS_SOURCE_SERVED. -/
def execTaliasSourceServed (id : Nat) (s : State) := s.on fun c => c.aliasGoes id

/-- SCRUB_ERROR: an uncorrectable error stands in the extent (R118, R291). -/
def execScrubError (extent : Nat) (s : State) :=
  s.on fun c => match Table.get? c.extents extent with
    | some x => ({ c with extents := Table.put c.extents extent { x with bad := true } }).detect extent
    | none => c

end Sys2Proof.Machine
end

