-- ==== Sys2Proof/Machine/Sched.lean ====
section
/-!
DEFINITION. Placement words, records, contexts, gangs and graphs: R251 to R260, R262 to R268, R406.
-/

namespace Sys2Proof.Machine

/-! ### Accesses of units without an operation, and the save area (R265, R266, R311, R316, R317, R346) -/

/-- The schedulers and other units without a core. (DESIGN CHOICE, log 16) -/
def noCore : Nat := 512

/-- The core whose translation an agent uses. (DESIGN CHOICE, log 16) -/
def Agent.units (a : Agent) : Nat := a.core?.getD noCore

/-- The bytes at home of the runs of a unit's access, those that it can reach. -/
def Chip.unitKeys (c : Chip) (a : Agent) (p : Nat) (asid : BitVec 16) (lvl : Level) (need : Need) (rs : List (Word × Nat)) : List Nat :=
  rs.flatMap fun r => match c.access a.units p asid lvl need r.1 r.2 with
    | .ok keys _ => keys
    | _ => []

/-- A unit's access meets lines that the host holds, in its tables or its bytes: the homes ask for them first, and it waits (R379, R390).
(DESIGN CHOICE, log 40) -/
def Chip.unitAsksHost (c : Chip) (a : Agent) (p : Nat) (asid : BitVec 16) (lvl : Level) (need : Need) (rs : List (Word × Nat)) : Option Chip :=
  if c.hostLines.isEmpty then none
  else
    let tables := c.walkHeld a.units p asid rs
    let keys := c.unitKeys a p asid lvl need rs
    if !tables.isEmpty then some (c.snoop tables false)
    else if c.hostHolds keys (!need.w) then some (c.snoop keys need.w) else none

/-- A page is collapsed to one copy for a write from a die (R385). -/
def Chip.collapseFor (c : Chip) (p die : Nat) (page : Option (Nat × Nat)) : Chip :=
  match page with
  | some g => if c.single page then c
    else Chip.modPart { c with collapsed := (g.1, die, g.2) :: c.collapsed } p fun q => { q with dupCollapse := q.dupCollapse + 1 }
  | none => c

/-- The lines that a unit is about to read under an ASID come to their homes. (DESIGN CHOICE, log 16) -/
def Chip.devOpen (c : Chip) (a : Agent) (p : Nat) (asid : BitVec 16) (lvl : Level) (va : Word) (n : Nat) : Chip :=
  let c := c.walked a.units p asid [(va, n)]
  match c.access a.units p asid lvl .read va n with
  | .ok keys _ => ((c.wakeFor p keys).fetchHost keys).touch none keys
  | _ => c

/-- Bytes that a unit of the package reads under an ASID; none where it cannot (DESIGN CHOICE, log 16). -/
def Chip.devRead (c : Chip) (a : Agent) (p : Nat) (asid : BitVec 16) (lvl : Level) (va : Word) (n : Nat) : Option (List Byte) :=
  match c.access a.units p asid lvl .read va n with
  | .ok keys _ => if c.poisoned keys then none else some (keys.map c.mem.byte)
  | _ => none

/-- A write of a unit at its home: a read-duplicated page collapses first (R349, R385). -/
def Chip.devPerform (c : Chip) (a : Agent) (p : Nat) (keys : List Nat) (page : Option (Nat × Nat)) (bs : List Byte) : Chip :=
  ((c.wakeFor p keys).collapseFor p ((a.core?.map dieOf).getD 0) page).perform a keys bs

/-- A unit sends a request to a peer, and its answer is awaited (R265, R383). (DESIGN CHOICE, log 16) -/
def Chip.unitSend (c : Chip) (x : UnitAsk) (m : Nat → Sent) : Chip :=
  Chip.send { c with unitAsks := Table.put c.unitAsks c.nextId x, nextId := c.nextId + 1 } [m (tagOf c.nextId 0)]

/-- The first cause that keeps a unit from writing these runs; an absent page is PAGE_FAULT. (DESIGN CHOICE, log 16) -/
def Chip.devStop (c : Chip) (a : Agent) (p : Nat) (asid : BitVec 16) (lvl : Level) (rs : List (Word × Nat)) : Option Cause :=
  rs.findSome? fun r => match c.access a.units p asid lvl .write r.1 r.2 with
    | .ok .. => none
    | .far dev _ => if c.linksUp dev then none else some .linkLost
    | .fault _ => some .pageFault
    | .refuse cause _ => some cause

/-- A unit writes a run within one page: at its home, or at a peer's. (DESIGN CHOICE, log 16) -/
def Chip.devRun (c : Chip) (a : Agent) (p : Nat) (asid : BitVec 16) (lvl : Level) (va : Word) (bs : List Byte) : Chip :=
  match c.access a.units p asid lvl .write va bs.length with
  | .ok keys page => c.devPerform a p keys page bs
  | .far dev pa => c.unitSend (.put p) fun tag => .req dev p tag (.write pa bs)
  | _ => c

/-- A unit writes runs one after another, each its share of the bytes. (DESIGN CHOICE, log 16) -/
def Chip.devRuns (c : Chip) (a : Agent) (p : Nat) (asid : BitVec 16) (lvl : Level) : List (Word × Nat) → List Byte → Chip
  | [], _ => c
  | r :: rs, bs => (c.devRun a p asid lvl r.1 (bs.take r.2)).devRuns a p asid lvl rs (bs.drop r.2)

/-- Bytes that a unit of the package writes under an ASID, or the cause that stops it before any is written. (DESIGN CHOICE, log 16) -/
def Chip.devWrite (c : Chip) (a : Agent) (p : Nat) (asid : BitVec 16) (lvl : Level) (va : Word) (bs : List Byte) : Except Cause Chip :=
  let c := c.walked a.units p asid [(va, bs.length)]
  match c.devStop a p asid lvl (cutRuns va bs.length) with
  | some cause => .error cause
  | none => .ok (c.devRuns a p asid lvl (cutRuns va bs.length) bs)

/-- Address of a slot of the table. -/
def slotVa (w : Word) (n : Nat) : Word := BitVec.ofNat 64 (fld w 12 52 * 4096 + 64 * n)

/-- Slot n of a table of 4 KiB as the schedulers read it: reserved bits and policy 3 leave it unarmed, as a misaligned entry does
(R267). The slots armed anew count their starts from 0: the latest start that has passed is taken, though an earlier arming may have
taken it, and each earlier one counts SKIPS (DESIGN CHOICE, log 76). (DEDUCED, log 52) -/
def slotOf (bs : List Byte) (n : Nat) : TSlot :=
  let at_ := fun (k : Nat) => wordOfBytes64 ((bs.drop (64 * n + 8 * k)).take 8)
  let ctl := at_ 5
  { armed := ctl.getLsbD 2 && fld ctl 3 61 == 0 && fld ctl 0 2 != 3 && fld (at_ 2) 0 2 == 0 && at_ 7 == 0
    start := at_ 0, period := at_ 1, entry := at_ 2, arg := at_ 3, place := at_ 4, policy := fld ctl 0 2, nextK := 0,
    running := [], pending := none }

/-- The slots of a table as they are read at a write of SLOTTAB; a running instance stays noted, and so does a held start. (DEDUCED,
log 52) -/
def Chip.armSlots (c : Chip) (p : Nat) (bs : List Byte) : Chip :=
  c.modPart p fun q => { q with tslots := (List.range 64).map fun n =>
    let old := Table.get? q.tslots n
    (n, { slotOf bs n with running := (old.map TSlot.running).getD [], pending := old.bind TSlot.pending }) }

/-- What an access of a unit reads or writes: its runs, and whether it writes. -/
def UnitJob.runs : UnitJob → List (Word × Nat) × Need
  | .put va bs => (cutRuns va bs.length, .write)
  | .count va _ => ([(va, 4)], .write)
  | .slots va => ([(va, 4096)], .read)

/-- An access of a unit is made, on another device it may be; one that cannot be made is dropped (R265 to R267, R311, R317).
(DESIGN CHOICE, log 16) -/
def Chip.unitDo (c : Chip) (x : UnitWork) : Chip :=
  let p := x.part
  match x.job with
  | .put va bs => match c.devWrite .unit p x.asid .sup va bs with
    | .ok c => c
    | .error _ => c
  | .count va n =>
    match c.access noCore p x.asid .sup .write va 4 with
    | .far dev pa =>
      if c.linksUp dev then c.unitSend (.put p) fun tag => .atom dev p tag
        { pa := pa, op := .add, width := .w32, operand := BitVec.ofNat 64 n, expected := 0 }
      else c
    | _ =>
      let c := c.devOpen .unit p x.asid .sup va 4
      match c.devWrite .unit p x.asid .sup va (bytesOfNat 4 (natOfBytes ((c.devRead .unit p x.asid .sup va 4).getD []) + n)) with
      | .ok c => c
      | .error _ => c
  | .slots va =>
    match c.access noCore p x.asid .sup .read va 4096 with
    | .far dev pa => if c.linksUp dev then c.unitSend (.slots p) fun tag => .req dev p tag (.read pa 4096) else c
    | _ =>
      let c := c.devOpen .unit p x.asid .sup va 4096
      c.armSlots p ((c.devRead .unit p x.asid .sup va 4096).getD [])

/-- An access of a unit is made at once, or stands behind those of its partition that wait for the host, or waits for it itself (R390).
(DESIGN CHOICE, log 40) -/
def Chip.unitRun (c : Chip) (x : UnitWork) : Chip :=
  if c.unitWork.any fun y => y.part == x.part then { c with unitWork := c.unitWork ++ [x] }
  else match c.unitAsksHost .unit x.part x.asid .sup x.job.runs.2 x.job.runs.1 with
    | some c => { c with unitWork := c.unitWork ++ [x] }
    | none => c.unitDo x

/-- The host has given lines back: accesses of units that waited for them are made (R390). (DESIGN CHOICE, log 40) -/
def Chip.unitsGo (c : Chip) : Chip := c.unitWork.foldl Chip.unitRun { c with unitWork := [] }

/-- A write that is dropped where it cannot be made. (DESIGN CHOICE, log 16) -/
def Chip.devPut (c : Chip) (p : Nat) (asid : BitVec 16) (va : Word) (bs : List Byte) : Chip :=
  c.unitRun { part := p, asid := asid, job := .put va bs }

/-- TRAPSAVE is valid: SIZE from 20 to 40. -/
def Chip.areaOk (c : Chip) (p : Nat) : Bool :=
  decide (20 ≤ fld (c.part p).trapsave 0 6) && decide (fld (c.part p).trapsave 0 6 ≤ 40)

/-- An address of the area. -/
def Chip.areaVa (c : Chip) (p off : Nat) : Word := BitVec.ofNat 64 (fld (c.part p).trapsave 20 44 * 2 ^ 20 + off)

/-- Bytes that a unit without a core writes into the area, under the ASID of the thread that wrote TRAPSAVE (DESIGN CHOICE, log 16).
(DEDUCED, log 50) -/
def Chip.areaPut (c : Chip) (p off : Nat) (bs : List Byte) : Chip :=
  if c.areaOk p then c.devPut p (c.part p).areaAsid (c.areaVa p off) bs else c

/-- Bytes of the save pool. -/
def Chip.poolSize (c : Chip) (p : Nat) : Nat := 2 ^ fld (c.part p).trapsave 0 6 - 0x30000

/-- The header of the area: next SEQ, stop records written, pool bytes free. (DEDUCED, log 50) -/
def Chip.areaHeader (c : Chip) (p : Nat) : Chip :=
  let q := c.part p
  let used := (q.saves.map fun e => e.2.size).sum
  c.areaPut p 0 (bytesOfNat 8 q.trapSeq.toNat ++ bytesOfNat 8 q.stopCount.toNat ++ bytesOfNat 8 (c.poolSize p - used))

/-! ### The placement word (R252) -/

/-- CORE. -/
def pCore (w : Word) : Nat := fld w 0 9
/-- NAMED. -/
def pNamed (w : Word) : Bool := w.getLsbD 9
/-- PRIO. -/
def pPrio (w : Word) : Nat := fld w 12 2
/-- WIN. -/
def pWin (w : Word) : Nat := fld w 14 4
/-- ACC. -/
def pAcc (w : Word) : Nat := fld w 18 4
/-- ONE. -/
def pOne (w : Word) : Bool := w.getLsbD 22
/-- GANG. -/
def pGang (w : Word) : Nat := fld w 23 8
/-- The class a record needs: CLASS, and M for ANY with more than four slots (R253). -/
def pClass (w : Word) : Nat := if fld w 10 2 = 0 ∧ 4 < pAcc w then 1 else fld w 10 2
/-- Bytes of the window. -/
def winBytes (w : Word) : Nat := 4096 * 2 ^ pWin w

/-- A reserved bit, a class of 3 or a window class above 6 (R252). -/
def placeBad (w : Word) : Bool := fld w 31 33 != 0 || fld w 10 2 == 3 || decide (6 < pWin w)

/-- A core is of a class. -/
def ofClass (cls k : Nat) : Bool := cls == 0 || (cls == 1) == isMCore k

/-- The class of a core (R341, CLASS). -/
def coreClass (k : Nat) : Nat := if isMCore k then 1 else 2

/-- A gang on one core k fits it when it is empty (R140, R253). -/
def oneFits (w : Word) (k : Nat) : Bool :=
  ofClass (pClass w) k && decide (pAcc w ≤ slotCount k) && decide ((pGang w + 1) * winBytes w ≤ scratchSize k)

/-- Contexts of a class in a partition, without the supervisor's (R253). -/
def Chip.contexts (c : Chip) (p cls : Nat) : Nat :=
  (((c.partCores p).filter (ofClass cls)).map fun k => if k = coreOf (c.supervisor p) then 15 else 16).sum

/-- Why a placement can never be met (R253); gang: SPAWNG, which needs a gang. (DESIGN CHOICE, log 88) -/
def Chip.placeCause (c : Chip) (p : Nat) (w : Word) (gang : Bool) : Option Cause :=
  if 8 < pAcc w ∨ (fld w 10 2 = 2 ∧ 4 < pAcc w) then some .spawnClass
  else if !([0, 256].any fun k => ofClass (pClass w) k && decide (winBytes w ≤ scratchSize k)) then some .spawnClass
  else if pNamed w && !((c.partCores p).contains (pCore w) && ofClass (pClass w) (pCore w)) then some .spawnClass
  else if 64 < pGang w ∨ (gang ∧ pGang w = 0) then some .gangTooLarge
  else if pOne w && (decide (16 < pGang w) || (decide (0 < pGang w) && !([0, 256].any (oneFits w)))) then some .gangTooLarge
  else if c.contexts p (pClass w) < pGang w then some .gangTooLarge
  else none

/-! ### Free room of a core (R251, R255) -/

/-- A gang holds its shared window and slots. -/
def Gang.holds (g : Gang) : Bool := g.one && (!g.reserved.isEmpty || decide (0 < g.running))

/-- The scratchpad runs in use on core k: first byte and size. -/
def Chip.runsUsed (c : Chip) (k : Nat) : List (Nat × Nat) :=
  ((c.threads.filter fun e => coreOf e.1 == k && e.2.live).map fun e => (e.2.winBase, e.2.winSize)) ++
  c.gangs.flatMap fun g =>
    ((g.reserved.filter fun r => r.1 == k).map fun r => (r.2.2.1, winBytes g.place)) ++
    if g.holds && g.core == k then [(g.gangBase, winBytes g.place)] else []

/-- The slots in use on core k. -/
def Chip.slotsUsed (c : Chip) (k : Nat) : List Nat :=
  ((c.threads.filter fun e => coreOf e.1 == k && e.2.live).flatMap fun e => e.2.slots) ++
  c.gangs.flatMap fun g =>
    ((g.reserved.filter fun r => r.1 == k).flatMap fun r => r.2.2.2) ++ if g.holds && g.core == k then g.slots else []

/-- The free contexts of core k for tasks of partition p. (DESIGN CHOICE, log 15) -/
def Chip.freeContexts (c : Chip) (p k : Nat) : List Nat :=
  (List.range 16).filter fun x =>
    !(c.thread (16 * k + x)).live && 16 * k + x != c.supervisor p
    && !c.gangs.any fun g => g.reserved.any fun r => r.1 == k && r.2.1 == x

/-- Aligned runs of a size that are free, one after another, given the runs in use. (DESIGN CHOICE, log 15) -/
def freeRuns (total size : Nat) (used : List (Nat × Nat)) : List Nat :=
  ((List.range (total / size)).map (· * size)).filter fun b =>
    used.all fun u => decide (u.1 + u.2 ≤ b) || decide (b + size ≤ u.1)

/-- The free slots of core k. (DESIGN CHOICE, log 15) -/
def Chip.freeSlots (c : Chip) (k : Nat) : List Nat := (List.range (slotCount k)).filter fun x => !(c.slotsUsed k).contains x

/-- What a placed task takes. -/
structure Room where
  ctx : Nat
  win : Nat
  slots : List Nat
  deriving DecidableEq, Repr

/-- A core that the placement word allows; a restore is not bound by NAMED and CORE (R298). -/
def Chip.eligible (c : Chip) (p : Nat) (w : Word) (saved : Bool) (k : Nat) : Bool :=
  (c.partCores p).contains k && ofClass (pClass w) k && (saved || !pNamed w || k == pCore w)

/-- The room that core k has for a record (R255); of several runs and slots the lowest are taken (DESIGN CHOICE, log 15). -/
def Chip.fit (c : Chip) (p : Nat) (w : Word) (saved : Bool) (k : Nat) : Option Room :=
  if c.eligible p w saved k && decide (pAcc w ≤ (c.freeSlots k).length) then
    match c.freeContexts p k, freeRuns (scratchSize k) (winBytes w) (c.runsUsed k) with
    | x :: _, b :: _ => some { ctx := x, win := b, slots := (c.freeSlots k).take (pAcc w) }
    | _, _ => none
  else none

/-! ### Starting and ending a thread (R31, R251) -/

/-- Bytes lo to lo + n − 1 hold zero. -/
def Memory.clear (m : Memory) (lo n : Nat) : Memory := m.filter fun e => decide (e.1 < lo) || decide (lo + n ≤ e.1)

/-- Slots that a task takes hold zeros with no WIDE tag. -/
def Core.clearSlots (k : Core) (ss : List Nat) : Core :=
  { k with
    acc := k.acc.filter fun e => !ss.contains (e.1 / 16384)
    wide := k.wide.filter fun x => !ss.contains x }

/-- The named registers at task start: n1 onward as passed (R31). -/
def startNamed (args : List Word) : Vector Word 16 :=
  Vector.ofFn fun i => if i.val = 0 then 0 else args.getD (i.val - 1) 0

/-- The thread of a record at task start (R31). -/
def Record.thread (r : Record) (room : Room) (tick : Nat) : Thread := { Thread.empty with
  live := true, part := r.part, graph := r.graph, index := r.index, prio := pPrio r.place, asid := r.asid,
  place := r.place, pc := r.entry, named := startNamed r.args, fflags := BitVec.ofNat 8 (32 * r.modes.frm.toNat),
  vrm := r.modes.vrm, ladder := r.modes.ladder, budget := r.modes.budget, alpha := r.modes.alpha,
  winBase := room.win, winSize := winBytes r.place, slots := room.slots, readySince := tick, placedAt := tick,
  pureTask := r.pureTask, pagerOf := r.pagerOf }

/-- The save record that a thread holds at its PPT goes back to the pool (R326, R327). -/
def Chip.dropSave (c : Chip) (p : Nat) (park : Park) : Chip :=
  match park with
  | .saving _ _ n _ => (c.modPart p fun q => { q with saves := Table.erase q.saves n }).areaHeader p
  | _ => c

/-- The pending pre-emption of thread t is withdrawn, unless its save has begun (R326). -/
def Chip.unmarkThread (c : Chip) (t : Nat) : Chip :=
  let th := c.thread t
  match th.park with
  | .saving _ _ _ true => c
  | .saving .. => (c.dropSave th.part th.park).modThread t fun th => { th with marked := none, park := .run }
  | _ => c.modThread t fun th => { th with marked := none }

/-- A pre-emption asked for a record that has left the queue is withdrawn, unless the save has begun (R326). -/
def Chip.unmark (c : Chip) (rid : Nat) : Chip :=
  ((c.threads.filter fun e => e.2.marked == some (rid + 1)).map (·.1)).foldl Chip.unmarkThread c

/-- A record leaves the queues. -/
def Chip.dropRecord (c : Chip) (rid : Nat) : Chip :=
  Chip.unmark { c with records := c.records.filter fun r => r.id != rid } rid

/-- A task starts on core k; the accesses that the fork edge, a release, a launch or a save puts before its own come before them
(R260, R263, R283, R331, R353): while accesses of its spawner are still to be performed, it issues nothing. (DEDUCED, log 21) -/
def Chip.begin (c : Chip) (r : Record) (k : Nat) (room : Room) (f : Thread → Thread) : Chip :=
  let open_ := r.waits.filter fun i => (c.op? i).isSome
  let c := (c.dropRecord r.id).releaseWide.acquire k .domain
  let c := c.modCore k fun q => { q.clearSlots room.slots with
    scratch := (q.scratch.clear room.win (winBytes r.place)).setBytes room.win r.block }
  c.modThread (16 * k + room.ctx) fun _ =>
    let th := f (r.thread room c.tick)
    if open_.isEmpty then th else { th with park := .forked open_ }

/-- The context, the window and the slots of thread t return to its core (R251, R273). -/
def Chip.vacate (c : Chip) (t : Nat) : Chip :=
  let c := match (c.thread t).gang with
    | none => c
    | some g =>
      let gs := c.gangs.map fun (x : Gang) => if x.id = g then { x with running := x.running - 1 } else x
      { c with gangs := gs.filter fun x => !(x.id == g && x.running == 0) }
  c.modThread t fun _ => Thread.empty

/-! ### Ready pools (R254) -/

/-- The records of a partition that may be placed now: the hold of PQUI (R337). -/
def Chip.placeable (c : Chip) (p : Nat) (r : Record) : Bool :=
  r.part == p && ((c.part p).state == .running || r.pagerOf.isSome)

/-- The records of a pool and priority, from its head. (DEDUCED, log 25) -/
def Chip.queued (c : Chip) (p : Nat) (pool : Pool) (prio : Nat) : List Record :=
  c.records.filter fun r => c.placeable p r && r.pool == pool && pPrio r.place == prio

/-- The other cores of a die, those of the group of k first. (DEDUCED, log 25) -/
def neighbours (k : Nat) : List Nat :=
  let die := ((List.range 64).map (64 * dieOf k + ·)).filter fun j => isCore j && j != k
  (die.filter fun j => groupOf j == groupOf k) ++ die.filter fun j => groupOf j != groupOf k

/-- The records that core k may take, in the order of R254; saved tasks of other dies after its die's pool (R298, R329). (DEDUCED,
log 25) -/
def Chip.sources (c : Chip) (p k : Nat) : List Record :=
  ((List.range 4).flatMap fun i => c.queued p (.deque k) i) ++
  ((List.range 4).flatMap fun i => c.queued p (.die (dieOf k)) i) ++
  ((List.range 4).flatMap fun i => (((List.range 8).filter (· != dieOf k)).flatMap fun d => c.queued p (.die d) i).filter fun r => r.saved.isSome) ++
  ((List.range 4).flatMap fun i => (neighbours k).flatMap fun j =>
    ((c.queued p (.deque j) i).filter fun r => !pNamed r.place).reverse)

/-- Core k takes the first record that fits, until none does; a saved task waits for its restore (R254, R255, R329).
(DEDUCED, log 25) -/
def Chip.fillCore (c : Chip) (p k : Nat) : Nat → Chip
  | 0 => c
  | n + 1 =>
    match (c.sources p k).findSome? fun r => (c.fit p r.place r.saved.isSome k).map fun room => (r, room) with
    | none => c
    | some (r, room) => if r.saved.isSome then c else (c.begin r k room id).fillCore p k n

/-- The cores of a partition take what fits, core k first. (DESIGN CHOICE, log 89) -/
def Chip.fill (c : Chip) (p k : Nat) : Chip :=
  let cs := c.partCores p
  ((if cs.contains k then [k] else []) ++ cs.filter (· != k)).foldl (fun c j => c.fillCore p j 16) c

/-- The dies of a partition with cores of a class. -/
def Chip.diesOf (c : Chip) (p cls : Nat) : List Nat :=
  (List.range 8).filter fun d => (c.partCores p).any fun k => dieOf k == d && ofClass cls k

/-- Records queued and tasks running on a die; the supervisor and the handler are no tasks (R251). -/
def Chip.load (c : Chip) (d : Nat) : Nat :=
  (c.records.filter fun r => match r.pool with
    | .deque k => dieOf k == d
    | .die e => e == d
    | _ => false).length + (c.threads.filter fun e => e.2.live && e.2.graph != 0 && dieOf (coreOf e.1) == d).length

/-- The die of a class with the least load; the lowest number wins a tie (R254). -/
def Chip.leastDie (c : Chip) (p cls : Nat) : Nat :=
  let ds := c.diesOf p cls
  (ds.find? fun d => ds.all fun e => decide (c.load d ≤ c.load e)).getD 0

/-- Where a new record goes: its named core, another class's die, its core's deque, or its die's pool (R254). core: the
spawning core, none for a record that a die scheduler forms. -/
def Chip.poolFor (c : Chip) (p : Nat) (w : Word) (die : Nat) (core : Option Nat) : Pool :=
  let deque := fun k => if 64 ≤ (c.records.filter fun r => r.pool == .deque k && pPrio r.place == pPrio w).length
    then Pool.die (dieOf k) else .deque k
  if pNamed w then deque (pCore w)
  else if ofClass (pClass w) (64 * die) && (c.diesOf p 0).contains die then
    match core with
    | some k => deque k
    | none => .die die
  else .die (c.leastDie p (pClass w))

/-- A record joins its pool, and cores take what fits. -/
def Chip.enqueue (c : Chip) (r : Record) (core : Option Nat) : Chip :=
  let c := { c with records := c.records ++ [{ r with pool := c.poolFor r.part r.place r.home core }] }
  c.fill r.part (core.getD (64 * r.home))

/-! ### Gangs (R257) -/

/-- Core k has a context and a run for a first member of a gang on one core, with the run and the slots that its members share, and
as many contexts and runs more as this. (DESIGN CHOICE, log 15) -/
def Chip.firstOfOne (c : Chip) (g : Gang) (more k : Nat) : Option Gang :=
  let xs := c.freeContexts g.part k
  let bs := freeRuns (scratchSize k) (winBytes g.place) (c.runsUsed k)
  let ss := (c.freeSlots k).take (pAcc g.place)
  if c.eligible g.part g.place false k && oneFits g.place k && decide (more < xs.length) && decide (more + 1 < bs.length)
      && ss.length == pAcc g.place then
    some { g with core := k, gangBase := bs.headD 0, slots := ss, reserved := [(k, xs.headD 0, bs.getD 1 0, [])] }
  else none

/-- Reserve the next member of a gang. The first of a gang on one core chooses the core: one with room for all of it now, else one with
room for a member. (DESIGN CHOICE, log 15) -/
def Chip.reserveNext (c : Chip) (g : Gang) : Option Gang :=
  if g.one then
    if g.reserved.isEmpty then
      ((c.partCores g.part).findSome? (c.firstOfOne g (g.size - 1))).or ((c.partCores g.part).findSome? (c.firstOfOne g 0))
    else
      match c.freeContexts g.part g.core, freeRuns (scratchSize g.core) (winBytes g.place) (c.runsUsed g.core) with
      | x :: _, b :: _ => some { g with reserved := g.reserved ++ [(g.core, x, b, [])] }
      | _, _ => none
  else
    (c.partCores g.part).findSome? fun k =>
      (c.fit g.part g.place false k).map fun room =>
        { g with reserved := g.reserved ++ [(k, room.ctx, room.win, room.slots)] }

/-- The gangs with gang g changed. -/
def Chip.setGang (c : Chip) (g : Gang) : Chip := { c with gangs := c.gangs.map fun x => if x.id = g.id then g else x }

/-- A younger gang releases every reservation it holds and goes to the head of its priority's queue (R257). -/
def Chip.loseGang (c : Chip) (y : Gang) : Chip :=
  let y := { y with reserved := [], slots := [] }
  let others := c.gangs.filter fun x => x.id != y.id
  let same := fun (x : Gang) => pPrio x.place == pPrio y.place && x.part == y.part
  { c with gangs := others.takeWhile (fun x => !same x) ++ y :: others.dropWhile fun x => !same x }

/-- Of these gangs, the ones whose resources gang g cannot do without: each in turn keeps its reservations if those of the others are
enough. (DEDUCED, log 25) -/
def Chip.contested (c : Chip) (g : Gang) : List Gang → List Gang → List Gang
  | kept, [] => kept
  | kept, y :: ys =>
    if (((kept ++ ys).foldl Chip.loseGang c).reserveNext g).isSome then c.contested g kept ys else c.contested g (kept ++ [y]) ys

/-- Every member starts in the same step. -/
def Chip.commitGang (c : Chip) (g : Gang) : Chip :=
  let rs := c.records.filter fun r => r.pool == .gang g.id
  let c := if g.one then
      (c.modCore g.core fun q => { q.clearSlots g.slots with scratch := q.scratch.clear g.gangBase (winBytes g.place) }).setGang
        { g with reserved := [], running := g.size }
    else { c with gangs := c.gangs.filter fun x => x.id != g.id }
  (rs.zip g.reserved).foldl (fun c (r, m) =>
    if g.one then c.begin r m.1 { ctx := m.2.1, win := m.2.2.1, slots := [] } fun t =>
      { t with slots := g.slots, gang := some g.id, gangBase := g.gangBase, gangSize := winBytes g.place }
    else c.begin r m.1 { ctx := m.2.1, win := m.2.2.1, slots := m.2.2.2 } id) c

/-- The graph of an id. -/
def Chip.graph? (c : Chip) (p id : Nat) : Option Graph := c.graphs.find? fun g => g.part == p && g.id == id && !g.refused

/-- A gang may reserve: its graph is released and the partition is not held. -/
def Chip.gangMay (c : Chip) (g : Gang) : Bool :=
  g.running == 0 && (c.part g.part).state == .running &&
  (c.records.filter fun r => r.pool == .gang g.id).all fun r =>
    ((c.graph? r.part r.graph).map Graph.released).getD false

/-- A gang takes what it found; a complete one commits. -/
def Chip.takeGang (c : Chip) (g : Gang) : Chip := if g.reserved.length = g.size then (c.setGang g).commitGang g else c.setGang g

/-- Gang y needs the resource that makes c into c' (R257): it has room in c, and none in c'. -/
def Chip.contests (c c' : Chip) (y : Gang) : Bool := c.gangMay y && (c.reserveNext y).isSome && (c'.reserveNext y).isNone

/-- No gang stands before g, of a higher priority or earlier in its own queue, that could reserve now (R257). (DEDUCED, log 25) -/
def Chip.gangTurn (c : Chip) (g : Gang) : Bool :=
  !(c.gangs.any fun y => y.part == g.part && decide (pPrio y.place < pPrio g.place) && c.gangMay y && (c.reserveNext y).isSome) &&
  !((c.gangs.takeWhile fun y => y.id != g.id).any fun y =>
      y.part == g.part && pPrio y.place == pPrio g.place && c.gangMay y && (c.reserveNext y).isSome)

/-- The gangs of g's partition that hold reservations and are younger, the oldest first. -/
def Chip.youngerGangs (c : Chip) (g : Gang) : List Gang :=
  (c.gangs.filter fun y => y.part == g.part && decide (g.seq < y.seq) && y.running == 0 && !y.reserved.isEmpty).mergeSort
    fun x y => decide (x.seq ≤ y.seq)

/-- One step of reserving, with the commit of a complete gang. A free resource that an older gang needs too goes to the older;
one that only younger gangs hold is given up by them (R257), and cores take what then fits (R254). (DEDUCED, log 25) -/
def Chip.gangStep (c : Chip) (gid : Nat) : Chip :=
  match c.gangs.find? fun g => g.id == gid with
  | none => c
  | some g =>
    if !c.gangMay g || !c.gangTurn g then c
    else match c.reserveNext g with
      | some g' =>
        let c' := c.setGang g'
        match c.gangs.find? fun o => o.part == g.part && decide (o.seq < g.seq) && c.contests c' o with
        | some o =>
          let c := c.loseGang g
          (match c.reserveNext o with
            | some o' => c.takeGang o'
            | none => c).fill g.part 0
        | none =>
          let ys := c.gangs.filter fun y => y.part == g.part && decide (g.seq < y.seq) && c.contests c' y
          if ys.isEmpty then c'.takeGang g' else ((ys.foldl Chip.loseGang c').takeGang g').fill g.part 0
      | none =>
        let ys := c.youngerGangs g
        if ((ys.foldl Chip.loseGang c).reserveNext g).isNone then c
        else
          let c := (c.contested g [] ys).reverse.foldl Chip.loseGang c
          (match c.reserveNext g with
            | some g' => c.takeGang g'
            | none => c).fill g.part 0

/-- A gang takes what is free at once. -/
def Chip.gangRun (c : Chip) (gid : Nat) : Nat → Chip
  | 0 => c
  | n + 1 => (c.gangStep gid).gangRun gid n

/-! ### Forming graphs (R251, R262 to R264) -/

/-- A status word write is owed (R264). -/
def Chip.oweStatus (c : Chip) (g : Graph) (st cause : Nat) : Chip :=
  if g.status = 0 then c
  else
    let x : OwedStatus := { id := c.nextId, part := g.part, asid := g.asid, va := g.status, graph := g.id, entry := g.entry,
                            value := BitVec.ofNat 64 (st * 2 ^ 60 + cause * 2 ^ 52 + if st = 4 then 0 else g.id),
                            waiting := false, failed := false }
    { c with owedStatus := c.owedStatus ++ [x], nextId := c.nextId + 1 }

/-- The graph with these fields changed. -/
def Chip.modGraph (c : Chip) (p id : Nat) (f : Graph → Graph) : Chip :=
  { c with graphs := c.graphs.map fun g => if g.part = p ∧ g.id = id then f g else g }

/-- The next graph id: never 0 (R251). -/
def nextGraphId (g : BitVec 32) : BitVec 32 := if g + 1 = 0 then 1 else g + 1

/-- A record of a graph's root task. -/
def rootRecord (id p graph index : Nat) (place entry : Word) (args : List Word) (asid : BitVec 16) (home : Nat) (pager : Option Nat) :
    Record :=
  { id := id, part := p, graph := graph, index := index, place := place, entry := entry, args := args,
    modes := .initial, asid := asid, pool := .blocked, block := [], pureTask := none, pagerOf := pager, saved := none,
    requested := false, home := home, waits := [] }

/-- A gang that holds nothing yet. -/
def newGang (id p seq n : Nat) (place : Word) : Gang :=
  { id := id, part := p, seq := seq, one := pOne place, size := n, place := place, reserved := [], gangBase := 0,
    slots := [], core := 0, running := 0 }

/-- What a graph is formed from. -/
structure Form where
  part : Nat
  entry : Word
  place : Word
  args : List Word
  asid : BitVec 16
  status : Word
  pred : Option Nat
  slot : Option Nat
  pager : Option Nat
  home : Nat
  /-- It is not released yet. -/
  blocked : Bool
  /-- The core whose freed context its task takes (R268). -/
  core : Option Nat := none

/-- A graph takes the partition's next id (R251). -/
def Partition.takeGraphId (q : Partition) : Partition :=
  { q with nextGraph := nextGraphId q.nextGraph, wrapped := q.wrapped || decide (q.nextGraph + 1 = 0) }

/-- Form a graph with its root tasks; its id is the partition's next. -/
def Chip.formGraph (c : Chip) (f : Form) : Chip :=
  let gid := (c.part f.part).nextGraph
  let n := max 1 (pGang f.place)
  let g : Graph := { part := f.part, id := gid.toNat, next := n,
                     tasks := (List.range n).map fun i => { idx := i, triggered := false, quit := false },
                     released := !f.blocked, ended := none, status := f.status, entry := f.entry, asid := f.asid,
                     pred := f.pred, slot := f.slot, refused := false }
  let rs := (List.range n).map fun i => rootRecord (c.nextId + i) f.part gid.toNat i f.place f.entry f.args f.asid f.home f.pager
  let c := { (c.modPart f.part Partition.takeGraphId) with
             graphs := c.graphs ++ [g], nextId := c.nextId + n + 1 }
  let c := c.oweStatus g 1 0
  if pGang f.place = 0 then
    match rs with
    | r :: _ =>
      if f.blocked then { c with records := c.records ++ [r] }
      else match f.core.bind fun k => (c.fit f.part f.place false k).map fun room => (k, room) with
      | some (k, room) => (Chip.begin { c with records := c.records ++ [r] } r k room id).fill f.part k
      | none => c.enqueue r none
    | [] => c
  else
    let gang := newGang (c.nextId - 1) f.part (c.part f.part).gangSeq n f.place
    let rs := rs.map fun r => { r with pool := .gang gang.id }
    let c := c.modPart f.part fun q => { q with gangSeq := q.gangSeq + 1 }
    let c := { c with gangs := c.gangs ++ [gang], records := c.records ++ rs }
    if f.blocked then c else c.gangRun gang.id n

/-! ### The time-triggered table (R266 to R268) -/

/-- A slot of a partition changed. -/
def Chip.modSlot (c : Chip) (p n : Nat) (f : TSlot → TSlot) : Chip :=
  match Table.get? (c.part p).tslots n with
  | some x => c.modPart p fun q => { q with tslots := Table.put q.tslots n (f x) }
  | none => c

/-- SKIPS or DROPS of a slot rises; the counts stand in the table, on another device it may be (R267). (DESIGN CHOICE, log 16) -/
def Chip.countSlot (c : Chip) (p n : Nat) (drops : Bool) (k : Nat) : Chip :=
  if k = 0 then c
  else c.unitRun { part := p, asid := (c.part p).slotAsid, job := .count (slotVa (c.part p).slottab n + if drops then 0x34 else 0x30) k }

/-- Start k of a slot is made (R267), its task first on this core if one is named; a start that R253 refuses counts DROPS (R268), as
does one whose placement word R252 refuses (DESIGN CHOICE, log 66). (DESIGN CHOICE, log 91) -/
def Chip.makeStart (c : Chip) (p n k : Nat) (core : Option Nat := none) : Chip :=
  match Table.get? (c.part p).tslots n with
  | none => c
  | some x =>
    if placeBad x.place || (c.placeCause p x.place false).isSome then (c.modSlot p n fun x => { x with pending := none }).countSlot p n true 1
    else
      let gid := (c.part p).nextGraph.toNat
      let t := x.start + BitVec.ofNat 64 k * x.period
      let c := c.modSlot p n fun x => { x with running := gid :: x.running, pending := none }
      let f : Form := { part := p, entry := x.entry, place := x.place,
                        args := [x.arg, BitVec.ofNat 64 n, BitVec.ofNat 64 k, t], asid := (c.part p).slotAsid, status := 0,
                        pred := none, slot := some n, pager := none, home := (c.diesOf p (pClass x.place)).headD 0,
                        blocked := false, core := core }
      c.formGraph f

/-- The thread's save has begun. -/
def Thread.isSaving (t : Thread) : Bool := match t.park with
  | .saving _ _ _ true => true
  | _ => false

/-! ### Progress tokens (R306) -/

/-- The progress token: bytes completed, in units of 4,096 (R306, R366). -/
def CopyCmd.token (cmd : CopyCmd) : Word := BitVec.ofNat 64 (4096 * cmd.done)

/-- The progress token of an operation (R306). -/
def OpBody.token : OpBody → Word
  | .mmul m att => mulToken m att
  | .copy cmd => cmd.token
  | .gather _ _ bs => BitVec.ofNat 64 (bs.length / 4096 * 4096)
  | .tileMem _ _ n => BitVec.ofNat 64 (n / 4096 * 4096)
  | .vget _ _ sp lanes done => laneToken sp lanes done
  | .vput _ sp lanes _ done => laneToken sp lanes done
  | _ => 0

/-! ### Completion and release (R259, R260) -/

/-- Every task of the graph is triggered. -/
def Graph.allTriggered (g : Graph) : Bool := g.tasks.all TaskInfo.triggered

/-- A predecessor lets its dependants go: it has no untriggered task, or it has completed, as every id has that was given and that no
graph holds (R260); once ids have come round, each has been given (R251). -/
def Chip.predOpen (c : Chip) (p id : Nat) : Bool :=
  match c.graph? p id with
  | some g => g.ended.isNone && g.allTriggered
  | none => ((c.part p).wrapped || decide (id < (c.part p).nextGraph.toNat)) && !c.graphs.any fun g => g.part == p && g.id == id && g.refused

/-- A released graph's blocked records join their pools, and its gang reserves. (DEDUCED, log 27) -/
def Chip.unblock (c : Chip) (p id : Nat) : Chip :=
  let c := (c.records.filter fun r => r.part == p && r.graph == id && r.pool == .blocked).foldl (fun c r =>
    Chip.enqueue { c with records := c.records.filter fun q => q.id != r.id } r none) c
  (c.records.filterMap fun r => match r.pool with
    | .gang g => if r.part = p ∧ r.graph = id then some g else none
    | _ => none).dedup.foldl (fun c g => c.gangRun g 64) c

/-- Dependants of an open predecessor are released; a release latches (R260). -/
def Chip.releaseAfter (c : Chip) (p id : Nat) : Chip :=
  if c.predOpen p id then
    (c.graphs.filter fun d => d.part == p && d.pred == some id && !d.released && !d.refused).foldl (fun c d =>
      (c.modGraph p d.id fun g => { g with released := true }).unblock p d.id) c
  else c

/-- The trap of a fetch. -/
def fetchTrap (id : Nat) (pc va : Word) (cause : Cause) : TrapRec :=
  { id := id, cause := cause, code := 0, eng := false, pc := pc, insn := 0, opA := 0, opB := 0, addr := va, token := 0,
    pushes := false, named := none, ends := false, op := none, seq := 0, req := none }

/-- A pager's graph is over: the operations joined to its record raise PAGE_FAULT and the slot is free (R325). -/
def Chip.pagerOver (c : Chip) (p gid : Nat) : Chip :=
  (((c.part p).faults.filter fun f => f.started && f.graph == gid)).foldl (fun c f =>
    let hit := fun (w : FaultWait) => decide (f.page.toNat ≤ w.va.toNat) && decide (w.va.toNat < f.page.toNat + f.size)
    let ops := c.ops.filter fun o => o.part == p && o.asid == f.asid && (o.fault.map hit).getD false
    let c := ops.foldl (fun c o => c.refuse o .pageFault ((o.fault.map FaultWait.va).getD 0) o.body.token) c
    let c : Chip := { c with threads := c.threads.map fun (e : Nat × Thread) =>
      match e.2.park with
      | .fetch w =>
        if e.2.part = p ∧ e.2.asid = f.asid ∧ hit w then
          (e.1, { e.2 with park := .run, stopped := true, owed := oweTrap (fetchTrap c.nextId e.2.pc w.va .pageFault) e.2.owed })
        else e
      | _ => e }
    let c : Chip := { c with owedStatus := c.owedStatus.map fun (x : OwedStatus) =>
      if x.part = p ∧ x.asid = f.asid ∧ x.waiting ∧ hit { va := x.va, write := true, fetch := false }
      then { x with waiting := false, failed := true } else x }
    { (c.modPart p fun q => { q with faults := q.faults.filter fun x => x.rid != f.rid }) with nextId := c.nextId + 1 }) c

/-- The graph is over with this state word: its status is owed, its dependants go, its slot is free. (DEDUCED, log 27) -/
def Chip.closeGraph (c : Chip) (g : Graph) (st cause : Nat) : Chip :=
  let c := { c with graphs := c.graphs.filter fun x => !(x.part == g.part && x.id == g.id) }
  let c := (c.oweStatus g st cause).pagerOver g.part g.id
  match g.slot with
  | none => c
  | some n =>
    match Table.get? (c.part g.part).tslots n with
    | none => c
    | some x =>
      if !x.running.contains g.id then c
      else
        let c := c.modSlot g.part n fun x => { x with running := x.running.filter (· != g.id) }
        match x.pending with
        | some k => if x.running.head? = some g.id then (c.modSlot g.part n fun x => { x with pending := none }).makeStart g.part n k else c
        | none => c

/-- Every task of the graph has quit: it completes (R259, R264). -/
def Chip.maybeComplete (c : Chip) (p id : Nat) : Chip :=
  match c.graph? p id with
  | none => c
  | some g => if g.tasks.all TaskInfo.quit && g.ended.isNone then (c.closeGraph g 2 0).releaseAfter p id else c

/-- A task is triggered (R260): its accesses come before those of the dependants that it releases (R353). -/
def Chip.trigger (c : Chip) (p gid idx : Nat) : Chip :=
  (c.releaseWide.modGraph p gid fun g => { g with tasks := g.tasks.map fun t => if t.idx = idx then { t with triggered := true } else t })
    |>.releaseAfter p gid

/-- A task has quit, which triggers it too (R259, R260): its accesses come before those after a JOIN of it (R353). -/
def Chip.taskQuit (c : Chip) (p gid idx : Nat) : Chip :=
  ((c.releaseWide.modGraph p gid fun g => { g with tasks := g.tasks.map fun t =>
      if t.idx = idx then { t with triggered := true, quit := true } else t }).releaseAfter p gid).maybeComplete p gid

/-- A new task of a graph at an index. -/
def Chip.addTask (c : Chip) (p gid idx next : Nat) : Chip :=
  c.modGraph p gid fun g => { g with next := next, tasks := g.tasks ++ [{ idx := idx, triggered := false, quit := false }] }

/-! ### Launch (R262, R263, R406) -/

/-- One row of a launch tile as its eight words. (DEDUCED, log 26) -/
def launchRow (bs : List Byte) (i : Nat) : List Word :=
  (List.range 8).map fun j => wordOfBytes64 ((bs.drop (64 * i + 8 * j)).take 8)

/-- The scheduler takes up one record (R263). (DEDUCED, log 26) -/
def Chip.launchRecord (c : Chip) (p die : Nat) (asid : BitVec 16) (ws : List Word) : Chip :=
  let entry := ws.getD 0 0
  let place := ws.getD 1 0
  let gf := ws.getD 2 0
  let status := ws.getD 7 0
  let pred := if gf.getLsbD 32 then some (fld gf 0 32) else none
  let refused := fun (cause : Cause) =>
    c.oweStatus { part := p, id := 0, next := 0, tasks := [], released := false, ended := none, status := status,
                  entry := entry, asid := asid, pred := none, slot := none, refused := true } 4 cause.code
  if entry = 0 then c
  else if entry.toNat % 4 != 0 || placeBad place || fld gf 33 31 != 0 || status.toNat % 8 != 0 then refused .illegalOperand
  else
    match c.placeCause p place false with
    | some cause => refused cause
    | none =>
      let bad := pred.bind fun id => (c.graphs.find? fun g => g.part == p && g.id == id && g.refused).bind Graph.ended
      match bad with
      | some cause => refused cause
      | none =>
        let f : Form := { part := p, entry := entry, place := place, args := (ws.drop 3).take 4, asid := asid,
                          status := status, pred := pred, slot := none, pager := none, home := die,
                          blocked := (pred.map fun id => !c.predOpen p id).getD false }
        c.formGraph f

/-- The scheduler goes on with a launch name: it takes up the records of the version it was served, or its load is served once
the partition runs, or it registers its first load (R262, R402). (DEDUCED, log 26) -/
def Chip.launchServed (c : Chip) (p name : Nat) : Chip :=
  if (c.part p).state != .running || decide (15 < name) then c
  else match c.reqs.find? fun r => r.origin == .launch && r.part == p && r.index == name with
    | none => c.armLaunch p name
    | some r =>
      match r.phase with
      | .served x =>
        let bs := c.extentBytes x
        let c := (c.dropReq r.id).dropRef x
        if r.header != launchHeader then c
        else (List.range 8).foldl (fun c i => c.launchRecord p (c.sliceOf p 255 name / 16) r.asid (launchRow bs i)) c
      | .waiter =>
        match c.entry? r.name r.version, (c.space? p 255).filter fun s => s.home != 2 with
        | some e, some s => if e.state = .pending then c else c.atHome s r
        | _, _ => c
      | _ => c

end Sys2Proof.Machine
end

