-- ==== Sys2Proof/Machine/Cellar.lean ====
section
/-!
DEFINITION. The cellar: code digests, task keys, lookup, insertion and removal: R246 to R249, R284 to R297, R384.
-/

namespace Sys2Proof.Machine

/-! ### Removing entries (R291) -/

/-- Entries of the cellar go, with their references. -/
def Chip.dropCellar (c : Chip) (gone : CellarEntry → Bool) : Chip :=
  (c.cellar.filter gone).foldl (fun c e => e.outs.foldl (fun c o => c.dropRef o.2.1) c)
    { c with cellar := c.cellar.filter fun e => !gone e }

/-- CELFL: every entry of the partition and its cached code digests go (R339). -/
def Chip.flushCellar (c : Chip) (p : Nat) : Chip :=
  { c.dropCellar fun e => e.part == p with codeCache := c.codeCache.filter fun e => e.part != p }

/-- A write of ROTATE = 1; ignored while a sweep runs (R295). (DESIGN CHOICE, log 7) -/
def Chip.rotateKey (c : Chip) (p : Nat) : Chip :=
  if (c.part p).celSweep then c
  else
    let c := c.flushCellar p
    { (c.modPart p fun q => { q with keyNo := c.draws, celEpoch := q.celEpoch + 1, sweepLeft := c.slices p }) with draws := c.draws + 1 }

/-- Slice x has digested its PUBLISHED entries of the partition again under the new key (R295); the sweep detects errors in
what it reads (R291). -/
def Chip.sweepSlice (c : Chip) (p x : Nat) : Chip :=
  let mine := fun (e : Entry) => e.part == p && e.state == .published && c.sliceOf p e.space e.index == x
  let bad := (c.entries.filter fun e => mine e && ((Table.get? c.extents e.extent).map Extent.bad).getD false).map Entry.extent
  let es := c.entries.map fun e => if mine e then { e with digest := c.tileDigest p e.header (c.extentBytes e.extent) } else e
  Chip.modPart { bad.dedup.foldl Chip.detect c with entries := es } p fun q => { q with sweepLeft := q.sweepLeft.filter (· != x) }

/-- Some slices finish (R295): one of those left, or with it all of them (DESIGN CHOICE, log 4). -/
def Chip.sweepDone (c : Chip) (p : Nat) : Chip :=
  let left := (c.part p).sweepLeft
  let k := Config.pick c.draws % max 1 left.length
  let some_ := if Config.coin c.draws then left else (left[k]?).toList
  some_.foldl (fun c x => c.sweepSlice p x) { c with draws := c.draws + 1 }

/-! ### The code digest (R286, R384) -/

/-- The address of the entry whose LEAF is set, on the walk of va. -/
def leafAddr (m : Memory) (va : Word) : List Nat → Nat → Option Nat
  | [], _ => none
  | level :: rest, a =>
    let e := m.word a
    if !e.getLsbD 0 then none
    else if e.getLsbD 7 then some a
    else leafAddr m va rest (pteFrame e + 8 * tableIndex va (level + 1))

/-- The byte of the leaf entry of va that holds DIG. -/
def Chip.digKey (c : Chip) (p : Nat) (asid : BitVec 16) (va : Word) : List Nat :=
  ((Table.get? (c.part p).asids asid.toNat).bind fun a =>
    leafAddr c.mem va [0, 1, 2, 3] (rootEntry a.root va)).toList.map (· + 1)

/-- The first byte of a frame of a class and a device. (DEDUCED, log 64) -/
def frameKey (cls dev pa : Nat) : Nat := if cls = 3 then (farKeys dev pa 1).headD 0 else memKey cls pa

/-- The walker sets DIG in the leaf entry of va by an atomic OR at its home, and every granule of the frame that the translation
named is marked, here for a frame of another device too (R286, R384). (DEDUCED, log 64) -/
def Chip.setDig (c : Chip) (o : Op) (va : Word) : Chip :=
  let x := c.translate (coreOf o.tid) o.part o.asid o.level .fetch va
  let c := (c.digKey o.part o.asid va).foldl (fun c x => c.perform .unit [x] [c.mem.byte x ||| 1]) c
  match x with
  | .ok cls dev _ page _ =>
    let m := (o.part, frameKey cls dev page.1 / 65536, page.2 / 65536)
    { c with marks := if c.marks.contains m then c.marks else m :: c.marks }
  | _ => c

/-- The request of this tag to a peer has not been answered. (DEDUCED, log 64) -/
def Chip.unanswered (c : Chip) (tag : Nat) : Bool :=
  match c.op? (tag / 8192) with
  | some o => o.asked && (Table.get? o.replies (tag % 8192)).isNone
  | none => (Table.get? c.unitAsks (tag / 8192)).isSome

/-- A write of this package to the frame on another device that holds va may still be performed there: it left before the frame is
marked, so its code is not read yet (R286). (DEDUCED, log 64) -/
def Chip.farWrites (c : Chip) (o : Op) (va : Word) : Bool :=
  match c.translate (coreOf o.tid) o.part o.asid o.level .fetch va with
  | .ok 3 dev _ page _ => c.sent.any fun m => m.tag.any c.unanswered &&
      m.writes.any fun a => decide (frameKey 3 dev page.1 ≤ a) && decide (a < frameKey 3 dev page.1 + page.2)
  | _ => false

/-- A code digest, or why there is none yet. -/
inductive CodeDigest
  | known (d : Digest) (c : Chip)
  | stay (c : Chip)

/-- The bytes of pieces, on other devices as they answered. -/
def Chip.gatherPieces (c : Chip) (o : Op) (ps : List Piece) : List Byte :=
  ps.zipIdx.flatMap fun (x, i) => match x with
    | .here ks _ => ks.map c.mem.byte
    | .there .. => (Table.get? o.replies i).getD []

/-- The code in these pieces is read, digested, and its digest cached on the die (R286). (DEDUCED, log 64) -/
def Chip.readDigest (c : Chip) (o : Op) (entry : Word) (len : Nat) (ps : List Piece) : CodeDigest :=
  let die := dieOf (coreOf o.tid)
  let keys := hereKeys ps
  if c.portDown keys then .stay (c.refuseUnit o .linkLost entry 0)
  else if c.poisoned keys then .stay (c.refuseUnit o .memUncorrectable entry 0)
  else if c.hostHolds keys true then .stay (c.snoop keys false)
  else
    let c := ((c.wakeFor o.part keys).fetchHost keys).touchCode (coreOf o.tid) keys
    let v := digestOf (c.key o.part) (tagHeader 2 len) (c.gatherPieces o ps)
    let e : CodeEntry := { die := die, part := o.part, asid := o.asid, entry := entry, len := len, gen := (c.part o.part).codeGen, digest := v }
    .known v { c with
      codeCache := e :: (c.codeCache.filter fun x => x.die == die).take 63 ++ c.codeCache.filter fun x => x.die != die }

/-- The code digest of a pure entry record under a thread's instruction path (R286): from the die's cache of 64, or from the code,
whose pages are marked first; asked is the generation at which peers were asked for their share, and if it has risen since they
are asked again. (DEDUCED, log 64) -/
def Chip.codeDigest (c : Chip) (o : Op) (entry : Word) (len : Nat) (asked : Word) : CodeDigest :=
  let gen := (c.part o.part).codeGen
  match c.codeCache.find? fun e => e.die == dieOf (coreOf o.tid) && e.part == o.part && e.asid == o.asid && e.entry == entry && e.len == len && e.gen == gen with
  | some e => .known e.digest c
  | none =>
    match o.moving with
    | some m =>
      if !answered o m.ps then .stay c
      else if asked != gen then .stay (c.modOp o.id fun q => { q with moving := none, asked := false, replies := [] })
      else c.readDigest o entry len m.ps
    | none =>
      match c.askTables o [(entry, len)] with
      | some c => .stay c
      | none =>
      let c := c.walked (coreOf o.tid) o.part o.asid [(entry, len)]
      match c.runs o .fetch (cutRun (entry, len)) with
      | .fault w => .stay (c.waitPage o w)
      | .refuse cause va => .stay (c.refuse o cause va 0)
      | .ok ps =>
        let digs := (cutRun (entry, len)).flatMap fun r => c.digKey o.part o.asid r.1
        if (cutRun (entry, len)).any fun r => c.farWrites o r.1 then .stay c
        else if c.hostHolds digs false then .stay (c.snoop digs true)
        else
          let c := (cutRun (entry, len)).foldl (fun c r => c.setDig o r.1) c
          if answered o ps then c.readDigest o entry len ps
          else
            let c := c.ask o entry 0 (askPieces o ps fun _ pa n => .read pa n)
            .stay (Chip.modSpawnp (c.modOp o.id fun q => { q with moving := some { wr := false, ps := ps, left := [], now := none, buf := [] } }) o.id
              fun s => { s with gen := (c.part o.part).codeGen })

/-! ### The key (R287) -/

/-- Word 0x00 of the argument block with its reserved bits zero. -/
def countsWord (s : SpawnpCmd) : Nat := s.args.length + 16 * s.scal.length + 256 * s.outs.length

/-- The message of a task key. -/
def keyMessage (s : SpawnpCmd) (code : Digest) (gen : Word) : List Byte :=
  bytesOfNat 16 code.toNat ++ bytesOfNat 8 gen.toNat ++ bytesOfNat 8 (countsWord s) ++
  (List.range s.args.length).flatMap (fun k => bytesOfNat 16 ((Table.get? s.digests k).getD 0).toNat) ++
  s.scal.flatMap (fun w => bytesOfNat 8 w.toNat) ++
  s.outs.flatMap (fun h => bytesOfNat 8 ((hHeader h).toNat * 2 ^ 52)) ++
  bytesOfNat 8 s.modes.ladder.toNat ++ bytesOfNat 8 s.modes.budget.toNat ++ bytesOfNat 8 s.modes.alpha.toNat ++
  bytesOfNat 8 (s.modes.vrm.toNat + 256 * s.modes.frm.toNat)

/-- The home of a key: slice and set (R288; DESIGN CHOICE, log 6). -/
def Chip.cellarHome (c : Chip) (p : Nat) (key : Digest) : Nat × Nat :=
  (chooseSlice (c.slices p) key.toNat, Config.homeHash (key.toNat / 2 ^ 64) % 128)

/-! ### Lookup (R246) -/

/-- The pure task of a miss. -/
def SpawnpCmd.pure (s : SpawnpCmd) (key : Digest) (keyNo : Nat) : PureTask :=
  { strict := s.strict, args := s.args, outs := s.outs, uses := s.uses, key := some key, keyNo := keyNo, violated := false,
    published := [], held := [] }

/-- The record of a miss (R247). -/
def SpawnpCmd.record (s : SpawnpCmd) (o : Op) (id : Nat) (pure_ : PureTask) (waits : List Nat) : Record :=
  { id := id, part := o.part, graph := o.task / 65536, index := s.taskId % 65536, place := s.place, entry := s.entry,
    args := [s.args.headD 0, s.outs.headD 0, BitVec.ofNat 64 (s.uses.headD 0), s.scal.headD 0], modes := s.modes,
    asid := o.asid, pool := .blocked, block := s.block, pureTask := some pure_, pagerOf := none, saved := none,
    requested := false, home := dieOf (coreOf o.tid), waits := waits }

/-- The accesses of o's thread before it that are not performed (R283). -/
def Chip.forkWaits (c : Chip) (o : Op) : List Nat := ((c.earlier o).filter fun q => q.body.accesses).map Op.id

/-- A hit: references on the outputs are taken, and their aliases travel to their homes. An output whose handle has another header
than the version that the cached task published is refused as a TALIAS of it is (R124, R135, R288). (DEDUCED, log 23) -/
def Chip.cellarHit (c : Chip) (o : Op) (s : SpawnpCmd) (e : CellarEntry) : Chip :=
  let all := (s.outs.zip (e.outs.zip s.uses)).zipIdx
  let go := all.filter fun x => hHeader x.1.1 == x.1.2.1.1
  let c := go.foldl (fun c x => c.addRef x.1.2.1.2.1) c
  let rs := go.map fun ((h, x, u), k) => ({
    id := c.nextId + k, part := o.part, space := hSpace h, index := hIndex h, version := hVersion h, header := hHeader h,
    body := .aliasOf x.2.1 u, origin := .hitOutput o.id k, tid := o.tid, graph := o.task / 65536, asid := o.asid,
    phase := .travelling, counted := false, target := h } : Req)
  let c := c.modPart o.part fun q => { q with celHit := q.celHit + 1 }
  let c := { c with
    reqs := c.reqs ++ rs, nextId := c.nextId + all.length
    cellar := c.cellar.map fun x => if x = e then { x with lastHit := c.tick } else x }
  c.modSpawnp o.id fun s => { s with
    hit := true, hits := go.map (·.2)
    failed := (all.find? fun x => hHeader x.1.1 != x.1.2.1.1).map fun x => (.badHandle, x.1.1) }

/-- The digest requests of a SPAWNP's arguments (R246): of those in ks. -/
def Chip.argRequests (c : Chip) (o : Op) (args : List Word) (ks : List Nat) : List Req :=
  ks.zipIdx.map fun (k, i) =>
    let h := args.getD k 0
    ({ id := c.nextId + i, part := o.part, space := hSpace h, index := hIndex h, version := hVersion h, header := hHeader h,
       body := .look .key, origin := .argDigest o.id k, tid := o.tid, graph := o.task / 65536, asid := o.asid, phase := .travelling,
       counted := false, target := h } : Req)

/-- The key was rotated before the lookup: the digests had under the old key are asked for again, and the code is digested
again, so that one key holds digests of one H_t (R285, R287). (DEDUCED, log 65) -/
def Chip.rekey (c : Chip) (o : Op) (s : SpawnpCmd) : Chip :=
  let rs := c.argRequests o s.args (s.digests.map (·.1))
  Chip.modSpawnp { c with reqs := c.reqs ++ rs, nextId := c.nextId + rs.length } o.id fun s =>
    { s with digests := [], code := none, keyNo := (c.part o.part).keyNo }

/-- The code digest and the code generation of a SPAWNP, once they are read (R287). -/
def Chip.readCode (c : Chip) (o : Op) (s : SpawnpCmd) (k : Chip → SpawnpCmd → Chip) : Chip :=
  if s.code.isSome then k c s
  else match c.codeDigest o s.entry s.len s.gen with
    | .stay c => c
    | .known code c =>
      let gen := (c.part o.part).codeGen
      let set := fun (s : SpawnpCmd) => { s with code := some code, gen := gen }
      k ((c.modSpawnp o.id set).modOp o.id fun q => { q with moving := none, asked := false, replies := [] }) (set s)

/-- The lookup of a SPAWNP whose argument digests are there; they were served, and join the accesses before their
publications (R139). (DEDUCED, log 65) -/
def Chip.lookup (c : Chip) (o : Op) (s : SpawnpCmd) : Chip :=
  if s.hit || c.heldByAcquire o then c
  else if s.keyNo != (c.part o.part).keyNo then c.rekey o s
  else c.readCode o s fun c s =>
    if s.digests.length != s.args.length then c
    else
      let c := c.acquire (coreOf o.tid) .domain
      let key := digestOf (c.key o.part) (tagHeader 1 (keyMessage s (s.code.getD 0) s.gen).length) (keyMessage s (s.code.getD 0) s.gen)
      let c := if !(c.slices o.part).isEmpty && c.asleep ((c.cellarHome o.part key).1 / 16) then c.wake ((c.cellarHome o.part key).1 / 16) else c
      match c.cellar.find? fun e => e.part == o.part && e.key == key with
      | some e => c.cellarHit o s e
      | none =>
        let r := s.record o c.nextId (s.pure key s.keyNo) (c.forkWaits o)
        let c := c.modPart o.part fun q => { q with celMiss := q.celMiss + 1 }
        let c := Chip.enqueue { c with nextId := c.nextId + 1 } r (some (coreOf o.tid))
        c.finish o (BitVec.ofNat 64 s.taskId) 0

/-- The outputs of a hit are published, and its task has quit; or one of them is refused, and the task has not (R246,
R259). -/
def Chip.hitOver (c : Chip) (o : Op) (s : SpawnpCmd) : Chip :=
  if s.hit && s.hits.isEmpty then
    match s.failed with
    | none => (c.finish o (BitVec.ofNat 64 (2 ^ 63 + s.taskId)) 0).taskQuit o.part (o.task / 65536) (s.taskId % 65536)
    | some (cause, h) => c.refuse { o with opA := h } cause 0 0
  else c

/-! ### Insertion (R248, R289, R293) -/

/-- The references of a pure task's outputs go. -/
def Chip.dropHeld (c : Chip) (p : PureTask) : Chip := p.held.foldl (fun c x => c.dropRef x.2.1) c

/-- The entry with the oldest last hit; among equals the oldest insertion. -/
def oldest : List CellarEntry → Option CellarEntry
  | [] => none
  | e :: es =>
    match oldest es with
    | none => some e
    | some f => if e.lastHit < f.lastHit ∨ (e.lastHit = f.lastHit ∧ e.inserted ≤ f.inserted) then some e else some f

/-- CEL_EVICT rises. -/
def Chip.countEvict (c : Chip) (p : Nat) : Chip := c.modPart p fun q => { q with celEvict := q.celEvict + 1 }

/-- The entry is put in; its references pass from the task. -/
def Chip.putCellar (c : Chip) (e : CellarEntry) : Chip :=
  Chip.modPart { c with cellar := e :: c.cellar } e.part fun q => { q with celIns := q.celIns + 1 }

/-- A victim leaves for a new entry. -/
def Chip.replaceCellar (c : Chip) (v : Option CellarEntry) (e : CellarEntry) : Chip :=
  match v with
  | none => c.putCellar e
  | some v => ((c.dropCellar (· == v)).countEvict v.part).putCellar e

/-- Insertion under the quota (R293). (DESIGN CHOICE, log 62) -/
def Chip.insertCellar (c : Chip) (p : PureTask) (e : CellarEntry) : Chip :=
  let set := c.cellar.filter fun x => x.slice == e.slice && x.set == e.set
  let own := set.filter fun x => x.part == e.part
  let quota := (c.part e.part).celquota.toNat
  if quota ≤ (c.cellar.filter fun x => x.part == e.part).length then
    if quota = 0 ∨ own = [] then (c.dropHeld p).countEvict e.part else c.replaceCellar (oldest own) e
  else if 8 ≤ set.length then c.replaceCellar (oldest set) e
  else c.putCellar e

/-- The cellar's decision at the QUIT of a pure task (R248, R289): an output published twice is recorded in its latest extent (DESIGN
CHOICE, log 86), and a partition without a slice has no cellar (R12; DESIGN CHOICE, log 62). (DEDUCED, log 36) -/
def Chip.cellarDecide (c : Chip) (part : Nat) (p : PureTask) : Chip :=
  let n := p.outs.length
  match p.key with
  | none => c.dropHeld p
  | some key =>
    if p.violated || p.keyNo != (c.part part).keyNo || !(List.range n).all fun k => p.published.contains k && p.held.any (·.1 == k) then
      (c.dropHeld p).modPart part fun q => { q with celDemote := q.celDemote + 1 }
    else if (c.slices part).isEmpty || c.cellar.any fun e => e.part == part && e.key == key then c.dropHeld p
    else
      let home := c.cellarHome part key
      let outs := (List.range n).filterMap fun k => (p.held.find? (·.1 == k)).map fun x =>
        (x.2.2, x.2.1, c.tileDigest part x.2.2 (c.extentBytes x.2.1))
      c.insertCellar p { part := part, slice := home.1, set := home.2, key := key, outs := outs, inserted := c.tick, lastHit := c.tick }

/-! ### Steps -/

/-- CELLAR_LOOKUP. -/
def execCellarLookup (id : Nat) (s : State) :=
  s.on fun c => match c.op? id with
    | some o => match o.body with
      | .spawnp x => c.lookup o x
      | _ => c
    | none => c

/-- CELKEY_ROTATE, of the partition of the thread that writes. -/
def execCelkeyRotate (s : State) := s.on fun c => c.rotateKey (c.thread c.cur).part

/-- DIGEST_SWEEP_DONE. -/
def execDigestSweepDone (part : Nat) (s : State) := s.on fun c => c.sweepDone part

end Sys2Proof.Machine
end

