-- ==== Sys2Proof/Machine/Copy.lean ====
section
/-!
DEFINITION. The copy engine: R342 to R344, R364 to R374.
-/

namespace Sys2Proof.Machine

/-! ### Registers and checks -/

/-- Reserved bits of copy register k (R343). -/
def cpReserved (k : Nat) (v : Word) : Bool :=
  match k with
  | 0 => fld v 48 16 != 0
  | 1 | 2 => fld v 32 32 != 0
  | 5 => fld v 6 58 != 0 || v.getLsbD 3
  | _ => false

/-- Copy register k written. -/
def Thread.setCp (t : Thread) (k : Nat) (v : Word) : Thread :=
  match k with
  | 0 => { t with cpShape := v }
  | 1 => { t with cpSstride := v }
  | 2 => { t with cpDstride := v }
  | 3 => { t with cpFlag := v }
  | 4 => { t with cpFlagadd := v }
  | _ => { t with cpQueue := v }

/-- CSET (R342). -/
def execCset (sw : Bool) (a b : Src) (s : State) :=
  s.issue fun c => c.issue { sw := sw, pair := [a, b] } fun c =>
    let k := (c.src a).toNat
    if 6 ≤ k || cpReserved k (c.src b) then .trap .illegalOperand 0
    else .done (c.modThread c.cur fun t => t.setCp k (c.src b))

/-- The geometry a command reads at issue; src: it reads the source stride (R343, R364). -/
def Thread.geo (t : Thread) (src : Bool) : CopyGeo :=
  let rb := fld t.cpShape 0 32
  let st := fun (v : Word) => if fld v 0 32 = 0 then rb else fld v 0 32
  { rows := fld t.cpShape 32 16, rowBytes := rb, sstride := if src then st t.cpSstride else 0, dstride := st t.cpDstride,
    flag := t.cpFlag, flagadd := t.cpFlagadd }

/-- Bytes moved (R344). -/
def CopyGeo.total (g : CopyGeo) : Nat := g.rows * g.rowBytes

/-- The rows of a local side at their scratchpad addresses, if each lies in the thread's windows (R73). -/
def Thread.localRows (t : Thread) (la : Word) (g : CopyGeo) (stride : Nat) : Option (List Nat) :=
  (List.range g.rows).mapM fun r => t.localAddr (la + BitVec.ofNat 64 (r * stride)) g.rowBytes

/-- Ranges of rows in the scoreboard. -/
def rowRanges (rows : List Nat) (n : Nat) (wr : Bool) : List LRange := rows.map fun a => .scratch a n wr

/-- Which registers and operand words a command reads (R364). -/
structure CopyKind where
  /-- CFIL has one side and no source stride. -/
  fill : Bool := false
  queue : Bool := false
  /-- B is the target word of cpyd.loc (R369). -/
  target : Bool := false

/-- The first failure of the checks of R365: an address, or a cause. -/
def Chip.copyCheck (c : Chip) (kind : CopyKind) (addrs : List Word) (b : Word) : Option (Cause × Word) :=
  let t := c.thread c.cur
  let g := t.geo (!kind.fill)
  match addrs.find? fun a => a.toNat % 4 != 0 with
  | some a => some (.align, a)
  | none =>
    if g.rowBytes % 4 != 0 || g.sstride % 4 != 0 || g.dstride % 4 != 0 then some (.align, 0)
    else if g.flag.toNat % 8 != 0 then some (.align, g.flag)
    else if cpReserved 0 t.cpShape || cpReserved 2 t.cpDstride || (!kind.fill && cpReserved 1 t.cpSstride)
        || (kind.queue && cpReserved 5 t.cpQueue) || (kind.target && (fld b 45 19 != 0 || fld b 42 3 != fld t.cpQueue 0 3))
        || g.rowBytes == 0 || decide (65536 < g.rowBytes)
        || (kind.queue && !(c.diesOf t.part 0).contains (fld t.cpQueue 0 3)) then some (.illegalOperand, 0)
    else none

/-- The queue a CPYD uses: none on its own die (R344, R370). -/
def Chip.copyQueue (c : Chip) : Option Nat :=
  let s := dieOf (coreOf c.cur)
  let q := (c.thread c.cur).cpQueue
  if fld q 0 3 = s then none else some (4 * (8 * s + fld q 0 3) + fld q 4 2)

/-- Commands that a queue holds: those of ended graphs that still drain too (R402). -/
def Chip.queueLoad (c : Chip) (q : Nat) : Nat :=
  ((c.ops ++ c.hung).filter fun o => match o.body with
    | .copy cmd => cmd.queue == some q
    | _ => false).length

/-- A command finds its queue full (R370). -/
def Chip.queueFull (c : Chip) (cmd : CopyCmd) : Bool := cmd.queue.any fun q => decide (32 ≤ c.queueLoad q)

/-- A command is started, unless its counter or its queue is full (R39, R370). -/
def Chip.copyStart (c : Chip) (k : Ctr) (det : Bool) (a b : Word) (ranges : List LRange) (cmd : CopyCmd) : Eff :=
  match cmd.queue with
  | some q =>
    if 32 ≤ c.queueLoad q then .hold (.copyQueue q)
    else c.unlessFull k (.done (c.start { push := !det, eng := true, cc := some k, opA := a, opB := b, ranges := ranges }
      (.copy { cmd with order := c.nextId + 1 })))
  | none => c.unlessFull k (.done (c.start { push := !det, eng := true, cc := some k, opA := a, opB := b, ranges := ranges } (.copy cmd)))

/-- One local side, its rows checked last (R365). -/
def Chip.withRows (c : Chip) (la : Word) (g : CopyGeo) (stride : Nat) (k : List Nat → Eff) : Eff :=
  match (c.thread c.cur).localRows la g stride with
  | some rows => k rows
  | none => .trap .align la

/-- The header of a copy command. -/
def copyHdr (sw : Bool) (a b : Src) (det : Bool) : Hdr := { sw := sw, pair := [a, b], push := !det }

/-- A command after the first two checks. -/
def Chip.copyIssue (c : Chip) (sw : Bool) (a b : Src) (det : Bool) (kind : CopyKind) (addrs : Chip → List Word)
    (body : Chip → CopyGeo → Eff) : Chip :=
  c.issue (copyHdr sw a b det) fun c =>
    match c.copyCheck kind (addrs c) (c.src b) with
    | some (cause, addr) => .trap cause addr
    | none => body c ((c.thread c.cur).geo (!kind.fill))

/-- A new command. -/
def newCopy (g : CopyGeo) (src dst : CopySide) (queue : Option Nat) : CopyCmd :=
  { geo := g, src := src, dst := dst, done := 0, queue := queue, order := 0, arrived := none }

/-- CPY (R364, R367). -/
def execCpy (sw : Bool) (a b : Src) (cc : Ctr) (det : Bool) (s : State) :=
  s.issue fun c => c.copyIssue sw a b det {} (fun c => [c.src a, c.src b]) fun c g =>
    c.withRows (c.src a) g g.sstride fun ra => c.withRows (c.src b) g g.dstride fun rb =>
      c.copyStart cc det (c.src a) (c.src b) (rowRanges ra g.rowBytes false ++ rowRanges rb g.rowBytes true)
        (newCopy g (.loc ra) (.loc rb) none)

/-- CPYG into local memory (R364, R373). -/
def execCpyg (sw : Bool) (a b : Src) (cc : Ctr) (det : Bool) (s : State) :=
  s.issue fun c => c.copyIssue sw a b det {} (fun c => [c.src a, c.src b]) fun c g =>
    c.withRows (c.src b) g g.dstride fun rb => c.impure false fun c =>
      c.copyStart cc det (c.src a) (c.src b) (rowRanges rb g.rowBytes true) (newCopy g (.mem (c.src a)) (.loc rb) none)

/-- CPYG out of local memory (R364, R373). -/
def execCpygOut (sw : Bool) (a b : Src) (cc : Ctr) (det : Bool) (s : State) :=
  s.issue fun c => c.copyIssue sw a b det {} (fun c => [c.src a, c.src b]) fun c g =>
    c.withRows (c.src a) g g.sstride fun ra => c.impure false fun c =>
      c.copyStart cc det (c.src a) (c.src b) (rowRanges ra g.rowBytes false) (newCopy g (.loc ra) (.mem (c.src b)) none)

/-- CPYD to byte memory (R344, R373). -/
def execCpyd (sw : Bool) (a b : Src) (cc : Ctr) (det : Bool) (s : State) :=
  s.issue fun c => c.copyIssue sw a b det { queue := true } (fun c => [c.src a, c.src b]) fun c g =>
    c.withRows (c.src a) g g.sstride fun ra => c.impure false fun c =>
      c.copyStart cc det (c.src a) (c.src b) (rowRanges ra g.rowBytes false) (newCopy g (.loc ra) (.mem (c.src b)) c.copyQueue)

/-- CPYD into another die's local memory (R369, R373). -/
def execCpydLoc (sw : Bool) (a b : Src) (cc : Ctr) (det : Bool) (s : State) :=
  s.issue fun c => c.copyIssue sw a b det { queue := true, target := true }
      (fun c => [c.src a, (c.src b).extractLsb' 0 32 |>.setWidth 64]) fun c g =>
    c.withRows (c.src a) g g.sstride fun ra => c.impure false fun c =>
      let w := c.src b
      c.copyStart cc det (c.src a) w (rowRanges ra g.rowBytes false)
        (newCopy g (.loc ra) (.far (fld w 36 9) (fld w 32 4) (fld w 0 32)) c.copyQueue)

/-- CFIL (R368). -/
def execCfil (sw : Bool) (a b : Src) (cc : Ctr) (det : Bool) (s : State) :=
  s.issue fun c => c.copyIssue sw a b det { fill := true } (fun c => [c.src a]) fun c g =>
    c.withRows (c.src a) g g.dstride fun ra =>
      c.copyStart cc det (c.src a) (c.src b) (rowRanges ra g.rowBytes true) (newCopy g (.pattern (c.src b)) (.loc ra) none)

/-- CFIL to byte memory (R368, R373). -/
def execCfilG (sw : Bool) (a b : Src) (cc : Ctr) (det : Bool) (s : State) :=
  s.issue fun c => c.copyIssue sw a b det { fill := true } (fun c => [c.src a]) fun c g =>
    c.impure false fun c =>
      c.copyStart cc det (c.src a) (c.src b) [] (newCopy g (.pattern (c.src b)) (.mem (c.src a)) none)

/-! ### Moving bytes (R366 to R369) -/

/-- Positions of a unit: 4,096 from its first. -/
def unitEnd (g : CopyGeo) (lo : Nat) : Nat := min g.total (lo + 4096)

/-- The byte-memory runs of positions lo to hi − 1. -/
def copyRuns (g : CopyGeo) (base : Word) (step lo hi : Nat) : List (Word × Nat) :=
  ((List.range (hi / g.rowBytes + 1 - lo / g.rowBytes)).map (· + lo / g.rowBytes)).filterMap fun r =>
    let x := max lo (r * g.rowBytes)
    let y := min hi ((r + 1) * g.rowBytes)
    if x < y then some (base + BitVec.ofNat 64 (r * step + (x - r * g.rowBytes)), y - x) else none

/-- The scratchpad addresses of positions lo to hi − 1. -/
def localSpots (g : CopyGeo) (rows : List Nat) (lo hi : Nat) : List Nat :=
  (List.range (hi - lo)).map fun i => rows.getD ((lo + i) / g.rowBytes) 0 + (lo + i) % g.rowBytes

/-- Bytes of a fill at positions lo to hi − 1: each row starts at pattern byte 0 (R368). -/
def fillBytes (g : CopyGeo) (v : Word) (lo hi : Nat) : List Byte :=
  (List.range (hi - lo)).map fun i => v.extractLsb' (8 * ((lo + i) % g.rowBytes % 8)) 8

/-- The copy commands of o's core before it, those of ended graphs that still drain too. -/
def Chip.copiesBefore (c : Chip) (o : Op) : List CopyCmd :=
  (c.ops ++ c.hung).filterMap fun q => match q.body with
    | .copy cmd => if q.id < o.id ∧ coreOf q.tid = coreOf o.tid then some cmd else none
    | _ => none

/-- A command may move bytes: one of the eight in flight of its core, first in its queue, where one that still drains stands too
(R402), its ranges granted, its fork edge drawn (R366, R370, R374). -/
def Chip.copyMay (c : Chip) (o : Op) (cmd : CopyCmd) : Bool :=
  decide ((c.copiesBefore o).length < 8) && !c.heldByFork o && c.granted (coreOf o.tid) o.id o.ranges
  && match cmd.queue with
    | none => true
    | some q => !(c.ops ++ c.hung).any fun x => match x.body with
      | .copy d => decide (d.order < cmd.order) && d.queue == some q
      | _ => false

/-- Local bytes of a core at these addresses. -/
def Chip.spotBytes (c : Chip) (k : Nat) (spots : List Nat) : List Byte := spots.map (c.core k).scratch.byte

/-- The source bytes of positions lo to hi − 1. -/
def Chip.copySource (c : Chip) (o : Op) (cmd : CopyCmd) (lo hi : Nat) : Got :=
  match cmd.src with
  | .loc rows => .bytes (c.spotBytes (coreOf o.tid) (localSpots cmd.geo rows lo hi)) c
  | .mem va => c.readRuns o (copyRuns cmd.geo va cmd.geo.sstride lo hi) cmd.token
  | .pattern v => .bytes (fillBytes cmd.geo v lo hi) c
  | .far .. => .stay c

/-- The bytes of positions lo to hi − 1 are written. -/
def Chip.copyDest (c : Chip) (o : Op) (cmd : CopyCmd) (lo hi : Nat) (bs : List Byte) : Got :=
  let put := fun (k : Nat) (rows : List Nat) =>
    Got.bytes [] (c.modCore k fun q => { q with scratch := q.scratch.setAt (localSpots cmd.geo rows lo hi) bs })
  match cmd.dst with
  | .loc rows => put (coreOf o.tid) rows
  | .mem va => c.writeRuns o (copyRuns cmd.geo va cmd.geo.dstride lo hi) bs cmd.token
  | .far k _ _ =>
    match cmd.arrived with
    | some (n, rows) =>
      if c.grantedTo k n o.id (rowRanges rows cmd.geo.rowBytes true) then put k rows else .stay c
    | none => .stay c
  | .pattern _ => .stay c

/-- The units of a command (R366). -/
def CopyCmd.units (cmd : CopyCmd) : Nat := (cmd.geo.total + 4095) / 4096

/-- The units that one step moves: a copy within local memory moves them all, so that overlap reads before it writes (R367).
(DESIGN CHOICE, log 12) -/
def CopyCmd.together (cmd : CopyCmd) : Nat :=
  match cmd.src, cmd.dst with
  | .loc _, .loc _ => cmd.units
  | _, _ => 1

/-- The byte-memory pages of the destination of a unit are translated before any byte of it is read (R366). -/
def Chip.copyXlat (c : Chip) (o : Op) (cmd : CopyCmd) (lo hi : Nat) : Option Chip :=
  match cmd.dst with
  | .mem va =>
    match c.askTables o (copyRuns cmd.geo va cmd.geo.dstride lo hi) with
    | some c => some c
    | none =>
    match c.runs o .write ((copyRuns cmd.geo va cmd.geo.dstride lo hi).flatMap cutRun) with
    | .ok _ => none
    | .fault w => some (c.waitPage o w)
    | .refuse cause va => some (c.refuse o cause va cmd.token)
  | _ => none

/-- The source of a unit is read; once it is, the destination is written. -/
def Chip.copyRead (c : Chip) (o : Op) (cmd : CopyCmd) (lo hi : Nat) (write : Chip → Op → List Byte → Chip) : Chip :=
  match c.copySource o cmd lo hi with
  | .stay c => c
  | .bytes bs c => write c { o with moving := none, asked := false, replies := [] } bs

/-- Some bytes of a unit are moved: its source is read, then its destination is written (R348, R366). (DESIGN CHOICE, log 12) -/
def Chip.copyStep (c : Chip) (o : Op) (cmd : CopyCmd) : Chip :=
  if !c.copyMay o cmd || decide (cmd.units ≤ cmd.done) then c
  else
    let lo := 4096 * cmd.done
    let hi := min cmd.geo.total (lo + 4096 * cmd.together)
    let write := fun (c : Chip) (o : Op) (bs : List Byte) => match c.copyDest o cmd lo hi bs with
      | .stay c => c
      | .bytes _ c => c.modOp o.id fun q => { q with body := .copy { cmd with done := cmd.done + cmd.together } }
    match o.moving with
    | some m => if m.wr then write c o m.buf else c.copyRead o cmd lo hi write
    | none =>
      match c.copyXlat o cmd lo hi with
      | some c => c
      | none => c.copyRead o cmd lo hi write

/-- Every unit is performed: the flag add, a release at DOMAIN, and the command completes (R344, R366). -/
def Chip.copyEnd (c : Chip) (o : Op) (cmd : CopyCmd) : Chip :=
  let arrivedOk := match cmd.dst with
    | .far .. => cmd.arrived.isSome || cmd.geo.total == 0
    | _ => true
  let total := BitVec.ofNat 64 cmd.geo.total
  if !c.copyMay o cmd || decide (cmd.done < cmd.units) || !arrivedOk then c
  else if cmd.geo.flag = 0 then c.finish o total 0
  else if o.asked then c.afar o fun _ => c.releaseWide.finish o total 0
  else match c.askTables o [(cmd.geo.flag, 8)] with
  | some c => c
  | none =>
    let c := c.walked (coreOf o.tid) o.part o.asid [(cmd.geo.flag, 8)]
    match c.writeAccess o .atomic cmd.geo.flag 8 with
    | .fault w => c.waitPage o w
    | .refuse cause _ => c.refuse o cause cmd.geo.flag cmd.token
    | .far dev pa => c.ask o cmd.geo.flag cmd.token [.atom dev o.part (tagOf o.id 0)
        { pa := pa, op := .add, width := .w64, operand := cmd.geo.flagadd, expected := 0 }]
    | .ok keys page =>
      if c.poisoned keys then c.refuse o .memUncorrectable cmd.geo.flag cmd.token
      else if !c.single page then c.holdWrite o cmd.geo.flag keys page
      else if c.hostHolds keys false then c.snoop keys true
      else
        let c := c.fetchHost keys
        let old := keys.map c.mem.byte
        let c := (c.ownHosts (.engine o.tid) keys).classify none keys
        (c.perform (.engine o.tid) keys (AtomOp.add.newBytes 8 old cmd.geo.flagadd 0)).releaseWide.finish o total 0

/-- The first unit of a cpyd.loc reaches its target core, whose groups the partition may reach (R369, R398). -/
def Chip.copyArrives (c : Chip) (o : Op) (cmd : CopyCmd) : Chip :=
  match cmd.dst, cmd.arrived with
  | .far k x la, none =>
    if !c.copyMay o cmd || cmd.geo.total == 0 then c
    else
      let t := c.thread (16 * k + x)
      if !(c.partCores o.part).contains k then c.refuse o .protection 0 cmd.token
      else if !(t.live && t.part == o.part && t.graph == o.task / 65536 && t.handling.isNone) || t.isSaving then
        c.refuse o .illegalOperand 0 cmd.token
      else
        match t.localRows (BitVec.ofNat 64 la) cmd.geo cmd.geo.dstride with
        | none => c.refuse o .align (BitVec.ofNat 64 la) cmd.token
        | some rows =>
          Chip.modOp { c with nextId := c.nextId + 1 } o.id fun q => { q with body := .copy { cmd with arrived := some (c.nextId, rows) } }
  | _, _ => c

/-! ### Steps -/

/-- On the copy command of an operation that is not waiting for a page. -/
def Chip.onCopy (c : Chip) (id : Nat) (f : Chip → Op → CopyCmd → Chip) : Chip :=
  match c.op? id with
  | some o =>
    match o.body with
    | .copy cmd => if o.fault.isNone then f c o cmd else c
    | _ => c
  | none => c

/-- COPY_COMPLETE. -/
def execCopyComplete (id : Nat) (s : State) := s.on fun c => c.onCopy id Chip.copyEnd

/-- CPYD_LOC_ARRIVAL. -/
def execCpydLocArrival (id : Nat) (s : State) := s.on fun c => c.onCopy id Chip.copyArrives

end Sys2Proof.Machine
end

