-- ==== Sys2Proof/Machine/Sha.lean ====
section
/-!
DEFINITION. SHA-512, the hash of every measurement of firmware, configuration and code (R9, R418). The specification names it and
does not repeat its standard. (PRESUMED, log 74: FIPS 180-4)
-/

namespace Sys2Proof.Machine

/-- Round constants 0 to 15. -/
def shaKOne : List Word :=
  [0x428a2f98d728ae22#64, 0x7137449123ef65cd#64, 0xb5c0fbcfec4d3b2f#64, 0xe9b5dba58189dbbc#64,
   0x3956c25bf348b538#64, 0x59f111f1b605d019#64, 0x923f82a4af194f9b#64, 0xab1c5ed5da6d8118#64,
   0xd807aa98a3030242#64, 0x12835b0145706fbe#64, 0x243185be4ee4b28c#64, 0x550c7dc3d5ffb4e2#64,
   0x72be5d74f27b896f#64, 0x80deb1fe3b1696b1#64, 0x9bdc06a725c71235#64, 0xc19bf174cf692694#64]

/-- Round constants 16 to 31. -/
def shaKTwo : List Word :=
  [0xe49b69c19ef14ad2#64, 0xefbe4786384f25e3#64, 0x0fc19dc68b8cd5b5#64, 0x240ca1cc77ac9c65#64,
   0x2de92c6f592b0275#64, 0x4a7484aa6ea6e483#64, 0x5cb0a9dcbd41fbd4#64, 0x76f988da831153b5#64,
   0x983e5152ee66dfab#64, 0xa831c66d2db43210#64, 0xb00327c898fb213f#64, 0xbf597fc7beef0ee4#64,
   0xc6e00bf33da88fc2#64, 0xd5a79147930aa725#64, 0x06ca6351e003826f#64, 0x142929670a0e6e70#64]

/-- Round constants 32 to 47. -/
def shaKThree : List Word :=
  [0x27b70a8546d22ffc#64, 0x2e1b21385c26c926#64, 0x4d2c6dfc5ac42aed#64, 0x53380d139d95b3df#64,
   0x650a73548baf63de#64, 0x766a0abb3c77b2a8#64, 0x81c2c92e47edaee6#64, 0x92722c851482353b#64,
   0xa2bfe8a14cf10364#64, 0xa81a664bbc423001#64, 0xc24b8b70d0f89791#64, 0xc76c51a30654be30#64,
   0xd192e819d6ef5218#64, 0xd69906245565a910#64, 0xf40e35855771202a#64, 0x106aa07032bbd1b8#64]

/-- Round constants 48 to 63. -/
def shaKFour : List Word :=
  [0x19a4c116b8d2d0c8#64, 0x1e376c085141ab53#64, 0x2748774cdf8eeb99#64, 0x34b0bcb5e19b48a8#64,
   0x391c0cb3c5c95a63#64, 0x4ed8aa4ae3418acb#64, 0x5b9cca4f7763e373#64, 0x682e6ff3d6b2b8a3#64,
   0x748f82ee5defb2fc#64, 0x78a5636f43172f60#64, 0x84c87814a1f0ab72#64, 0x8cc702081a6439ec#64,
   0x90befffa23631e28#64, 0xa4506cebde82bde9#64, 0xbef9a3f7b2c67915#64, 0xc67178f2e372532b#64]

/-- Round constants 64 to 79. -/
def shaKFive : List Word :=
  [0xca273eceea26619c#64, 0xd186b8c721c0c207#64, 0xeada7dd6cde0eb1e#64, 0xf57d4f7fee6ed178#64,
   0x06f067aa72176fba#64, 0x0a637dc5a2c898a6#64, 0x113f9804bef90dae#64, 0x1b710b35131c471b#64,
   0x28db77f523047d84#64, 0x32caab7b40c72493#64, 0x3c9ebe0a15c9bebc#64, 0x431d67c49c100d4c#64,
   0x4cc5d4becb3e42b6#64, 0x597f299cfc657e2a#64, 0x5fcb6fab3ad6faec#64, 0x6c44198c4a475817#64]

/-- The round constants, in order. -/
def shaK : List Word := shaKOne ++ shaKTwo ++ shaKThree ++ shaKFour ++ shaKFive

/-- The working variables a to h. -/
structure ShaVars where
  a : Word
  b : Word
  c : Word
  d : Word
  e : Word
  f : Word
  g : Word
  h : Word
  deriving DecidableEq, Repr

/-- The initial hash value. -/
def shaInit : ShaVars :=
  { a := 0x6a09e667f3bcc908, b := 0xbb67ae8584caa73b,
    c := 0x3c6ef372fe94f82b, d := 0xa54ff53a5f1d36f1,
    e := 0x510e527fade682d1, f := 0x9b05688c2b3e6c1f,
    g := 0x1f83d9abfb41bd6b, h := 0x5be0cd19137e2179 }

/-- One round with a constant and a schedule word. -/
def ShaVars.round (v : ShaVars) (k w : Word) : ShaVars :=
  let s1 := v.e.rotateRight 14 ^^^ v.e.rotateRight 18 ^^^ v.e.rotateRight 41
  let ch := (v.e &&& v.f) ^^^ (~~~v.e &&& v.g)
  let t1 := v.h + s1 + ch + k + w
  let s0 := v.a.rotateRight 28 ^^^ v.a.rotateRight 34 ^^^ v.a.rotateRight 39
  let maj := (v.a &&& v.b) ^^^ (v.a &&& v.c) ^^^ (v.b &&& v.c)
  { a := t1 + (s0 + maj), b := v.a, c := v.b, d := v.c, e := v.d + t1, f := v.e, g := v.f, h := v.g }

/-- The schedule word sixteen places after the first of a window of sixteen. -/
def shaNext (ws : List Word) : Word :=
  let x := ws.getD 1 0
  let y := ws.getD 14 0
  (y.rotateRight 19 ^^^ y.rotateRight 61 ^^^ (y >>> 6)) + ws.getD 9 0 + (x.rotateRight 1 ^^^ x.rotateRight 8 ^^^ (x >>> 7)) + ws.getD 0 0

/-- The rounds of a block: each constant with the first word of the window, which then moves on. -/
def shaRounds (v : ShaVars) (ws : List Word) : List Word → ShaVars
  | [] => v
  | k :: ks => shaRounds (v.round k (ws.getD 0 0)) (ws.drop 1 ++ [shaNext ws]) ks

/-- A word from eight bytes, the most significant first. -/
def shaWord (bs : List Byte) : Word := bs.foldl (fun w b => w * 256 + b.setWidth 64) 0

/-- A word as eight bytes, the most significant first. -/
def shaBytes (w : Word) : List Byte := (List.range 8).map fun i => w.extractLsb' (56 - 8 * i) 8

/-- A block of 128 bytes taken into the hash value. -/
def ShaVars.block (v : ShaVars) (bs : List Byte) : ShaVars :=
  let r := shaRounds v ((List.range 16).map fun i => shaWord ((bs.drop (8 * i)).take 8)) shaK
  { a := v.a + r.a, b := v.b + r.b, c := v.c + r.c, d := v.d + r.d, e := v.e + r.e, f := v.f + r.f, g := v.g + r.g, h := v.h + r.h }

/-- Blocks of 128 bytes taken in turn. -/
def shaBlocks (v : ShaVars) (bs : List Byte) : Nat → ShaVars
  | 0 => v
  | n + 1 => shaBlocks (v.block (bs.take 128)) (bs.drop 128) n

/-- A message padded to whole blocks: a one bit, zeros, and its length in bits in 16 bytes. -/
def shaPad (bs : List Byte) : List Byte :=
  let n := bs.length
  bs ++ [0x80#8] ++ List.replicate (127 - (n + 16) % 128) 0#8 ++ List.replicate 8 0#8 ++ shaBytes (BitVec.ofNat 64 (8 * n))

/-- SHA-512 of a byte string (R9, R418). (PRESUMED, log 74) -/
def sha512 (bs : List Byte) : List Byte :=
  let p := shaPad bs
  let v := shaBlocks shaInit p (p.length / 128)
  [v.a, v.b, v.c, v.d, v.e, v.f, v.g, v.h].flatMap shaBytes

end Sys2Proof.Machine
end

