-- ==== Sys2Proof/Decode.lean ====
section
/-!
DEFINITION. The decoder of instruction words, total and rejecting by name, and the encoder: R40, R41, R46 to R52.
-/

namespace Sys2Proof

/-- Why a word is no instruction (R52). Every reason is ILLEGAL_OPCODE but illegalEtype, which is ILLEGAL_OPERAND. -/
inductive Reject
  | illegalMajor
  | illegalFunction
  | illegalField
  | reservedField
  | namedWithoutW
  | illegalEtype
  deriving DecidableEq, Repr

/-- The field of a source (R40). -/
def Src.enc : Src → BitVec 5
  | .q i => 0#1 ++ BitVec.ofFin (w := 4) i
  | .n i => 1#1 ++ BitVec.ofFin (w := 4) i

/-- The source of a field (R40): values 0 to 15 are queue ages, 16 to 31 named registers. -/
def Src.dec (x : BitVec 5) : Src :=
  if x.extractLsb' 4 1 == 1#1 then .n (x.extractLsb' 0 4).toFin else .q (x.extractLsb' 0 4).toFin

/-- The destination field: W and the named index (R41). -/
def encDest : Dest → BitVec 5
  | none => 0
  | some i => 1#1 ++ BitVec.ofFin (w := 4) i

/-- The destination of a field (R41): W = 0 with a nonzero index is ILLEGAL_OPCODE. -/
def decDest (x : BitVec 5) : Except Reject Dest :=
  if x.extractLsb' 4 1 == 1#1 then .ok (some (x.extractLsb' 0 4).toFin)
  else if x == 0#5 then .ok none else .error .namedWithoutW

/-- FNC's fields: the storage mask is not 0, and with ALL the A and B fields are reserved (R52). -/
def fncOk (all : Bool) (mask : BitVec 3) (fA fB : BitVec 5) : Bool :=
  mask != 0 && (!all || (fA == 0 && fB == 0))

/-- VMSK's operations not, nz and first reserve vb (R234). -/
def mskOk (op vb : BitVec 3) : Bool :=
  op.toNat < 4 || vb == 0

/-- The code of a EType (R46). -/
def EType.enc : EType → BitVec 3
  | .f64 => 0
  | .f32 => 1
  | .bf16 => 2
  | .f16 => 3
  | .s64 => 4
  | .s32 => 5
  | .s16 => 6
  | .s8 => 7

/-- The EType of a code (R46). -/
def EType.dec (x : BitVec 3) : EType :=
  match x.toNat with
  | 0 => .f64
  | 1 => .f32
  | 2 => .bf16
  | 3 => .f16
  | 4 => .s64
  | 5 => .s32
  | 6 => .s16
  | _ => .s8

/-- The code of a Cond (R46). -/
def Cond.enc : Cond → BitVec 3
  | .eq => 0
  | .ne => 1
  | .lt => 2
  | .ge => 3
  | .ltu => 4
  | .geu => 5
  | .z => 6
  | .nz => 7

/-- The Cond of a code (R46). -/
def Cond.dec (x : BitVec 3) : Cond :=
  match x.toNat with
  | 0 => .eq
  | 1 => .ne
  | 2 => .lt
  | 3 => .ge
  | 4 => .ltu
  | 5 => .geu
  | 6 => .z
  | _ => .nz

/-- The code of a Order (R49). -/
def Order.enc : Order → BitVec 2
  | .rlx => 0
  | .acq => 1
  | .rel => 2
  | .acqrel => 3

/-- The Order of a code (R49). -/
def Order.dec (x : BitVec 2) : Order :=
  match x.toNat with
  | 0 => .rlx
  | 1 => .acq
  | 2 => .rel
  | _ => .acqrel

/-- The code of a Prec (R49). -/
def Prec.enc : Prec → BitVec 1
  | .f64 => 0
  | .f32 => 1

/-- The Prec of a code (R49). -/
def Prec.dec (x : BitVec 1) : Prec :=
  match x.toNat with
  | 0 => .f64
  | _ => .f32

/-- The code of a FPred (R95). -/
def FPred.enc : FPred → BitVec 2
  | .eq => 0
  | .lt => 1
  | .le => 2
  | .unord => 3

/-- The FPred of a code (R95). -/
def FPred.dec (x : BitVec 2) : FPred :=
  match x.toNat with
  | 0 => .eq
  | 1 => .lt
  | 2 => .le
  | _ => .unord

/-- The code of a CvtKind (R96). -/
def CvtKind.enc : CvtKind → BitVec 2
  | .ff => 0
  | .fromInt => 1
  | .toInt => 2
  | .toUint => 3

/-- The CvtKind of a code (R96). -/
def CvtKind.dec (x : BitVec 2) : CvtKind :=
  match x.toNat with
  | 0 => .ff
  | 1 => .fromInt
  | 2 => .toInt
  | _ => .toUint

/-- The code of a VCond (R232). -/
def VCond.enc : VCond → BitVec 3
  | .eq => 0
  | .ne => 1
  | .lt => 2
  | .le => 3
  | .gt => 4
  | .ge => 5
  | .c6 => 6
  | .c7 => 7

/-- The VCond of a code (R232). -/
def VCond.dec (x : BitVec 3) : VCond :=
  match x.toNat with
  | 0 => .eq
  | 1 => .ne
  | 2 => .lt
  | 3 => .le
  | 4 => .gt
  | 5 => .ge
  | 6 => .c6
  | _ => .c7

/-- The code of a LdWidth (R46). -/
def LdWidth.enc : LdWidth → BitVec 3
  | .s8 => 0
  | .z8 => 1
  | .s16 => 2
  | .z16 => 3
  | .s32 => 4
  | .z32 => 5
  | .d64 => 6

/-- The LdWidth of a code (R46); a code not listed is ILLEGAL_OPCODE (R52). -/
def LdWidth.dec (x : BitVec 3) : Except Reject LdWidth :=
  match x.toNat with
  | 0 => .ok .s8
  | 1 => .ok .z8
  | 2 => .ok .s16
  | 3 => .ok .z16
  | 4 => .ok .s32
  | 5 => .ok .z32
  | 6 => .ok .d64
  | _ => .error .illegalField

/-- The code of a StWidth (R46). -/
def StWidth.enc : StWidth → BitVec 3
  | .b8 => 0
  | .b16 => 1
  | .b32 => 2
  | .b64 => 3

/-- The StWidth of a code (R46); a code not listed is ILLEGAL_OPCODE (R52). -/
def StWidth.dec (x : BitVec 3) : Except Reject StWidth :=
  match x.toNat with
  | 0 => .ok .b8
  | 1 => .ok .b16
  | 2 => .ok .b32
  | 3 => .ok .b64
  | _ => .error .illegalField

/-- The code of a AmoWidth (R49). -/
def AmoWidth.enc : AmoWidth → BitVec 2
  | .w32 => 2
  | .w64 => 3

/-- The AmoWidth of a code (R49); a code not listed is ILLEGAL_OPCODE (R52). -/
def AmoWidth.dec (x : BitVec 2) : Except Reject AmoWidth :=
  match x.toNat with
  | 2 => .ok .w32
  | 3 => .ok .w64
  | _ => .error .illegalField

/-- The code of a AmoScope (R49). -/
def AmoScope.enc : AmoScope → BitVec 2
  | .die => 0
  | .package => 1
  | .domain => 2

/-- The AmoScope of a code (R49); a code not listed is ILLEGAL_OPCODE (R52). -/
def AmoScope.dec (x : BitVec 2) : Except Reject AmoScope :=
  match x.toNat with
  | 0 => .ok .die
  | 1 => .ok .package
  | 2 => .ok .domain
  | _ => .error .illegalField

/-- The code of a AgentScope (R49). -/
def AgentScope.enc : AgentScope → BitVec 3
  | .thread => 0
  | .core => 1
  | .die => 2
  | .package => 3
  | .domain => 4

/-- The AgentScope of a code (R49); a code not listed is ILLEGAL_OPCODE (R52). -/
def AgentScope.dec (x : BitVec 3) : Except Reject AgentScope :=
  match x.toNat with
  | 0 => .ok .thread
  | 1 => .ok .core
  | 2 => .ok .die
  | 3 => .ok .package
  | 4 => .ok .domain
  | _ => .error .illegalField

/-- The code of a Rnd (R49). -/
def Rnd.enc : Rnd → BitVec 3
  | .rne => 0
  | .rtz => 1
  | .rdn => 2
  | .rup => 3
  | .rmm => 4
  | .dyn => 7

/-- The Rnd of a code (R49); a code not listed is ILLEGAL_OPCODE (R52). -/
def Rnd.dec (x : BitVec 3) : Except Reject Rnd :=
  match x.toNat with
  | 0 => .ok .rne
  | 1 => .ok .rtz
  | 2 => .ok .rdn
  | 3 => .ok .rup
  | 4 => .ok .rmm
  | 7 => .ok .dyn
  | _ => .error .illegalField

/-- The code of a RedOp (R230). -/
def RedOp.enc : RedOp → BitVec 3
  | .sum => 0
  | .max => 1
  | .min => 2

/-- The RedOp of a code (R230); a code not listed is ILLEGAL_OPCODE (R52). -/
def RedOp.dec (x : BitVec 3) : Except Reject RedOp :=
  match x.toNat with
  | 0 => .ok .sum
  | 1 => .ok .max
  | 2 => .ok .min
  | _ => .error .illegalField

/-- The code of a ScanOp (R230). -/
def ScanOp.enc : ScanOp → BitVec 3
  | .isum => 0
  | .xsum => 1
  | .max => 2
  | .min => 3

/-- The ScanOp of a code (R230); a code not listed is ILLEGAL_OPCODE (R52). -/
def ScanOp.dec (x : BitVec 3) : Except Reject ScanOp :=
  match x.toNat with
  | 0 => .ok .isum
  | 1 => .ok .xsum
  | 2 => .ok .max
  | 3 => .ok .min
  | _ => .error .illegalField

/-- The code of a MskOp (R234). -/
def MskOp.enc : MskOp → BitVec 3
  | .and => 0
  | .or => 1
  | .xor => 2
  | .andn => 3
  | .not => 4
  | .nz => 5
  | .first => 6

/-- The MskOp of a code (R234); a code not listed is ILLEGAL_OPCODE (R52). -/
def MskOp.dec (x : BitVec 3) : Except Reject MskOp :=
  match x.toNat with
  | 0 => .ok .and
  | 1 => .ok .or
  | 2 => .ok .xor
  | 3 => .ok .andn
  | 4 => .ok .not
  | 5 => .ok .nz
  | 6 => .ok .first
  | _ => .error .illegalField

/-- The code of a Narrow (R230). -/
def Narrow.enc : Narrow → BitVec 3
  | .ts8 => 0
  | .e4m3 => 1
  | .e5m2 => 2
  | .int8 => 3
  | .nat8 => 4
  | .int4 => 5

/-- The Narrow of a code (R230); a code not listed is ILLEGAL_OPCODE (R52). -/
def Narrow.dec (x : BitVec 3) : Except Reject Narrow :=
  match x.toNat with
  | 0 => .ok .ts8
  | 1 => .ok .e4m3
  | 2 => .ok .e5m2
  | 3 => .ok .int8
  | 4 => .ok .nat8
  | 5 => .ok .int4
  | _ => .error .illegalField

/-- The code of a MRedOp (R209). -/
def MRedOp.enc : MRedOp → BitVec 2
  | .sum => 0
  | .ssq => 1
  | .max => 2

/-- The MRedOp of a code (R209); a code not listed is ILLEGAL_OPCODE (R52). -/
def MRedOp.dec (x : BitVec 2) : Except Reject MRedOp :=
  match x.toNat with
  | 0 => .ok .sum
  | 1 => .ok .ssq
  | 2 => .ok .max
  | _ => .error .illegalField

/-- The index of a control register (R341). -/
def CReg.enc : CReg → BitVec 12
  | .tid => 0x000
  | .task => 0x001
  | .prio => 0x002
  | .partid => 0x003
  | .cls => 0x004
  | .winsz => 0x005
  | .accn => 0x006
  | .vcsr => 0x008
  | .fflags => 0x009
  | .time => 0x010
  | .cycles => 0x011
  | .vtStall => 0x060
  | .vtWonce => 0x061
  | .vtWaits => 0x062
  | .dupCollapse => 0x063
  | .trapvec => 0x100
  | .hearth => 0x101
  | .trapsave => 0x102
  | .asid => 0x110
  | .ptbase => 0x111
  | .gen => 0x112
  | .fbbase => 0x120
  | .fbstatus => 0x121
  | .fbheld => 0x122
  | .pagertab => 0x123
  | .celkey => 0x130
  | .celquota => 0x131
  | .slottab => 0x140
  | .ptpctl => 0x141
  | .ltol => 0x150
  | .pstate => 0x151
  | .partIl => 0x160
  | .partNb => 0x161
  | .partGroups => 0x162
  | .partCtl => 0x163
  | .cqStatus => 0x170
  | .mxc k => 0x040 + BitVec.ofNat 12 k
  | .cel k => 0x050 + BitVec.ofNat 12 k

/-- The control register of an index (R340, R341); an unassigned index is ILLEGAL_OPCODE. -/
def CReg.dec (x : BitVec 12) : Except Reject CReg :=
  if h : 0x040 ≤ x.toNat ∧ x.toNat < 0x04A then .ok (.mxc ⟨x.toNat - 0x040, by omega⟩)
  else if h : 0x050 ≤ x.toNat ∧ x.toNat < 0x055 then .ok (.cel ⟨x.toNat - 0x050, by omega⟩)
  else match x.toNat with
  | 0x000 => .ok .tid
  | 0x001 => .ok .task
  | 0x002 => .ok .prio
  | 0x003 => .ok .partid
  | 0x004 => .ok .cls
  | 0x005 => .ok .winsz
  | 0x006 => .ok .accn
  | 0x008 => .ok .vcsr
  | 0x009 => .ok .fflags
  | 0x010 => .ok .time
  | 0x011 => .ok .cycles
  | 0x060 => .ok .vtStall
  | 0x061 => .ok .vtWonce
  | 0x062 => .ok .vtWaits
  | 0x063 => .ok .dupCollapse
  | 0x100 => .ok .trapvec
  | 0x101 => .ok .hearth
  | 0x102 => .ok .trapsave
  | 0x110 => .ok .asid
  | 0x111 => .ok .ptbase
  | 0x112 => .ok .gen
  | 0x120 => .ok .fbbase
  | 0x121 => .ok .fbstatus
  | 0x122 => .ok .fbheld
  | 0x123 => .ok .pagertab
  | 0x130 => .ok .celkey
  | 0x131 => .ok .celquota
  | 0x140 => .ok .slottab
  | 0x141 => .ok .ptpctl
  | 0x150 => .ok .ltol
  | 0x151 => .ok .pstate
  | 0x160 => .ok .partIl
  | 0x161 => .ok .partNb
  | 0x162 => .ok .partGroups
  | 0x163 => .ok .partCtl
  | 0x170 => .ok .cqStatus
  | _ => .error .illegalField
/-- Major 0x00 (R49, R52). -/
def decSys (sw : Bool) (fD fA fB : BitVec 5) (fF : BitVec 10) : Except Reject Instr :=
  match fF.toNat with
  | 1 => if fD == 0#5 && fA == 0#5 && fB == 0#5 then .ok (.nop sw) else .error .reservedField
  | 2 => if fD == 0#5 then .ok (.trap sw (fA ++ fB)) else .error .reservedField
  | 3 => if fD == 0#5 && fB == 0#5 then .ok (.tret sw (Src.dec fA)) else .error .reservedField
  | 4 => if fB == 0#5 then (decDest fD).bind fun d' => .ok (.genbump sw d' (Src.dec fA)) else .error .reservedField
  | 5 => (decDest fD).bind fun d' => .ok (.pgdone sw d' (Src.dec fA) (Src.dec fB))
  | 6 => (decDest fD).bind fun d' => .ok (.pqui sw d' (Src.dec fA) (Src.dec fB))
  | 7 => if fB == 0#5 then (decDest fD).bind fun d' => .ok (.pres sw d' (Src.dec fA)) else .error .reservedField
  | 8 => if fD == 0#5 then .ok (.cflush sw (Src.dec fA) (Src.dec fB)) else .error .reservedField
  | 9 => if fD == 0#5 && fA == 0#5 && fB == 0#5 then .ok (.celfl sw) else .error .reservedField
  | _ => .error .illegalFunction

/-- Major 0x01 (R49, R52). -/
def decInt (sw : Bool) (fD fA fB : BitVec 5) (fF : BitVec 10) : Except Reject Instr :=
  match (fF.extractLsb' 0 5).toNat with
  | 0 => if fF.extractLsb' 5 4 == 0#4 then (decDest fD).bind fun d' => .ok (.add sw d' (Src.dec fA) (Src.dec fB) ((fF.extractLsb' 9 1) == 1#1)) else .error .reservedField
  | 1 => if fF.extractLsb' 5 4 == 0#4 then (decDest fD).bind fun d' => .ok (.sub sw d' (Src.dec fA) (Src.dec fB) ((fF.extractLsb' 9 1) == 1#1)) else .error .reservedField
  | 2 => if fF.extractLsb' 5 4 == 0#4 then (decDest fD).bind fun d' => .ok (.mul sw d' (Src.dec fA) (Src.dec fB) ((fF.extractLsb' 9 1) == 1#1)) else .error .reservedField
  | 3 => if fF.extractLsb' 5 4 == 0#4 then (decDest fD).bind fun d' => .ok (.mulh sw d' (Src.dec fA) (Src.dec fB) ((fF.extractLsb' 9 1) == 1#1)) else .error .reservedField
  | 4 => if fF.extractLsb' 5 4 == 0#4 then (decDest fD).bind fun d' => .ok (.mulhu sw d' (Src.dec fA) (Src.dec fB) ((fF.extractLsb' 9 1) == 1#1)) else .error .reservedField
  | 5 => if fF.extractLsb' 5 4 == 0#4 then (decDest fD).bind fun d' => .ok (.div sw d' (Src.dec fA) (Src.dec fB) ((fF.extractLsb' 9 1) == 1#1)) else .error .reservedField
  | 6 => if fF.extractLsb' 5 4 == 0#4 then (decDest fD).bind fun d' => .ok (.divu sw d' (Src.dec fA) (Src.dec fB) ((fF.extractLsb' 9 1) == 1#1)) else .error .reservedField
  | 7 => if fF.extractLsb' 5 4 == 0#4 then (decDest fD).bind fun d' => .ok (.rem sw d' (Src.dec fA) (Src.dec fB) ((fF.extractLsb' 9 1) == 1#1)) else .error .reservedField
  | 8 => if fF.extractLsb' 5 4 == 0#4 then (decDest fD).bind fun d' => .ok (.remu sw d' (Src.dec fA) (Src.dec fB) ((fF.extractLsb' 9 1) == 1#1)) else .error .reservedField
  | 9 => if fF.extractLsb' 5 4 == 0#4 then (decDest fD).bind fun d' => .ok (.and sw d' (Src.dec fA) (Src.dec fB) ((fF.extractLsb' 9 1) == 1#1)) else .error .reservedField
  | 10 => if fF.extractLsb' 5 4 == 0#4 then (decDest fD).bind fun d' => .ok (.or sw d' (Src.dec fA) (Src.dec fB) ((fF.extractLsb' 9 1) == 1#1)) else .error .reservedField
  | 11 => if fF.extractLsb' 5 4 == 0#4 then (decDest fD).bind fun d' => .ok (.xor sw d' (Src.dec fA) (Src.dec fB) ((fF.extractLsb' 9 1) == 1#1)) else .error .reservedField
  | 12 => if fF.extractLsb' 5 4 == 0#4 then (decDest fD).bind fun d' => .ok (.andn sw d' (Src.dec fA) (Src.dec fB) ((fF.extractLsb' 9 1) == 1#1)) else .error .reservedField
  | 13 => if fF.extractLsb' 5 4 == 0#4 then (decDest fD).bind fun d' => .ok (.shl sw d' (Src.dec fA) (Src.dec fB) ((fF.extractLsb' 9 1) == 1#1)) else .error .reservedField
  | 14 => if fF.extractLsb' 5 4 == 0#4 then (decDest fD).bind fun d' => .ok (.shr sw d' (Src.dec fA) (Src.dec fB) ((fF.extractLsb' 9 1) == 1#1)) else .error .reservedField
  | 15 => if fF.extractLsb' 5 4 == 0#4 then (decDest fD).bind fun d' => .ok (.sra sw d' (Src.dec fA) (Src.dec fB) ((fF.extractLsb' 9 1) == 1#1)) else .error .reservedField
  | 16 => if fF.extractLsb' 5 4 == 0#4 then (decDest fD).bind fun d' => .ok (.ror sw d' (Src.dec fA) (Src.dec fB) ((fF.extractLsb' 9 1) == 1#1)) else .error .reservedField
  | 17 => if fF.extractLsb' 5 4 == 0#4 then (decDest fD).bind fun d' => .ok (.slt sw d' (Src.dec fA) (Src.dec fB) ((fF.extractLsb' 9 1) == 1#1)) else .error .reservedField
  | 18 => if fF.extractLsb' 5 4 == 0#4 then (decDest fD).bind fun d' => .ok (.sltu sw d' (Src.dec fA) (Src.dec fB) ((fF.extractLsb' 9 1) == 1#1)) else .error .reservedField
  | 19 => if fF.extractLsb' 5 4 == 0#4 then (decDest fD).bind fun d' => .ok (.seq sw d' (Src.dec fA) (Src.dec fB) ((fF.extractLsb' 9 1) == 1#1)) else .error .reservedField
  | 20 => if fF.extractLsb' 5 4 == 0#4 then (decDest fD).bind fun d' => .ok (.min sw d' (Src.dec fA) (Src.dec fB) ((fF.extractLsb' 9 1) == 1#1)) else .error .reservedField
  | 21 => if fF.extractLsb' 5 4 == 0#4 then (decDest fD).bind fun d' => .ok (.max sw d' (Src.dec fA) (Src.dec fB) ((fF.extractLsb' 9 1) == 1#1)) else .error .reservedField
  | 22 => if fF.extractLsb' 5 4 == 0#4 then (decDest fD).bind fun d' => .ok (.minu sw d' (Src.dec fA) (Src.dec fB) ((fF.extractLsb' 9 1) == 1#1)) else .error .reservedField
  | 23 => if fF.extractLsb' 5 4 == 0#4 then (decDest fD).bind fun d' => .ok (.maxu sw d' (Src.dec fA) (Src.dec fB) ((fF.extractLsb' 9 1) == 1#1)) else .error .reservedField
  | 24 => if fB == 0#5 && fF.extractLsb' 5 4 == 0#4 then (decDest fD).bind fun d' => .ok (.clz sw d' (Src.dec fA) ((fF.extractLsb' 9 1) == 1#1)) else .error .reservedField
  | 25 => if fB == 0#5 && fF.extractLsb' 5 4 == 0#4 then (decDest fD).bind fun d' => .ok (.ctz sw d' (Src.dec fA) ((fF.extractLsb' 9 1) == 1#1)) else .error .reservedField
  | 26 => if fB == 0#5 && fF.extractLsb' 5 4 == 0#4 then (decDest fD).bind fun d' => .ok (.popc sw d' (Src.dec fA) ((fF.extractLsb' 9 1) == 1#1)) else .error .reservedField
  | 27 => if fF.extractLsb' 5 4 == 0#4 then (decDest fD).bind fun d' => .ok (.sext sw d' (Src.dec fA) (Src.dec fB) ((fF.extractLsb' 9 1) == 1#1)) else .error .reservedField
  | 28 => if fF.extractLsb' 5 4 == 0#4 then (decDest fD).bind fun d' => .ok (.zext sw d' (Src.dec fA) (Src.dec fB) ((fF.extractLsb' 9 1) == 1#1)) else .error .reservedField
  | _ => .error .illegalFunction

/-- Major 0x0D (R49, R52). -/
def decHnd (sw : Bool) (fD fA fB : BitVec 5) (fF : BitVec 10) : Except Reject Instr :=
  match fF.toNat with
  | 0 => (decDest fD).bind fun d' => .ok (.hmake sw d' (Src.dec fA) (Src.dec fB))
  | 1 => (decDest fD).bind fun d' => .ok (.hidx sw d' (Src.dec fA) (Src.dec fB))
  | 2 => (decDest fD).bind fun d' => .ok (.hver sw d' (Src.dec fA) (Src.dec fB))
  | 3 => (decDest fD).bind fun d' => .ok (.hfld sw d' (Src.dec fA) (Src.dec fB))
  | _ => .error .illegalFunction

/-- Major 0x11 (R49, R52). -/
def decJr (sw : Bool) (fD fA fB : BitVec 5) (fF : BitVec 10) : Except Reject Instr :=
  match fF.toNat with
  | 0 => if fD == 0#5 && fB == 0#5 then .ok (.jr sw (Src.dec fA)) else .error .reservedField
  | 1 => if fD == 0#5 && fB == 0#5 then .ok (.jrCall sw (Src.dec fA)) else .error .reservedField
  | _ => .error .illegalFunction

/-- Major 0x16 (R49, R52). -/
def decAmo (sw : Bool) (fD fA fB : BitVec 5) (fF : BitVec 10) : Except Reject Instr :=
  match (fF.extractLsb' 0 4).toNat with
  | 0 => (decDest fD).bind fun d' => (AmoWidth.dec (fF.extractLsb' 4 2)).bind fun wd' => (AmoScope.dec (fF.extractLsb' 8 2)).bind fun sc' => .ok (.amoAdd sw d' (Src.dec fA) (Src.dec fB) wd' (Order.dec (fF.extractLsb' 6 2)) sc')
  | 1 => (decDest fD).bind fun d' => (AmoWidth.dec (fF.extractLsb' 4 2)).bind fun wd' => (AmoScope.dec (fF.extractLsb' 8 2)).bind fun sc' => .ok (.amoAnd sw d' (Src.dec fA) (Src.dec fB) wd' (Order.dec (fF.extractLsb' 6 2)) sc')
  | 2 => (decDest fD).bind fun d' => (AmoWidth.dec (fF.extractLsb' 4 2)).bind fun wd' => (AmoScope.dec (fF.extractLsb' 8 2)).bind fun sc' => .ok (.amoOr sw d' (Src.dec fA) (Src.dec fB) wd' (Order.dec (fF.extractLsb' 6 2)) sc')
  | 3 => (decDest fD).bind fun d' => (AmoWidth.dec (fF.extractLsb' 4 2)).bind fun wd' => (AmoScope.dec (fF.extractLsb' 8 2)).bind fun sc' => .ok (.amoXor sw d' (Src.dec fA) (Src.dec fB) wd' (Order.dec (fF.extractLsb' 6 2)) sc')
  | 4 => (decDest fD).bind fun d' => (AmoWidth.dec (fF.extractLsb' 4 2)).bind fun wd' => (AmoScope.dec (fF.extractLsb' 8 2)).bind fun sc' => .ok (.amoMin sw d' (Src.dec fA) (Src.dec fB) wd' (Order.dec (fF.extractLsb' 6 2)) sc')
  | 5 => (decDest fD).bind fun d' => (AmoWidth.dec (fF.extractLsb' 4 2)).bind fun wd' => (AmoScope.dec (fF.extractLsb' 8 2)).bind fun sc' => .ok (.amoMax sw d' (Src.dec fA) (Src.dec fB) wd' (Order.dec (fF.extractLsb' 6 2)) sc')
  | 6 => (decDest fD).bind fun d' => (AmoWidth.dec (fF.extractLsb' 4 2)).bind fun wd' => (AmoScope.dec (fF.extractLsb' 8 2)).bind fun sc' => .ok (.amoMinu sw d' (Src.dec fA) (Src.dec fB) wd' (Order.dec (fF.extractLsb' 6 2)) sc')
  | 7 => (decDest fD).bind fun d' => (AmoWidth.dec (fF.extractLsb' 4 2)).bind fun wd' => (AmoScope.dec (fF.extractLsb' 8 2)).bind fun sc' => .ok (.amoMaxu sw d' (Src.dec fA) (Src.dec fB) wd' (Order.dec (fF.extractLsb' 6 2)) sc')
  | 8 => (decDest fD).bind fun d' => (AmoWidth.dec (fF.extractLsb' 4 2)).bind fun wd' => (AmoScope.dec (fF.extractLsb' 8 2)).bind fun sc' => .ok (.amoSwap sw d' (Src.dec fA) (Src.dec fB) wd' (Order.dec (fF.extractLsb' 6 2)) sc')
  | 9 => if fF.extractLsb' 4 2 == 2#2 then (decDest fD).bind fun d' => (AmoScope.dec (fF.extractLsb' 8 2)).bind fun sc' => .ok (.amoFaddF32 sw d' (Src.dec fA) (Src.dec fB) (Order.dec (fF.extractLsb' 6 2)) sc') else .error .reservedField
  | 10 => if fF.extractLsb' 4 2 == 3#2 then (decDest fD).bind fun d' => (AmoScope.dec (fF.extractLsb' 8 2)).bind fun sc' => .ok (.amoFaddF64 sw d' (Src.dec fA) (Src.dec fB) (Order.dec (fF.extractLsb' 6 2)) sc') else .error .reservedField
  | _ => .error .illegalFunction

/-- Major 0x17 (R49, R52). -/
def decCas (sw : Bool) (fD fA fB : BitVec 5) (fF : BitVec 10) : Except Reject Instr :=
  if fF.extractLsb' 0 4 == 0#4 then (AmoWidth.dec (fF.extractLsb' 4 2)).bind fun wd' => (AmoScope.dec (fF.extractLsb' 8 2)).bind fun sc' => .ok (.cas sw (Src.dec fD) (Src.dec fA) (Src.dec fB) wd' (Order.dec (fF.extractLsb' 6 2)) sc') else .error .reservedField

/-- Major 0x18 (R49, R52). -/
def decFnc (sw : Bool) (fD fA fB : BitVec 5) (fF : BitVec 10) : Except Reject Instr :=
  match (fF.extractLsb' 0 2).toNat with
  | 0 => if fD == 0#5 && fF.extractLsb' 9 1 == 0#1 then if fncOk (fF.extractLsb' 8 1 == 1#1) (fF.extractLsb' 5 3) fA fB then (AgentScope.dec (fF.extractLsb' 2 3)).bind fun sc' => .ok (.fncFull sw (Src.dec fA) (Src.dec fB) ((fF.extractLsb' 8 1) == 1#1) (fF.extractLsb' 5 3) sc') else .error .illegalField else .error .reservedField
  | 1 => if fD == 0#5 && fF.extractLsb' 9 1 == 0#1 then if fncOk (fF.extractLsb' 8 1 == 1#1) (fF.extractLsb' 5 3) fA fB then (AgentScope.dec (fF.extractLsb' 2 3)).bind fun sc' => .ok (.fncAcq sw (Src.dec fA) (Src.dec fB) ((fF.extractLsb' 8 1) == 1#1) (fF.extractLsb' 5 3) sc') else .error .illegalField else .error .reservedField
  | 2 => if fD == 0#5 && fF.extractLsb' 9 1 == 0#1 then if fncOk (fF.extractLsb' 8 1 == 1#1) (fF.extractLsb' 5 3) fA fB then (AgentScope.dec (fF.extractLsb' 2 3)).bind fun sc' => .ok (.fncRel sw (Src.dec fA) (Src.dec fB) ((fF.extractLsb' 8 1) == 1#1) (fF.extractLsb' 5 3) sc') else .error .illegalField else .error .reservedField
  | 3 => if fD == 0#5 && fF.extractLsb' 9 1 == 0#1 then if fncOk (fF.extractLsb' 8 1 == 1#1) (fF.extractLsb' 5 3) fA fB && (fF.extractLsb' 6 1 == 1#1) then (AgentScope.dec (fF.extractLsb' 2 3)).bind fun sc' => .ok (.fncReg sw (Src.dec fA) (Src.dec fB) ((fF.extractLsb' 8 1) == 1#1) (fF.extractLsb' 5 3) sc') else .error .illegalField else .error .reservedField
  | _ => .error .illegalFunction

/-- Major 0x19 (R49, R52). -/
def decMemx (sw : Bool) (fD fA fB : BitVec 5) (fF : BitVec 10) : Except Reject Instr :=
  match (fF.extractLsb' 0 4).toNat with
  | 0 => if fD == 0#5 && fF.extractLsb' 4 6 == 0#6 then .ok (.pref sw (Src.dec fA) (Src.dec fB)) else .error .reservedField
  | 1 => if fF.extractLsb' 4 6 == 0#6 then (decDest fD).bind fun d' => .ok (.mwait sw d' (Src.dec fA) (Src.dec fB)) else .error .reservedField
  | 2 => if fD == 0#5 && fA == 0#5 && fF.extractLsb' 8 2 == 0#2 then .ok (.cwait sw fB (fF.extractLsb' 4 4).toFin) else .error .reservedField
  | 3 => if fD == 0#5 && fB == 0#5 && fF.extractLsb' 8 2 == 0#2 then .ok (.cinc sw (Src.dec fA) (fF.extractLsb' 4 4).toFin) else .error .reservedField
  | 4 => if fA == 0#5 && fB == 0#5 && fF.extractLsb' 8 2 == 0#2 then (decDest fD).bind fun d' => .ok (.crd sw d' (fF.extractLsb' 4 4).toFin) else .error .reservedField
  | _ => .error .illegalFunction

/-- Major 0x1A (R49, R52). -/
def decFp (sw : Bool) (fD fA fB : BitVec 5) (fF : BitVec 10) : Except Reject Instr :=
  match (fF.extractLsb' 0 4).toNat with
  | 0 => if fF.extractLsb' 8 2 == 0#2 then (decDest fD).bind fun d' => (Rnd.dec (fF.extractLsb' 5 3)).bind fun rm' => .ok (.fadd sw d' (Src.dec fA) (Src.dec fB) rm' (Prec.dec (fF.extractLsb' 4 1))) else .error .reservedField
  | 1 => if fF.extractLsb' 8 2 == 0#2 then (decDest fD).bind fun d' => (Rnd.dec (fF.extractLsb' 5 3)).bind fun rm' => .ok (.fsub sw d' (Src.dec fA) (Src.dec fB) rm' (Prec.dec (fF.extractLsb' 4 1))) else .error .reservedField
  | 2 => if fF.extractLsb' 8 2 == 0#2 then (decDest fD).bind fun d' => (Rnd.dec (fF.extractLsb' 5 3)).bind fun rm' => .ok (.fmul sw d' (Src.dec fA) (Src.dec fB) rm' (Prec.dec (fF.extractLsb' 4 1))) else .error .reservedField
  | 3 => if fF.extractLsb' 8 2 == 0#2 then (decDest fD).bind fun d' => (Rnd.dec (fF.extractLsb' 5 3)).bind fun rm' => .ok (.fdiv sw d' (Src.dec fA) (Src.dec fB) rm' (Prec.dec (fF.extractLsb' 4 1))) else .error .reservedField
  | 4 => if fB == 0#5 && fF.extractLsb' 8 2 == 0#2 then (decDest fD).bind fun d' => (Rnd.dec (fF.extractLsb' 5 3)).bind fun rm' => .ok (.fsqrt sw d' (Src.dec fA) rm' (Prec.dec (fF.extractLsb' 4 1))) else .error .reservedField
  | 5 => if fF.extractLsb' 8 2 == 0#2 then (Rnd.dec (fF.extractLsb' 5 3)).bind fun rm' => .ok (.fma sw (Src.dec fD) (Src.dec fA) (Src.dec fB) rm' (Prec.dec (fF.extractLsb' 4 1))) else .error .reservedField
  | 6 => if fF.extractLsb' 5 5 == 0#5 then (decDest fD).bind fun d' => .ok (.fmin sw d' (Src.dec fA) (Src.dec fB) (Prec.dec (fF.extractLsb' 4 1))) else .error .reservedField
  | 7 => if fF.extractLsb' 5 5 == 0#5 then (decDest fD).bind fun d' => .ok (.fmax sw d' (Src.dec fA) (Src.dec fB) (Prec.dec (fF.extractLsb' 4 1))) else .error .reservedField
  | 8 => if fF.extractLsb' 5 3 == 0#3 then (decDest fD).bind fun d' => .ok (.fcmp sw d' (Src.dec fA) (Src.dec fB) (FPred.dec (fF.extractLsb' 8 2)) (Prec.dec (fF.extractLsb' 4 1))) else .error .reservedField
  | 9 => if fB == 0#5 then (decDest fD).bind fun d' => (Rnd.dec (fF.extractLsb' 5 3)).bind fun rm' => .ok (.fcvt sw d' (Src.dec fA) (CvtKind.dec (fF.extractLsb' 8 2)) rm' (Prec.dec (fF.extractLsb' 4 1))) else .error .reservedField
  | 10 => if fB == 0#5 && fF.extractLsb' 5 5 == 0#5 then (decDest fD).bind fun d' => .ok (.fclass sw d' (Src.dec fA) (Prec.dec (fF.extractLsb' 4 1))) else .error .reservedField
  | _ => .error .illegalFunction

/-- Major 0x1B (R49, R52). -/
def decVfp (sw : Bool) (fVd fVa fVb fVc fE : BitVec 3) (fM : BitVec 2) (fQ : BitVec 1) (fF : BitVec 7) : Except Reject Instr :=
  match fF.toNat with
  | 0 => if fVc == 0#3 then .ok (.vaddFp sw fVd.toFin fVa.toFin fVb.toFin (EType.dec fE) fM.toFin (fQ == 1#1)) else .error .reservedField
  | 1 => if fVc == 0#3 then .ok (.vsubFp sw fVd.toFin fVa.toFin fVb.toFin (EType.dec fE) fM.toFin (fQ == 1#1)) else .error .reservedField
  | 2 => if fVc == 0#3 then .ok (.vmulFp sw fVd.toFin fVa.toFin fVb.toFin (EType.dec fE) fM.toFin (fQ == 1#1)) else .error .reservedField
  | 3 => .ok (.vfma sw fVd.toFin fVa.toFin fVb.toFin fVc.toFin (EType.dec fE) fM.toFin (fQ == 1#1))
  | 4 => .ok (.vfnma sw fVd.toFin fVa.toFin fVb.toFin fVc.toFin (EType.dec fE) fM.toFin (fQ == 1#1))
  | 5 => if fVc == 0#3 then .ok (.vdiv sw fVd.toFin fVa.toFin fVb.toFin (EType.dec fE) fM.toFin (fQ == 1#1)) else .error .reservedField
  | 6 => if fVb == 0#3 && fVc == 0#3 then .ok (.vsqrt sw fVd.toFin fVa.toFin (EType.dec fE) fM.toFin (fQ == 1#1)) else .error .reservedField
  | 7 => if fVb == 0#3 && fVc == 0#3 then .ok (.vrsq sw fVd.toFin fVa.toFin (EType.dec fE) fM.toFin (fQ == 1#1)) else .error .reservedField
  | 8 => if fVb == 0#3 && fVc == 0#3 then .ok (.vexp2 sw fVd.toFin fVa.toFin (EType.dec fE) fM.toFin (fQ == 1#1)) else .error .reservedField
  | 9 => if fVb == 0#3 && fVc == 0#3 then .ok (.vlog2 sw fVd.toFin fVa.toFin (EType.dec fE) fM.toFin (fQ == 1#1)) else .error .reservedField
  | 10 => if fVc == 0#3 then .ok (.vminFp sw fVd.toFin fVa.toFin fVb.toFin (EType.dec fE) fM.toFin (fQ == 1#1)) else .error .reservedField
  | 11 => if fVc == 0#3 then .ok (.vmaxFp sw fVd.toFin fVa.toFin fVb.toFin (EType.dec fE) fM.toFin (fQ == 1#1)) else .error .reservedField
  | 12 => if fVb == 0#3 && fVc == 0#3 then .ok (.vabsFp sw fVd.toFin fVa.toFin (EType.dec fE) fM.toFin (fQ == 1#1)) else .error .reservedField
  | 13 => if fVb == 0#3 && fVc == 0#3 then .ok (.vnegFp sw fVd.toFin fVa.toFin (EType.dec fE) fM.toFin (fQ == 1#1)) else .error .reservedField
  | _ => .error .illegalFunction

/-- Major 0x1C (R49, R52). -/
def decVint (sw : Bool) (fVd fVa fVb fVc fE : BitVec 3) (fM : BitVec 2) (fQ : BitVec 1) (fF : BitVec 7) : Except Reject Instr :=
  match fF.toNat with
  | 0 => if fVc == 0#3 then .ok (.vaddInt sw fVd.toFin fVa.toFin fVb.toFin (EType.dec fE) fM.toFin (fQ == 1#1)) else .error .reservedField
  | 1 => if fVc == 0#3 then .ok (.vsubInt sw fVd.toFin fVa.toFin fVb.toFin (EType.dec fE) fM.toFin (fQ == 1#1)) else .error .reservedField
  | 2 => if fVc == 0#3 then .ok (.vmulInt sw fVd.toFin fVa.toFin fVb.toFin (EType.dec fE) fM.toFin (fQ == 1#1)) else .error .reservedField
  | 3 => if fVc == 0#3 then .ok (.vminInt sw fVd.toFin fVa.toFin fVb.toFin (EType.dec fE) fM.toFin (fQ == 1#1)) else .error .reservedField
  | 4 => if fVc == 0#3 then .ok (.vmaxInt sw fVd.toFin fVa.toFin fVb.toFin (EType.dec fE) fM.toFin (fQ == 1#1)) else .error .reservedField
  | 5 => if fVc == 0#3 then .ok (.vminu sw fVd.toFin fVa.toFin fVb.toFin (EType.dec fE) fM.toFin (fQ == 1#1)) else .error .reservedField
  | 6 => if fVc == 0#3 then .ok (.vmaxu sw fVd.toFin fVa.toFin fVb.toFin (EType.dec fE) fM.toFin (fQ == 1#1)) else .error .reservedField
  | 7 => if fVb == 0#3 && fVc == 0#3 then .ok (.vabsInt sw fVd.toFin fVa.toFin (EType.dec fE) fM.toFin (fQ == 1#1)) else .error .reservedField
  | 8 => if fVb == 0#3 && fVc == 0#3 then .ok (.vnegInt sw fVd.toFin fVa.toFin (EType.dec fE) fM.toFin (fQ == 1#1)) else .error .reservedField
  | 9 => if fVc == 0#3 then .ok (.vand sw fVd.toFin fVa.toFin fVb.toFin (EType.dec fE) fM.toFin (fQ == 1#1)) else .error .reservedField
  | 10 => if fVc == 0#3 then .ok (.vor sw fVd.toFin fVa.toFin fVb.toFin (EType.dec fE) fM.toFin (fQ == 1#1)) else .error .reservedField
  | 11 => if fVc == 0#3 then .ok (.vxor sw fVd.toFin fVa.toFin fVb.toFin (EType.dec fE) fM.toFin (fQ == 1#1)) else .error .reservedField
  | 12 => if fVb == 0#3 && fVc == 0#3 then .ok (.vnot sw fVd.toFin fVa.toFin (EType.dec fE) fM.toFin (fQ == 1#1)) else .error .reservedField
  | 13 => if fVc == 0#3 then .ok (.vshl sw fVd.toFin fVa.toFin fVb.toFin (EType.dec fE) fM.toFin (fQ == 1#1)) else .error .reservedField
  | 14 => if fVc == 0#3 then .ok (.vshr sw fVd.toFin fVa.toFin fVb.toFin (EType.dec fE) fM.toFin (fQ == 1#1)) else .error .reservedField
  | 15 => if fVc == 0#3 then .ok (.vsra sw fVd.toFin fVa.toFin fVb.toFin (EType.dec fE) fM.toFin (fQ == 1#1)) else .error .reservedField
  | _ => .error .illegalFunction

/-- Major 0x1D (R49, R52). -/
def decVmem (sw : Bool) (fVd fVa : BitVec 3) (fS : BitVec 5) (fZ : BitVec 1) (fE : BitVec 3) (fM : BitVec 2) (fQ : BitVec 1) (fF : BitVec 7) : Except Reject Instr :=
  match fF.toNat with
  | 0 => if fVa == 0#3 && fZ == 0#1 then .ok (.vld sw fVd.toFin (Src.dec fS) (EType.dec fE) fM.toFin (fQ == 1#1)) else .error .reservedField
  | 1 => if fVa == 0#3 && fZ == 0#1 then .ok (.vst sw fVd.toFin (Src.dec fS) (EType.dec fE) fM.toFin (fQ == 1#1)) else .error .reservedField
  | 2 => if fVa == 0#3 && fZ == 0#1 then .ok (.vldg sw fVd.toFin (Src.dec fS) (EType.dec fE) fM.toFin (fQ == 1#1)) else .error .reservedField
  | 3 => if fVa == 0#3 && fZ == 0#1 then .ok (.vstg sw fVd.toFin (Src.dec fS) (EType.dec fE) fM.toFin (fQ == 1#1)) else .error .reservedField
  | 4 => if fZ == 0#1 then .ok (.vgath sw fVd.toFin fVa.toFin (Src.dec fS) (EType.dec fE) fM.toFin (fQ == 1#1)) else .error .reservedField
  | 5 => if fZ == 0#1 then .ok (.vscat sw fVd.toFin fVa.toFin (Src.dec fS) (EType.dec fE) fM.toFin (fQ == 1#1)) else .error .reservedField
  | _ => .error .illegalFunction

/-- The two VMISC instructions of format VS (R230). -/
def decVmiscS (sw : Bool) (fVd fVa : BitVec 3) (fS : BitVec 5) (fZ : BitVec 1) (fE : BitVec 3) (fM : BitVec 2) (fQ : BitVec 1) (fF : BitVec 7) : Except Reject Instr :=
  match fF.toNat with
  | 0 => if fVa == 0#3 && fZ == 0#1 then .ok (.vbc sw fVd.toFin (Src.dec fS) (EType.dec fE) fM.toFin (fQ == 1#1)) else .error .reservedField
  | 1 => if fVd == 0#3 && fZ == 0#1 && fM == 0#2 then .ok (.vext sw fVa.toFin (Src.dec fS) (EType.dec fE) (fQ == 1#1)) else .error .reservedField
  | _ => .error .illegalFunction

/-- The VMISC instructions of format V (R230). -/
def decVmiscV (sw : Bool) (fVd fVa fVb fVc fE : BitVec 3) (fM : BitVec 2) (fQ : BitVec 1) (fF : BitVec 7) : Except Reject Instr :=
  match fF.toNat with
  | 2 => if fVb == 0#3 && fVc == 0#3 then .ok (.vmov sw fVd.toFin fVa.toFin (EType.dec fE) fM.toFin (fQ == 1#1)) else .error .reservedField
  | 3 => .ok (.vcmp sw fVd.toFin fVa.toFin fVb.toFin (VCond.dec fVc) (EType.dec fE) fM.toFin (fQ == 1#1))
  | 4 => if fVc == 0#3 then .ok (.vsel sw fVd.toFin fVa.toFin fVb.toFin (EType.dec fE) fM.toFin (fQ == 1#1)) else .error .reservedField
  | 5 => .ok (.vcvt sw fVd.toFin fVa.toFin fVb (EType.dec fVc) (EType.dec fE) fM.toFin (fQ == 1#1))
  | 6 => if fVd == 0#3 && fVb == 0#3 then (RedOp.dec fVc).bind fun op' => .ok (.vred sw fVa.toFin op' (EType.dec fE) fM.toFin (fQ == 1#1)) else .error .reservedField
  | 7 => if fVb == 0#3 then (ScanOp.dec fVc).bind fun op' => .ok (.vscan sw fVd.toFin fVa.toFin op' (EType.dec fE) fM.toFin (fQ == 1#1)) else .error .reservedField
  | 8 => if fVb == 0#3 && fVc == 0#3 then .ok (.vcmpr sw fVd.toFin fVa.toFin (EType.dec fE) fM.toFin (fQ == 1#1)) else .error .reservedField
  | 9 => if fVb == 0#3 && fVc == 0#3 then .ok (.vexpd sw fVd.toFin fVa.toFin (EType.dec fE) fM.toFin (fQ == 1#1)) else .error .reservedField
  | 10 => if fVc == 0#3 then .ok (.vperm sw fVd.toFin fVa.toFin fVb.toFin (EType.dec fE) fM.toFin (fQ == 1#1)) else .error .reservedField
  | 11 => if fVa == 0#3 && fVb == 0#3 && fVc == 0#3 then .ok (.viota sw fVd.toFin (EType.dec fE) fM.toFin (fQ == 1#1)) else .error .reservedField
  | 12 => if fVd == 0#3 && fVa == 0#3 && fVb == 0#3 && fVc == 0#3 then .ok (.vcnt sw (EType.dec fE) fM.toFin (fQ == 1#1)) else .error .reservedField
  | 13 => if fM == 0#2 then if mskOk fVc fVb then (MskOp.dec fVc).bind fun op' => .ok (.vmsk sw fVd.toFin fVa.toFin fVb.toFin op' (EType.dec fE) (fQ == 1#1)) else .error .illegalField else .error .reservedField
  | 14 => if fVb == 0#3 && fVc == 0#3 then .ok (.vamax sw fVd.toFin fVa.toFin (EType.dec fE) fM.toFin (fQ == 1#1)) else .error .reservedField
  | 15 => (Narrow.dec fVc).bind fun nf' => .ok (.vqnt sw fVd.toFin fVa.toFin fVb nf' (EType.dec fE) fM.toFin (fQ == 1#1))
  | 16 => (Narrow.dec fVc).bind fun nf' => .ok (.vdq sw fVd.toFin fVa.toFin fVb nf' (EType.dec fE) fM.toFin (fQ == 1#1))
  | 17 => if fVa == 0#3 && fVb == 0#3 && fVc == 0#3 then if fE == 4#3 then .ok (.vflrd sw fVd.toFin fM.toFin (fQ == 1#1)) else .error .illegalEtype else .error .reservedField
  | 18 => if fVd == 0#3 && fVa == 0#3 && fVb == 0#3 && fVc == 0#3 then if fE == 4#3 then .ok (.vflcl sw fM.toFin (fQ == 1#1)) else .error .illegalEtype else .error .reservedField
  | 19 => .ok (.vcvtz sw fVd.toFin fVa.toFin fVb (EType.dec fVc) (EType.dec fE) fM.toFin (fQ == 1#1))
  | _ => .error .illegalFunction

/-- Major 0x20 (R49, R48, R52). -/
def decTile (sw : Bool) (fA fB : BitVec 5) (fK : BitVec 4) (fT : BitVec 1) (fY : BitVec 5) (fU : BitVec 5) : Except Reject Instr :=
  match fU.toNat with
  | 0 => if fY.extractLsb' 1 4 == 0#4 then .ok (.tld sw (Src.dec fA) (Src.dec fB) fK.toFin (fT == 1#1) ((fY.extractLsb' 0 1) == 1#1)) else .error .reservedField
  | 1 => if fB == 0#5 && fT == 0#1 && fY.extractLsb' 4 1 == 0#1 then .ok (.tldv sw (Src.dec fA) fK.toFin (fY.extractLsb' 1 3).toFin ((fY.extractLsb' 0 1) == 1#1)) else .error .reservedField
  | 2 => if fY == 0#5 then .ok (.tst sw (Src.dec fA) (Src.dec fB) fK.toFin (fT == 1#1)) else .error .reservedField
  | 3 => if fY.extractLsb' 0 1 == 0#1 && fY.extractLsb' 4 1 == 0#1 then .ok (.tstv sw (Src.dec fA) (Src.dec fB) fK.toFin (fT == 1#1) (fY.extractLsb' 1 3).toFin) else .error .reservedField
  | 4 => if fY == 0#5 then .ok (.talias sw (Src.dec fA) (Src.dec fB) fK.toFin (fT == 1#1)) else .error .reservedField
  | 5 => if fB == 0#5 && fY == 0#5 then .ok (.twait sw (Src.dec fA) fK.toFin (fT == 1#1)) else .error .reservedField
  | 6 => if fB == 0#5 && fY == 0#5 then .ok (.tprobe sw (Src.dec fA) fK.toFin (fT == 1#1)) else .error .reservedField
  | 7 => if fY == 0#5 then .ok (.tadd sw (Src.dec fA) (Src.dec fB) fK.toFin (fT == 1#1)) else .error .reservedField
  | 8 => if fY == 0#5 then .ok (.trel sw (Src.dec fA) (Src.dec fB) fK.toFin (fT == 1#1)) else .error .reservedField
  | 9 => if fB == 0#5 && fY.extractLsb' 1 4 == 0#4 then .ok (.tdig sw (Src.dec fA) fK.toFin (fT == 1#1) ((fY.extractLsb' 0 1) == 1#1)) else .error .reservedField
  | 10 => if fB == 0#5 && fY == 0#5 then .ok (.tinfo sw (Src.dec fA) fK.toFin (fT == 1#1)) else .error .reservedField
  | 11 => if fY == 0#5 then .ok (.tspace sw (Src.dec fA) (Src.dec fB) fK.toFin (fT == 1#1)) else .error .reservedField
  | 12 => if fY == 0#5 then .ok (.timp sw (Src.dec fA) (Src.dec fB) fK.toFin (fT == 1#1)) else .error .reservedField
  | 13 => if fY.extractLsb' 1 4 == 0#4 then .ok (.texp sw (Src.dec fA) (Src.dec fB) fK.toFin (fT == 1#1) ((fY.extractLsb' 0 1) == 1#1)) else .error .reservedField
  | _ => .error .illegalFunction

/-- MCMP: modifier 1 keeps four of 8, modifier 2 two of 8 (R211); 0 and 3 are ILLEGAL_OPCODE. -/
def decMcmp (sw : Bool) (fA fB : BitVec 5) (fK : BitVec 4) (fT : BitVec 1) (fY : BitVec 5) : Except Reject Instr :=
  if fY.extractLsb' 0 2 == 1#2 then .ok (.mcmp sw (Src.dec fA) (Src.dec fB) fK.toFin (fT == 1#1) false)
  else if fY.extractLsb' 0 2 == 2#2 then .ok (.mcmp sw (Src.dec fA) (Src.dec fB) fK.toFin (fT == 1#1) true)
  else .error .illegalField

/-- Major 0x21 (R49, R48, R52). -/
def decMx (sw : Bool) (fA fB : BitVec 5) (fK : BitVec 4) (fT : BitVec 1) (fY : BitVec 5) (fU : BitVec 5) : Except Reject Instr :=
  match fU.toNat with
  | 0 => if fK == 0#4 && fT == 0#1 && fY == 0#5 then .ok (.mset sw (Src.dec fA) (Src.dec fB)) else .error .reservedField
  | 1 => if fB == 0#5 && fK == 0#4 && fT == 0#1 && fY == 0#5 then .ok (.mget sw (Src.dec fA)) else .error .reservedField
  | 2 => if fY == 0#5 then .ok (.mldb sw (Src.dec fA) (Src.dec fB) fK.toFin (fT == 1#1)) else .error .reservedField
  | 3 => if fT == 0#1 && fY == 0#5 then .ok (.mmul sw (Src.dec fA) (Src.dec fB) fK.toFin) else .error .reservedField
  | 4 => if fY.extractLsb' 1 4 == 0#4 then .ok (.mclr sw (Src.dec fA) (Src.dec fB) fK.toFin (fT == 1#1) ((fY.extractLsb' 0 1) == 1#1)) else .error .reservedField
  | 5 => if fY == 0#5 then .ok (.mrdTile sw (Src.dec fA) (Src.dec fB) fK.toFin (fT == 1#1)) else .ok (.mrd sw (Src.dec fA) (Src.dec fB) fK.toFin (fT == 1#1) fY)
  | 6 => .ok (.mwr sw (Src.dec fA) (Src.dec fB) fK.toFin (fT == 1#1) fY)
  | 7 => if fB == 0#5 then (MRedOp.dec (fY.extractLsb' 0 2)).bind fun op' => .ok (.mred sw (Src.dec fA) fK.toFin (fT == 1#1) (fY.extractLsb' 2 3).toFin op') else .error .reservedField
  | 8 => if fB == 0#5 && fY.extractLsb' 0 2 == 0#2 then .ok (.mscr sw (Src.dec fA) fK.toFin (fT == 1#1) (fY.extractLsb' 2 3).toFin) else .error .reservedField
  | 9 => if fB == 0#5 && fY.extractLsb' 0 2 == 0#2 then .ok (.mscc sw (Src.dec fA) fK.toFin (fT == 1#1) (fY.extractLsb' 2 3).toFin) else .error .reservedField
  | 10 => if fY.extractLsb' 2 3 == 0#3 then decMcmp sw fA fB fK fT fY else .error .reservedField
  | 11 => if fB == 0#5 && fY == 0#5 then .ok (.mstat sw (Src.dec fA) fK.toFin (fT == 1#1)) else .error .reservedField
  | _ => .error .illegalFunction

/-- Major 0x22 (R49, R48, R52). -/
def decCp (sw : Bool) (fA fB : BitVec 5) (fK : BitVec 4) (fT : BitVec 1) (fY : BitVec 5) (fU : BitVec 5) : Except Reject Instr :=
  match fU.toNat with
  | 0 => if fK == 0#4 && fT == 0#1 && fY == 0#5 then .ok (.cset sw (Src.dec fA) (Src.dec fB)) else .error .reservedField
  | 1 => if fY == 0#5 then .ok (.cpy sw (Src.dec fA) (Src.dec fB) fK.toFin (fT == 1#1)) else .error .reservedField
  | 2 => match fY.toNat with
    | 0 => .ok (.cpyg sw (Src.dec fA) (Src.dec fB) fK.toFin (fT == 1#1))
    | 1 => .ok (.cpygOut sw (Src.dec fA) (Src.dec fB) fK.toFin (fT == 1#1))
    | _ => .error .reservedField
  | 3 => match fY.toNat with
    | 0 => .ok (.cpyd sw (Src.dec fA) (Src.dec fB) fK.toFin (fT == 1#1))
    | 1 => .ok (.cpydLoc sw (Src.dec fA) (Src.dec fB) fK.toFin (fT == 1#1))
    | _ => .error .reservedField
  | 4 => match fY.toNat with
    | 0 => .ok (.cfil sw (Src.dec fA) (Src.dec fB) fK.toFin (fT == 1#1))
    | 1 => .ok (.cfilG sw (Src.dec fA) (Src.dec fB) fK.toFin (fT == 1#1))
    | _ => .error .reservedField
  | _ => .error .illegalFunction

/-- Major 0x23 (R49, R48, R52). -/
def decTask (sw : Bool) (fA fB : BitVec 5) (fK : BitVec 4) (fT : BitVec 1) (fY : BitVec 5) (fU : BitVec 5) : Except Reject Instr :=
  match fU.toNat with
  | 0 => if fK == 0#4 && fT == 0#1 && fY == 0#5 then .ok (.spawn sw (Src.dec fA) (Src.dec fB)) else .error .reservedField
  | 1 => if fK == 0#4 && fT == 0#1 && fY == 0#5 then .ok (.spawnp sw (Src.dec fA) (Src.dec fB)) else .error .reservedField
  | 2 => if fK == 0#4 && fT == 0#1 && fY == 0#5 then .ok (.spawng sw (Src.dec fA) (Src.dec fB)) else .error .reservedField
  | 3 => if fA == 0#5 && fB == 0#5 && fK == 0#4 && fT == 0#1 && fY == 0#5 then .ok (.quit sw) else .error .reservedField
  | 4 => if fB == 0#5 && fK == 0#4 && fT == 0#1 && fY == 0#5 then .ok (.join sw (Src.dec fA)) else .error .reservedField
  | 5 => if fA == 0#5 && fB == 0#5 && fK == 0#4 && fT == 0#1 && fY == 0#5 then .ok (.trig sw) else .error .reservedField
  | 6 => if fA == 0#5 && fB == 0#5 && fK == 0#4 && fT == 0#1 && fY == 0#5 then .ok (.yield sw) else .error .reservedField
  | 7 => if fB == 0#5 && fK == 0#4 && fT == 0#1 && fY.extractLsb' 1 4 == 0#4 then .ok (.sleep sw (Src.dec fA) ((fY.extractLsb' 0 1) == 1#1)) else .error .reservedField
  | _ => .error .illegalFunction


/-- BR: B is reserved for Z and NZ (R46). -/
def decBr (sw : Bool) (fA fB : BitVec 5) (fW : BitVec 3) (fI : BitVec 12) : Except Reject Instr :=
  if fW.toNat < 6 || fB == 0#5 then .ok (.br sw (Cond.dec fW) (Src.dec fA) (Src.dec fB) fI) else .error .reservedField

/-- The immediates 0x05 to 0x07 reserve imm15[14:6] (R65). -/
def decShift (mk : BitVec 6 → Instr) (fI : BitVec 15) : Except Reject Instr :=
  if fI.extractLsb' 6 9 == 0#9 then .ok (mk (fI.extractLsb' 0 6)) else .error .reservedField

/-- Major 0x25 (R49, R340). -/
def decCtl (sw : Bool) (fD fA : BitVec 5) (fW : BitVec 1) (fZ : BitVec 2) (fI : BitVec 12) : Except Reject Instr :=
  if fZ == 0#2 then
    if fW == 1#1 then
      if fD == 0#5 then (CReg.dec fI).bind fun cr => .ok (.ctlwr sw (Src.dec fA) cr) else .error .reservedField
    else if fA == 0#5 then (CReg.dec fI).bind fun cr => (decDest fD).bind fun d => .ok (.ctlrd sw d cr)
    else .error .reservedField
  else .error .reservedField

/-- Format R of a word. -/
def viaR (w : IWord) (k : Bool → BitVec 5 → BitVec 5 → BitVec 5 → BitVec 10 → Except Reject Instr) : Except Reject Instr :=
  k (w.extractLsb' 31 1 == 1#1) (w.extractLsb' 20 5) (w.extractLsb' 15 5) (w.extractLsb' 10 5) (w.extractLsb' 0 10)

/-- Format I of a word. -/
def viaI (w : IWord) (k : Bool → BitVec 5 → BitVec 5 → BitVec 15 → Except Reject Instr) : Except Reject Instr :=
  k (w.extractLsb' 31 1 == 1#1) (w.extractLsb' 20 5) (w.extractLsb' 15 5) (w.extractLsb' 0 15)

/-- Format L of a word. -/
def viaL (w : IWord) (k : Bool → BitVec 5 → BitVec 20 → Except Reject Instr) : Except Reject Instr :=
  k (w.extractLsb' 31 1 == 1#1) (w.extractLsb' 20 5) (w.extractLsb' 0 20)

/-- Formats M, S and B of a word. -/
def viaM (w : IWord) (k : Bool → BitVec 5 → BitVec 5 → BitVec 3 → BitVec 12 → Except Reject Instr) : Except Reject Instr :=
  k (w.extractLsb' 31 1 == 1#1) (w.extractLsb' 20 5) (w.extractLsb' 15 5) (w.extractLsb' 12 3) (w.extractLsb' 0 12)

/-- Format J of a word. -/
def viaJ (w : IWord) (k : Bool → BitVec 25 → Except Reject Instr) : Except Reject Instr :=
  k (w.extractLsb' 31 1 == 1#1) (w.extractLsb' 0 25)

/-- Format V of a word. -/
def viaV (w : IWord) (k : Bool → BitVec 3 → BitVec 3 → BitVec 3 → BitVec 3 → BitVec 3 → BitVec 2 → BitVec 1 → BitVec 7 →
    Except Reject Instr) : Except Reject Instr :=
  k (w.extractLsb' 31 1 == 1#1) (w.extractLsb' 22 3) (w.extractLsb' 19 3) (w.extractLsb' 16 3) (w.extractLsb' 13 3)
    (w.extractLsb' 10 3) (w.extractLsb' 8 2) (w.extractLsb' 7 1) (w.extractLsb' 0 7)

/-- Format VS of a word. -/
def viaVS (w : IWord) (k : Bool → BitVec 3 → BitVec 3 → BitVec 5 → BitVec 1 → BitVec 3 → BitVec 2 → BitVec 1 → BitVec 7 →
    Except Reject Instr) : Except Reject Instr :=
  k (w.extractLsb' 31 1 == 1#1) (w.extractLsb' 22 3) (w.extractLsb' 19 3) (w.extractLsb' 14 5) (w.extractLsb' 13 1)
    (w.extractLsb' 10 3) (w.extractLsb' 8 2) (w.extractLsb' 7 1) (w.extractLsb' 0 7)

/-- Format X of a word. -/
def viaX (w : IWord) (k : Bool → BitVec 5 → BitVec 5 → BitVec 4 → BitVec 1 → BitVec 5 → BitVec 5 → Except Reject Instr) :
    Except Reject Instr :=
  k (w.extractLsb' 31 1 == 1#1) (w.extractLsb' 20 5) (w.extractLsb' 15 5) (w.extractLsb' 6 4) (w.extractLsb' 5 1)
    (w.extractLsb' 0 5) (w.extractLsb' 10 5)

/-- Format C of a word. -/
def viaC (w : IWord) (k : Bool → BitVec 5 → BitVec 5 → BitVec 1 → BitVec 2 → BitVec 12 → Except Reject Instr) :
    Except Reject Instr :=
  k (w.extractLsb' 31 1 == 1#1) (w.extractLsb' 20 5) (w.extractLsb' 15 5) (w.extractLsb' 14 1) (w.extractLsb' 12 2)
    (w.extractLsb' 0 12)

/-- Major 0x1E: functions 0 and 1 have format VS, the others format V (R49). -/
def decVmisc (w : IWord) : Except Reject Instr :=
  if (w.extractLsb' 0 7).toNat < 2 then viaVS w decVmiscS else viaV w decVmiscV

/-- The instruction of a word, by its major opcode (R46, R49, R52). -/
def decodeWord (w : IWord) : Except Reject Instr :=
  match (w.extractLsb' 25 6).toNat with
  | 0x00 => viaR w decSys
  | 0x01 => viaR w decInt
  | 0x02 => viaI w fun sw fD fA fI => (decDest fD).bind fun d => .ok (.addi sw d (Src.dec fA) fI)
  | 0x03 => viaI w fun sw fD fA fI => (decDest fD).bind fun d => .ok (.andi sw d (Src.dec fA) fI)
  | 0x04 => viaI w fun sw fD fA fI => (decDest fD).bind fun d => .ok (.ori sw d (Src.dec fA) fI)
  | 0x05 => viaI w fun sw fD fA fI => (decDest fD).bind fun d => .ok (.xori sw d (Src.dec fA) fI)
  | 0x06 => viaI w fun sw fD fA fI => (decDest fD).bind fun d => decShift (.shli sw d (Src.dec fA)) fI
  | 0x07 => viaI w fun sw fD fA fI => (decDest fD).bind fun d => decShift (.shri sw d (Src.dec fA)) fI
  | 0x08 => viaI w fun sw fD fA fI => (decDest fD).bind fun d => decShift (.srai sw d (Src.dec fA)) fI
  | 0x09 => viaI w fun sw fD fA fI => (decDest fD).bind fun d => .ok (.slti sw d (Src.dec fA) fI)
  | 0x0A => viaI w fun sw fD fA fI => (decDest fD).bind fun d => .ok (.sltiu sw d (Src.dec fA) fI)
  | 0x0B => viaL w fun sw fD fI => (decDest fD).bind fun d => .ok (.ldi sw d fI)
  | 0x0C => viaL w fun sw fD fI => (decDest fD).bind fun d => .ok (.ldpc sw d fI)
  | 0x0D => viaR w decHnd
  | 0x0E => viaM w decBr
  | 0x0F => viaJ w fun sw fI => .ok (.j sw fI)
  | 0x10 => viaJ w fun sw fI => .ok (.call sw fI)
  | 0x11 => viaR w decJr
  | 0x12 => viaM w fun sw fD fA fW fI => (decDest fD).bind fun d => (LdWidth.dec fW).bind fun wd => .ok (.ld sw d (Src.dec fA) wd fI)
  | 0x13 => viaM w fun sw fD fA fW fI => (StWidth.dec fW).bind fun wd => .ok (.st sw (Src.dec fD) (Src.dec fA) wd fI)
  | 0x14 => viaM w fun sw fD fA fW fI => (decDest fD).bind fun d => (LdWidth.dec fW).bind fun wd => .ok (.ldl sw d (Src.dec fA) wd fI)
  | 0x15 => viaM w fun sw fD fA fW fI => (StWidth.dec fW).bind fun wd => .ok (.stl sw (Src.dec fD) (Src.dec fA) wd fI)
  | 0x16 => viaR w decAmo
  | 0x17 => viaR w decCas
  | 0x18 => viaR w decFnc
  | 0x19 => viaR w decMemx
  | 0x1A => viaR w decFp
  | 0x1B => viaV w decVfp
  | 0x1C => viaV w decVint
  | 0x1D => viaVS w decVmem
  | 0x1E => decVmisc w
  | 0x20 => viaX w decTile
  | 0x21 => viaX w decMx
  | 0x22 => viaX w decCp
  | 0x23 => viaX w decTask
  | 0x24 => viaI w fun sw fD fA fI => if fD == 0#5 then .ok (.ppt sw (Src.dec fA) fI) else .error .reservedField
  | 0x25 => viaC w decCtl
  | _ => .error .illegalMajor

/-- The word of four bytes in memory, little-endian (R46). -/
def wordOfBytes (b0 b1 b2 b3 : Byte) : IWord := b3 ++ b2 ++ b1 ++ b0

/-- Decoding of bytes: the instruction and the bytes after it. -/
def decode : List Byte → Except Reject (Instr × List Byte)
  | b0 :: b1 :: b2 :: b3 :: rest => (decodeWord (wordOfBytes b0 b1 b2 b3)).map fun i => (i, rest)
  | _ => .error .illegalField

/-- A word of format R: S, major, D, A, B, F. -/
def packR (sw : Bool) (mj : BitVec 6) (d a b : BitVec 5) (f : BitVec 10) : IWord :=
  BitVec.ofBool sw ++ mj ++ d ++ a ++ b ++ f

/-- A word of format I. -/
def packI (sw : Bool) (mj : BitVec 6) (d a : BitVec 5) (i : BitVec 15) : IWord :=
  BitVec.ofBool sw ++ mj ++ d ++ a ++ i

/-- A word of format L. -/
def packL (sw : Bool) (mj : BitVec 6) (d : BitVec 5) (i : BitVec 20) : IWord :=
  BitVec.ofBool sw ++ mj ++ d ++ i

/-- A word of formats M, S and B. -/
def packM (sw : Bool) (mj : BitVec 6) (d a : BitVec 5) (wd : BitVec 3) (i : BitVec 12) : IWord :=
  BitVec.ofBool sw ++ mj ++ d ++ a ++ wd ++ i

/-- A word of format J. -/
def packJ (sw : Bool) (mj : BitVec 6) (i : BitVec 25) : IWord :=
  BitVec.ofBool sw ++ mj ++ i

/-- A word of format V. -/
def packV (sw : Bool) (mj : BitVec 6) (vd va vb vc e : BitVec 3) (m : BitVec 2) (q : BitVec 1) (f : BitVec 7) : IWord :=
  BitVec.ofBool sw ++ mj ++ vd ++ va ++ vb ++ vc ++ e ++ m ++ q ++ f

/-- A word of format VS. -/
def packVS (sw : Bool) (mj : BitVec 6) (vd va : BitVec 3) (s : BitVec 5) (z : BitVec 1) (e : BitVec 3) (m : BitVec 2)
    (q : BitVec 1) (f : BitVec 7) : IWord :=
  BitVec.ofBool sw ++ mj ++ vd ++ va ++ s ++ z ++ e ++ m ++ q ++ f

/-- A word of format X. -/
def packX (sw : Bool) (mj : BitVec 6) (a b u : BitVec 5) (k : BitVec 4) (t : BitVec 1) (y : BitVec 5) : IWord :=
  BitVec.ofBool sw ++ mj ++ a ++ b ++ u ++ k ++ t ++ y

/-- A word of format C. -/
def packC (sw : Bool) (mj : BitVec 6) (d a : BitVec 5) (wr : BitVec 1) (z : BitVec 2) (i : BitVec 12) : IWord :=
  BitVec.ofBool sw ++ mj ++ d ++ a ++ wr ++ z ++ i

/-- The word of an instruction (R46, R49); the events have none. -/
def encode : Instr → Option IWord
  | .nop sw => some (packR sw 0x00#6 0#5 0#5 0#5 1#10)
  | .trap sw code => some (packR sw 0x00#6 0#5 (code.extractLsb' 5 5) (code.extractLsb' 0 5) 2#10)
  | .tret sw a => some (packR sw 0x00#6 0#5 (Src.enc a) 0#5 3#10)
  | .genbump sw d a => some (packR sw 0x00#6 (encDest d) (Src.enc a) 0#5 4#10)
  | .pgdone sw d a b => some (packR sw 0x00#6 (encDest d) (Src.enc a) (Src.enc b) 5#10)
  | .pqui sw d a b => some (packR sw 0x00#6 (encDest d) (Src.enc a) (Src.enc b) 6#10)
  | .pres sw d a => some (packR sw 0x00#6 (encDest d) (Src.enc a) 0#5 7#10)
  | .cflush sw a b => some (packR sw 0x00#6 0#5 (Src.enc a) (Src.enc b) 8#10)
  | .celfl sw => some (packR sw 0x00#6 0#5 0#5 0#5 9#10)
  | .add sw d a b w => some (packR sw 0x01#6 (encDest d) (Src.enc a) (Src.enc b) ((BitVec.ofBool w) ++ 0#9))
  | .sub sw d a b w => some (packR sw 0x01#6 (encDest d) (Src.enc a) (Src.enc b) ((BitVec.ofBool w) ++ 1#9))
  | .mul sw d a b w => some (packR sw 0x01#6 (encDest d) (Src.enc a) (Src.enc b) ((BitVec.ofBool w) ++ 2#9))
  | .mulh sw d a b w => some (packR sw 0x01#6 (encDest d) (Src.enc a) (Src.enc b) ((BitVec.ofBool w) ++ 3#9))
  | .mulhu sw d a b w => some (packR sw 0x01#6 (encDest d) (Src.enc a) (Src.enc b) ((BitVec.ofBool w) ++ 4#9))
  | .div sw d a b w => some (packR sw 0x01#6 (encDest d) (Src.enc a) (Src.enc b) ((BitVec.ofBool w) ++ 5#9))
  | .divu sw d a b w => some (packR sw 0x01#6 (encDest d) (Src.enc a) (Src.enc b) ((BitVec.ofBool w) ++ 6#9))
  | .rem sw d a b w => some (packR sw 0x01#6 (encDest d) (Src.enc a) (Src.enc b) ((BitVec.ofBool w) ++ 7#9))
  | .remu sw d a b w => some (packR sw 0x01#6 (encDest d) (Src.enc a) (Src.enc b) ((BitVec.ofBool w) ++ 8#9))
  | .and sw d a b w => some (packR sw 0x01#6 (encDest d) (Src.enc a) (Src.enc b) ((BitVec.ofBool w) ++ 9#9))
  | .or sw d a b w => some (packR sw 0x01#6 (encDest d) (Src.enc a) (Src.enc b) ((BitVec.ofBool w) ++ 10#9))
  | .xor sw d a b w => some (packR sw 0x01#6 (encDest d) (Src.enc a) (Src.enc b) ((BitVec.ofBool w) ++ 11#9))
  | .andn sw d a b w => some (packR sw 0x01#6 (encDest d) (Src.enc a) (Src.enc b) ((BitVec.ofBool w) ++ 12#9))
  | .shl sw d a b w => some (packR sw 0x01#6 (encDest d) (Src.enc a) (Src.enc b) ((BitVec.ofBool w) ++ 13#9))
  | .shr sw d a b w => some (packR sw 0x01#6 (encDest d) (Src.enc a) (Src.enc b) ((BitVec.ofBool w) ++ 14#9))
  | .sra sw d a b w => some (packR sw 0x01#6 (encDest d) (Src.enc a) (Src.enc b) ((BitVec.ofBool w) ++ 15#9))
  | .ror sw d a b w => some (packR sw 0x01#6 (encDest d) (Src.enc a) (Src.enc b) ((BitVec.ofBool w) ++ 16#9))
  | .slt sw d a b w => some (packR sw 0x01#6 (encDest d) (Src.enc a) (Src.enc b) ((BitVec.ofBool w) ++ 17#9))
  | .sltu sw d a b w => some (packR sw 0x01#6 (encDest d) (Src.enc a) (Src.enc b) ((BitVec.ofBool w) ++ 18#9))
  | .seq sw d a b w => some (packR sw 0x01#6 (encDest d) (Src.enc a) (Src.enc b) ((BitVec.ofBool w) ++ 19#9))
  | .min sw d a b w => some (packR sw 0x01#6 (encDest d) (Src.enc a) (Src.enc b) ((BitVec.ofBool w) ++ 20#9))
  | .max sw d a b w => some (packR sw 0x01#6 (encDest d) (Src.enc a) (Src.enc b) ((BitVec.ofBool w) ++ 21#9))
  | .minu sw d a b w => some (packR sw 0x01#6 (encDest d) (Src.enc a) (Src.enc b) ((BitVec.ofBool w) ++ 22#9))
  | .maxu sw d a b w => some (packR sw 0x01#6 (encDest d) (Src.enc a) (Src.enc b) ((BitVec.ofBool w) ++ 23#9))
  | .clz sw d a w => some (packR sw 0x01#6 (encDest d) (Src.enc a) 0#5 ((BitVec.ofBool w) ++ 24#9))
  | .ctz sw d a w => some (packR sw 0x01#6 (encDest d) (Src.enc a) 0#5 ((BitVec.ofBool w) ++ 25#9))
  | .popc sw d a w => some (packR sw 0x01#6 (encDest d) (Src.enc a) 0#5 ((BitVec.ofBool w) ++ 26#9))
  | .sext sw d a b w => some (packR sw 0x01#6 (encDest d) (Src.enc a) (Src.enc b) ((BitVec.ofBool w) ++ 27#9))
  | .zext sw d a b w => some (packR sw 0x01#6 (encDest d) (Src.enc a) (Src.enc b) ((BitVec.ofBool w) ++ 28#9))
  | .addi sw d a imm => some (packI sw 0x02#6 (encDest d) (Src.enc a) imm)
  | .andi sw d a imm => some (packI sw 0x03#6 (encDest d) (Src.enc a) imm)
  | .ori sw d a imm => some (packI sw 0x04#6 (encDest d) (Src.enc a) imm)
  | .xori sw d a imm => some (packI sw 0x05#6 (encDest d) (Src.enc a) imm)
  | .shli sw d a sh => some (packI sw 0x06#6 (encDest d) (Src.enc a) (0#9 ++ sh))
  | .shri sw d a sh => some (packI sw 0x07#6 (encDest d) (Src.enc a) (0#9 ++ sh))
  | .srai sw d a sh => some (packI sw 0x08#6 (encDest d) (Src.enc a) (0#9 ++ sh))
  | .slti sw d a imm => some (packI sw 0x09#6 (encDest d) (Src.enc a) imm)
  | .sltiu sw d a imm => some (packI sw 0x0A#6 (encDest d) (Src.enc a) imm)
  | .ldi sw d imm => some (packL sw 0x0B#6 (encDest d) imm)
  | .ldpc sw d imm => some (packL sw 0x0C#6 (encDest d) imm)
  | .hmake sw d a b => some (packR sw 0x0D#6 (encDest d) (Src.enc a) (Src.enc b) 0#10)
  | .hidx sw d a b => some (packR sw 0x0D#6 (encDest d) (Src.enc a) (Src.enc b) 1#10)
  | .hver sw d a b => some (packR sw 0x0D#6 (encDest d) (Src.enc a) (Src.enc b) 2#10)
  | .hfld sw d a b => some (packR sw 0x0D#6 (encDest d) (Src.enc a) (Src.enc b) 3#10)
  | .br sw cond a b disp => some (packM sw 0x0E#6 (Src.enc a) (Src.enc b) (Cond.enc cond) disp)
  | .j sw disp => some (packJ sw 0x0F#6 disp)
  | .call sw disp => some (packJ sw 0x10#6 disp)
  | .jr sw a => some (packR sw 0x11#6 0#5 (Src.enc a) 0#5 0#10)
  | .jrCall sw a => some (packR sw 0x11#6 0#5 (Src.enc a) 0#5 1#10)
  | .ld sw d a wd imm => some (packM sw 0x12#6 (encDest d) (Src.enc a) (LdWidth.enc wd) imm)
  | .st sw data base wd imm => some (packM sw 0x13#6 (Src.enc data) (Src.enc base) (StWidth.enc wd) imm)
  | .ldl sw d a wd imm => some (packM sw 0x14#6 (encDest d) (Src.enc a) (LdWidth.enc wd) imm)
  | .stl sw data base wd imm => some (packM sw 0x15#6 (Src.enc data) (Src.enc base) (StWidth.enc wd) imm)
  | .amoAdd sw d a b wd ord sc => some (packR sw 0x16#6 (encDest d) (Src.enc a) (Src.enc b) ((AmoScope.enc sc) ++ (Order.enc ord) ++ (AmoWidth.enc wd) ++ 0#4))
  | .amoAnd sw d a b wd ord sc => some (packR sw 0x16#6 (encDest d) (Src.enc a) (Src.enc b) ((AmoScope.enc sc) ++ (Order.enc ord) ++ (AmoWidth.enc wd) ++ 1#4))
  | .amoOr sw d a b wd ord sc => some (packR sw 0x16#6 (encDest d) (Src.enc a) (Src.enc b) ((AmoScope.enc sc) ++ (Order.enc ord) ++ (AmoWidth.enc wd) ++ 2#4))
  | .amoXor sw d a b wd ord sc => some (packR sw 0x16#6 (encDest d) (Src.enc a) (Src.enc b) ((AmoScope.enc sc) ++ (Order.enc ord) ++ (AmoWidth.enc wd) ++ 3#4))
  | .amoMin sw d a b wd ord sc => some (packR sw 0x16#6 (encDest d) (Src.enc a) (Src.enc b) ((AmoScope.enc sc) ++ (Order.enc ord) ++ (AmoWidth.enc wd) ++ 4#4))
  | .amoMax sw d a b wd ord sc => some (packR sw 0x16#6 (encDest d) (Src.enc a) (Src.enc b) ((AmoScope.enc sc) ++ (Order.enc ord) ++ (AmoWidth.enc wd) ++ 5#4))
  | .amoMinu sw d a b wd ord sc => some (packR sw 0x16#6 (encDest d) (Src.enc a) (Src.enc b) ((AmoScope.enc sc) ++ (Order.enc ord) ++ (AmoWidth.enc wd) ++ 6#4))
  | .amoMaxu sw d a b wd ord sc => some (packR sw 0x16#6 (encDest d) (Src.enc a) (Src.enc b) ((AmoScope.enc sc) ++ (Order.enc ord) ++ (AmoWidth.enc wd) ++ 7#4))
  | .amoSwap sw d a b wd ord sc => some (packR sw 0x16#6 (encDest d) (Src.enc a) (Src.enc b) ((AmoScope.enc sc) ++ (Order.enc ord) ++ (AmoWidth.enc wd) ++ 8#4))
  | .amoFaddF32 sw d a b ord sc => some (packR sw 0x16#6 (encDest d) (Src.enc a) (Src.enc b) ((AmoScope.enc sc) ++ (Order.enc ord) ++ 41#6))
  | .amoFaddF64 sw d a b ord sc => some (packR sw 0x16#6 (encDest d) (Src.enc a) (Src.enc b) ((AmoScope.enc sc) ++ (Order.enc ord) ++ 58#6))
  | .cas sw e a b wd ord sc => some (packR sw 0x17#6 (Src.enc e) (Src.enc a) (Src.enc b) ((AmoScope.enc sc) ++ (Order.enc ord) ++ (AmoWidth.enc wd) ++ 0#4))
  | .fncFull sw a b all mask sc => some (packR sw 0x18#6 0#5 (Src.enc a) (Src.enc b) (0#1 ++ (BitVec.ofBool all) ++ mask ++ (AgentScope.enc sc) ++ 0#2))
  | .fncAcq sw a b all mask sc => some (packR sw 0x18#6 0#5 (Src.enc a) (Src.enc b) (0#1 ++ (BitVec.ofBool all) ++ mask ++ (AgentScope.enc sc) ++ 1#2))
  | .fncRel sw a b all mask sc => some (packR sw 0x18#6 0#5 (Src.enc a) (Src.enc b) (0#1 ++ (BitVec.ofBool all) ++ mask ++ (AgentScope.enc sc) ++ 2#2))
  | .fncReg sw a b all mask sc => some (packR sw 0x18#6 0#5 (Src.enc a) (Src.enc b) (0#1 ++ (BitVec.ofBool all) ++ mask ++ (AgentScope.enc sc) ++ 3#2))
  | .pref sw a b => some (packR sw 0x19#6 0#5 (Src.enc a) (Src.enc b) 0#10)
  | .mwait sw d a b => some (packR sw 0x19#6 (encDest d) (Src.enc a) (Src.enc b) 1#10)
  | .cwait sw t k => some (packR sw 0x19#6 0#5 0#5 t (0#2 ++ (BitVec.ofFin (w := 4) k) ++ 2#4))
  | .cinc sw a k => some (packR sw 0x19#6 0#5 (Src.enc a) 0#5 (0#2 ++ (BitVec.ofFin (w := 4) k) ++ 3#4))
  | .crd sw d k => some (packR sw 0x19#6 (encDest d) 0#5 0#5 (0#2 ++ (BitVec.ofFin (w := 4) k) ++ 4#4))
  | .fadd sw d a b rm p => some (packR sw 0x1A#6 (encDest d) (Src.enc a) (Src.enc b) (0#2 ++ (Rnd.enc rm) ++ (Prec.enc p) ++ 0#4))
  | .fsub sw d a b rm p => some (packR sw 0x1A#6 (encDest d) (Src.enc a) (Src.enc b) (0#2 ++ (Rnd.enc rm) ++ (Prec.enc p) ++ 1#4))
  | .fmul sw d a b rm p => some (packR sw 0x1A#6 (encDest d) (Src.enc a) (Src.enc b) (0#2 ++ (Rnd.enc rm) ++ (Prec.enc p) ++ 2#4))
  | .fdiv sw d a b rm p => some (packR sw 0x1A#6 (encDest d) (Src.enc a) (Src.enc b) (0#2 ++ (Rnd.enc rm) ++ (Prec.enc p) ++ 3#4))
  | .fsqrt sw d a rm p => some (packR sw 0x1A#6 (encDest d) (Src.enc a) 0#5 (0#2 ++ (Rnd.enc rm) ++ (Prec.enc p) ++ 4#4))
  | .fma sw c a b rm p => some (packR sw 0x1A#6 (Src.enc c) (Src.enc a) (Src.enc b) (0#2 ++ (Rnd.enc rm) ++ (Prec.enc p) ++ 5#4))
  | .fmin sw d a b p => some (packR sw 0x1A#6 (encDest d) (Src.enc a) (Src.enc b) (0#5 ++ (Prec.enc p) ++ 6#4))
  | .fmax sw d a b p => some (packR sw 0x1A#6 (encDest d) (Src.enc a) (Src.enc b) (0#5 ++ (Prec.enc p) ++ 7#4))
  | .fcmp sw d a b pred p => some (packR sw 0x1A#6 (encDest d) (Src.enc a) (Src.enc b) ((FPred.enc pred) ++ 0#3 ++ (Prec.enc p) ++ 8#4))
  | .fcvt sw d a kind rm p => some (packR sw 0x1A#6 (encDest d) (Src.enc a) 0#5 ((CvtKind.enc kind) ++ (Rnd.enc rm) ++ (Prec.enc p) ++ 9#4))
  | .fclass sw d a p => some (packR sw 0x1A#6 (encDest d) (Src.enc a) 0#5 (0#5 ++ (Prec.enc p) ++ 10#4))
  | .vaddFp sw vd va vb et m q => some (packV sw 0x1B#6 (BitVec.ofFin (w := 3) vd) (BitVec.ofFin (w := 3) va) (BitVec.ofFin (w := 3) vb) 0#3 (EType.enc et) (BitVec.ofFin (w := 2) m) (BitVec.ofBool q) 0#7)
  | .vsubFp sw vd va vb et m q => some (packV sw 0x1B#6 (BitVec.ofFin (w := 3) vd) (BitVec.ofFin (w := 3) va) (BitVec.ofFin (w := 3) vb) 0#3 (EType.enc et) (BitVec.ofFin (w := 2) m) (BitVec.ofBool q) 1#7)
  | .vmulFp sw vd va vb et m q => some (packV sw 0x1B#6 (BitVec.ofFin (w := 3) vd) (BitVec.ofFin (w := 3) va) (BitVec.ofFin (w := 3) vb) 0#3 (EType.enc et) (BitVec.ofFin (w := 2) m) (BitVec.ofBool q) 2#7)
  | .vfma sw vd va vb vc et m q => some (packV sw 0x1B#6 (BitVec.ofFin (w := 3) vd) (BitVec.ofFin (w := 3) va) (BitVec.ofFin (w := 3) vb) (BitVec.ofFin (w := 3) vc) (EType.enc et) (BitVec.ofFin (w := 2) m) (BitVec.ofBool q) 3#7)
  | .vfnma sw vd va vb vc et m q => some (packV sw 0x1B#6 (BitVec.ofFin (w := 3) vd) (BitVec.ofFin (w := 3) va) (BitVec.ofFin (w := 3) vb) (BitVec.ofFin (w := 3) vc) (EType.enc et) (BitVec.ofFin (w := 2) m) (BitVec.ofBool q) 4#7)
  | .vdiv sw vd va vb et m q => some (packV sw 0x1B#6 (BitVec.ofFin (w := 3) vd) (BitVec.ofFin (w := 3) va) (BitVec.ofFin (w := 3) vb) 0#3 (EType.enc et) (BitVec.ofFin (w := 2) m) (BitVec.ofBool q) 5#7)
  | .vsqrt sw vd va et m q => some (packV sw 0x1B#6 (BitVec.ofFin (w := 3) vd) (BitVec.ofFin (w := 3) va) 0#3 0#3 (EType.enc et) (BitVec.ofFin (w := 2) m) (BitVec.ofBool q) 6#7)
  | .vrsq sw vd va et m q => some (packV sw 0x1B#6 (BitVec.ofFin (w := 3) vd) (BitVec.ofFin (w := 3) va) 0#3 0#3 (EType.enc et) (BitVec.ofFin (w := 2) m) (BitVec.ofBool q) 7#7)
  | .vexp2 sw vd va et m q => some (packV sw 0x1B#6 (BitVec.ofFin (w := 3) vd) (BitVec.ofFin (w := 3) va) 0#3 0#3 (EType.enc et) (BitVec.ofFin (w := 2) m) (BitVec.ofBool q) 8#7)
  | .vlog2 sw vd va et m q => some (packV sw 0x1B#6 (BitVec.ofFin (w := 3) vd) (BitVec.ofFin (w := 3) va) 0#3 0#3 (EType.enc et) (BitVec.ofFin (w := 2) m) (BitVec.ofBool q) 9#7)
  | .vminFp sw vd va vb et m q => some (packV sw 0x1B#6 (BitVec.ofFin (w := 3) vd) (BitVec.ofFin (w := 3) va) (BitVec.ofFin (w := 3) vb) 0#3 (EType.enc et) (BitVec.ofFin (w := 2) m) (BitVec.ofBool q) 10#7)
  | .vmaxFp sw vd va vb et m q => some (packV sw 0x1B#6 (BitVec.ofFin (w := 3) vd) (BitVec.ofFin (w := 3) va) (BitVec.ofFin (w := 3) vb) 0#3 (EType.enc et) (BitVec.ofFin (w := 2) m) (BitVec.ofBool q) 11#7)
  | .vabsFp sw vd va et m q => some (packV sw 0x1B#6 (BitVec.ofFin (w := 3) vd) (BitVec.ofFin (w := 3) va) 0#3 0#3 (EType.enc et) (BitVec.ofFin (w := 2) m) (BitVec.ofBool q) 12#7)
  | .vnegFp sw vd va et m q => some (packV sw 0x1B#6 (BitVec.ofFin (w := 3) vd) (BitVec.ofFin (w := 3) va) 0#3 0#3 (EType.enc et) (BitVec.ofFin (w := 2) m) (BitVec.ofBool q) 13#7)
  | .vaddInt sw vd va vb et m q => some (packV sw 0x1C#6 (BitVec.ofFin (w := 3) vd) (BitVec.ofFin (w := 3) va) (BitVec.ofFin (w := 3) vb) 0#3 (EType.enc et) (BitVec.ofFin (w := 2) m) (BitVec.ofBool q) 0#7)
  | .vsubInt sw vd va vb et m q => some (packV sw 0x1C#6 (BitVec.ofFin (w := 3) vd) (BitVec.ofFin (w := 3) va) (BitVec.ofFin (w := 3) vb) 0#3 (EType.enc et) (BitVec.ofFin (w := 2) m) (BitVec.ofBool q) 1#7)
  | .vmulInt sw vd va vb et m q => some (packV sw 0x1C#6 (BitVec.ofFin (w := 3) vd) (BitVec.ofFin (w := 3) va) (BitVec.ofFin (w := 3) vb) 0#3 (EType.enc et) (BitVec.ofFin (w := 2) m) (BitVec.ofBool q) 2#7)
  | .vminInt sw vd va vb et m q => some (packV sw 0x1C#6 (BitVec.ofFin (w := 3) vd) (BitVec.ofFin (w := 3) va) (BitVec.ofFin (w := 3) vb) 0#3 (EType.enc et) (BitVec.ofFin (w := 2) m) (BitVec.ofBool q) 3#7)
  | .vmaxInt sw vd va vb et m q => some (packV sw 0x1C#6 (BitVec.ofFin (w := 3) vd) (BitVec.ofFin (w := 3) va) (BitVec.ofFin (w := 3) vb) 0#3 (EType.enc et) (BitVec.ofFin (w := 2) m) (BitVec.ofBool q) 4#7)
  | .vminu sw vd va vb et m q => some (packV sw 0x1C#6 (BitVec.ofFin (w := 3) vd) (BitVec.ofFin (w := 3) va) (BitVec.ofFin (w := 3) vb) 0#3 (EType.enc et) (BitVec.ofFin (w := 2) m) (BitVec.ofBool q) 5#7)
  | .vmaxu sw vd va vb et m q => some (packV sw 0x1C#6 (BitVec.ofFin (w := 3) vd) (BitVec.ofFin (w := 3) va) (BitVec.ofFin (w := 3) vb) 0#3 (EType.enc et) (BitVec.ofFin (w := 2) m) (BitVec.ofBool q) 6#7)
  | .vabsInt sw vd va et m q => some (packV sw 0x1C#6 (BitVec.ofFin (w := 3) vd) (BitVec.ofFin (w := 3) va) 0#3 0#3 (EType.enc et) (BitVec.ofFin (w := 2) m) (BitVec.ofBool q) 7#7)
  | .vnegInt sw vd va et m q => some (packV sw 0x1C#6 (BitVec.ofFin (w := 3) vd) (BitVec.ofFin (w := 3) va) 0#3 0#3 (EType.enc et) (BitVec.ofFin (w := 2) m) (BitVec.ofBool q) 8#7)
  | .vand sw vd va vb et m q => some (packV sw 0x1C#6 (BitVec.ofFin (w := 3) vd) (BitVec.ofFin (w := 3) va) (BitVec.ofFin (w := 3) vb) 0#3 (EType.enc et) (BitVec.ofFin (w := 2) m) (BitVec.ofBool q) 9#7)
  | .vor sw vd va vb et m q => some (packV sw 0x1C#6 (BitVec.ofFin (w := 3) vd) (BitVec.ofFin (w := 3) va) (BitVec.ofFin (w := 3) vb) 0#3 (EType.enc et) (BitVec.ofFin (w := 2) m) (BitVec.ofBool q) 10#7)
  | .vxor sw vd va vb et m q => some (packV sw 0x1C#6 (BitVec.ofFin (w := 3) vd) (BitVec.ofFin (w := 3) va) (BitVec.ofFin (w := 3) vb) 0#3 (EType.enc et) (BitVec.ofFin (w := 2) m) (BitVec.ofBool q) 11#7)
  | .vnot sw vd va et m q => some (packV sw 0x1C#6 (BitVec.ofFin (w := 3) vd) (BitVec.ofFin (w := 3) va) 0#3 0#3 (EType.enc et) (BitVec.ofFin (w := 2) m) (BitVec.ofBool q) 12#7)
  | .vshl sw vd va vb et m q => some (packV sw 0x1C#6 (BitVec.ofFin (w := 3) vd) (BitVec.ofFin (w := 3) va) (BitVec.ofFin (w := 3) vb) 0#3 (EType.enc et) (BitVec.ofFin (w := 2) m) (BitVec.ofBool q) 13#7)
  | .vshr sw vd va vb et m q => some (packV sw 0x1C#6 (BitVec.ofFin (w := 3) vd) (BitVec.ofFin (w := 3) va) (BitVec.ofFin (w := 3) vb) 0#3 (EType.enc et) (BitVec.ofFin (w := 2) m) (BitVec.ofBool q) 14#7)
  | .vsra sw vd va vb et m q => some (packV sw 0x1C#6 (BitVec.ofFin (w := 3) vd) (BitVec.ofFin (w := 3) va) (BitVec.ofFin (w := 3) vb) 0#3 (EType.enc et) (BitVec.ofFin (w := 2) m) (BitVec.ofBool q) 15#7)
  | .vld sw vd s et m q => some (packVS sw 0x1D#6 (BitVec.ofFin (w := 3) vd) 0#3 (Src.enc s) 0#1 (EType.enc et) (BitVec.ofFin (w := 2) m) (BitVec.ofBool q) 0#7)
  | .vst sw vd s et m q => some (packVS sw 0x1D#6 (BitVec.ofFin (w := 3) vd) 0#3 (Src.enc s) 0#1 (EType.enc et) (BitVec.ofFin (w := 2) m) (BitVec.ofBool q) 1#7)
  | .vldg sw vd s et m q => some (packVS sw 0x1D#6 (BitVec.ofFin (w := 3) vd) 0#3 (Src.enc s) 0#1 (EType.enc et) (BitVec.ofFin (w := 2) m) (BitVec.ofBool q) 2#7)
  | .vstg sw vd s et m q => some (packVS sw 0x1D#6 (BitVec.ofFin (w := 3) vd) 0#3 (Src.enc s) 0#1 (EType.enc et) (BitVec.ofFin (w := 2) m) (BitVec.ofBool q) 3#7)
  | .vgath sw vd va s et m q => some (packVS sw 0x1D#6 (BitVec.ofFin (w := 3) vd) (BitVec.ofFin (w := 3) va) (Src.enc s) 0#1 (EType.enc et) (BitVec.ofFin (w := 2) m) (BitVec.ofBool q) 4#7)
  | .vscat sw vd va s et m q => some (packVS sw 0x1D#6 (BitVec.ofFin (w := 3) vd) (BitVec.ofFin (w := 3) va) (Src.enc s) 0#1 (EType.enc et) (BitVec.ofFin (w := 2) m) (BitVec.ofBool q) 5#7)
  | .vbc sw vd s et m q => some (packVS sw 0x1E#6 (BitVec.ofFin (w := 3) vd) 0#3 (Src.enc s) 0#1 (EType.enc et) (BitVec.ofFin (w := 2) m) (BitVec.ofBool q) 0#7)
  | .vext sw va s et q => some (packVS sw 0x1E#6 0#3 (BitVec.ofFin (w := 3) va) (Src.enc s) 0#1 (EType.enc et) 0#2 (BitVec.ofBool q) 1#7)
  | .vmov sw vd va et m q => some (packV sw 0x1E#6 (BitVec.ofFin (w := 3) vd) (BitVec.ofFin (w := 3) va) 0#3 0#3 (EType.enc et) (BitVec.ofFin (w := 2) m) (BitVec.ofBool q) 2#7)
  | .vcmp sw vd va vb cond et m q => some (packV sw 0x1E#6 (BitVec.ofFin (w := 3) vd) (BitVec.ofFin (w := 3) va) (BitVec.ofFin (w := 3) vb) (VCond.enc cond) (EType.enc et) (BitVec.ofFin (w := 2) m) (BitVec.ofBool q) 3#7)
  | .vsel sw vd va vb et m q => some (packV sw 0x1E#6 (BitVec.ofFin (w := 3) vd) (BitVec.ofFin (w := 3) va) (BitVec.ofFin (w := 3) vb) 0#3 (EType.enc et) (BitVec.ofFin (w := 2) m) (BitVec.ofBool q) 4#7)
  | .vcvt sw vd va p t et m q => some (packV sw 0x1E#6 (BitVec.ofFin (w := 3) vd) (BitVec.ofFin (w := 3) va) p (EType.enc t) (EType.enc et) (BitVec.ofFin (w := 2) m) (BitVec.ofBool q) 5#7)
  | .vred sw va op et m q => some (packV sw 0x1E#6 0#3 (BitVec.ofFin (w := 3) va) 0#3 (RedOp.enc op) (EType.enc et) (BitVec.ofFin (w := 2) m) (BitVec.ofBool q) 6#7)
  | .vscan sw vd va op et m q => some (packV sw 0x1E#6 (BitVec.ofFin (w := 3) vd) (BitVec.ofFin (w := 3) va) 0#3 (ScanOp.enc op) (EType.enc et) (BitVec.ofFin (w := 2) m) (BitVec.ofBool q) 7#7)
  | .vcmpr sw vd va et m q => some (packV sw 0x1E#6 (BitVec.ofFin (w := 3) vd) (BitVec.ofFin (w := 3) va) 0#3 0#3 (EType.enc et) (BitVec.ofFin (w := 2) m) (BitVec.ofBool q) 8#7)
  | .vexpd sw vd va et m q => some (packV sw 0x1E#6 (BitVec.ofFin (w := 3) vd) (BitVec.ofFin (w := 3) va) 0#3 0#3 (EType.enc et) (BitVec.ofFin (w := 2) m) (BitVec.ofBool q) 9#7)
  | .vperm sw vd va vb et m q => some (packV sw 0x1E#6 (BitVec.ofFin (w := 3) vd) (BitVec.ofFin (w := 3) va) (BitVec.ofFin (w := 3) vb) 0#3 (EType.enc et) (BitVec.ofFin (w := 2) m) (BitVec.ofBool q) 10#7)
  | .viota sw vd et m q => some (packV sw 0x1E#6 (BitVec.ofFin (w := 3) vd) 0#3 0#3 0#3 (EType.enc et) (BitVec.ofFin (w := 2) m) (BitVec.ofBool q) 11#7)
  | .vcnt sw et m q => some (packV sw 0x1E#6 0#3 0#3 0#3 0#3 (EType.enc et) (BitVec.ofFin (w := 2) m) (BitVec.ofBool q) 12#7)
  | .vmsk sw vd va vb op et q => some (packV sw 0x1E#6 (BitVec.ofFin (w := 3) vd) (BitVec.ofFin (w := 3) va) (BitVec.ofFin (w := 3) vb) (MskOp.enc op) (EType.enc et) 0#2 (BitVec.ofBool q) 13#7)
  | .vamax sw vd va et m q => some (packV sw 0x1E#6 (BitVec.ofFin (w := 3) vd) (BitVec.ofFin (w := 3) va) 0#3 0#3 (EType.enc et) (BitVec.ofFin (w := 2) m) (BitVec.ofBool q) 14#7)
  | .vqnt sw vd va raw nf et m q => some (packV sw 0x1E#6 (BitVec.ofFin (w := 3) vd) (BitVec.ofFin (w := 3) va) raw (Narrow.enc nf) (EType.enc et) (BitVec.ofFin (w := 2) m) (BitVec.ofBool q) 15#7)
  | .vdq sw vd va raw nf et m q => some (packV sw 0x1E#6 (BitVec.ofFin (w := 3) vd) (BitVec.ofFin (w := 3) va) raw (Narrow.enc nf) (EType.enc et) (BitVec.ofFin (w := 2) m) (BitVec.ofBool q) 16#7)
  | .vflrd sw vd m q => some (packV sw 0x1E#6 (BitVec.ofFin (w := 3) vd) 0#3 0#3 0#3 4#3 (BitVec.ofFin (w := 2) m) (BitVec.ofBool q) 17#7)
  | .vflcl sw m q => some (packV sw 0x1E#6 0#3 0#3 0#3 0#3 4#3 (BitVec.ofFin (w := 2) m) (BitVec.ofBool q) 18#7)
  | .vcvtz sw vd va p t et m q => some (packV sw 0x1E#6 (BitVec.ofFin (w := 3) vd) (BitVec.ofFin (w := 3) va) p (EType.enc t) (EType.enc et) (BitVec.ofFin (w := 2) m) (BitVec.ofBool q) 19#7)
  | .tld sw a b cc det keep => some (packX sw 0x20#6 (Src.enc a) (Src.enc b) 0#5 (BitVec.ofFin (w := 4) cc) (BitVec.ofBool det) (0#4 ++ (BitVec.ofBool keep)))
  | .tldv sw a cc v keep => some (packX sw 0x20#6 (Src.enc a) 0#5 1#5 (BitVec.ofFin (w := 4) cc) 0#1 (0#1 ++ (BitVec.ofFin (w := 3) v) ++ (BitVec.ofBool keep)))
  | .tst sw a b cc det => some (packX sw 0x20#6 (Src.enc a) (Src.enc b) 2#5 (BitVec.ofFin (w := 4) cc) (BitVec.ofBool det) 0#5)
  | .tstv sw a b cc det v => some (packX sw 0x20#6 (Src.enc a) (Src.enc b) 3#5 (BitVec.ofFin (w := 4) cc) (BitVec.ofBool det) (0#1 ++ (BitVec.ofFin (w := 3) v) ++ 0#1))
  | .talias sw a b cc det => some (packX sw 0x20#6 (Src.enc a) (Src.enc b) 4#5 (BitVec.ofFin (w := 4) cc) (BitVec.ofBool det) 0#5)
  | .twait sw a cc det => some (packX sw 0x20#6 (Src.enc a) 0#5 5#5 (BitVec.ofFin (w := 4) cc) (BitVec.ofBool det) 0#5)
  | .tprobe sw a cc det => some (packX sw 0x20#6 (Src.enc a) 0#5 6#5 (BitVec.ofFin (w := 4) cc) (BitVec.ofBool det) 0#5)
  | .tadd sw a b cc det => some (packX sw 0x20#6 (Src.enc a) (Src.enc b) 7#5 (BitVec.ofFin (w := 4) cc) (BitVec.ofBool det) 0#5)
  | .trel sw a b cc det => some (packX sw 0x20#6 (Src.enc a) (Src.enc b) 8#5 (BitVec.ofFin (w := 4) cc) (BitVec.ofBool det) 0#5)
  | .tdig sw a cc det hi => some (packX sw 0x20#6 (Src.enc a) 0#5 9#5 (BitVec.ofFin (w := 4) cc) (BitVec.ofBool det) (0#4 ++ (BitVec.ofBool hi)))
  | .tinfo sw a cc det => some (packX sw 0x20#6 (Src.enc a) 0#5 10#5 (BitVec.ofFin (w := 4) cc) (BitVec.ofBool det) 0#5)
  | .tspace sw a b cc det => some (packX sw 0x20#6 (Src.enc a) (Src.enc b) 11#5 (BitVec.ofFin (w := 4) cc) (BitVec.ofBool det) 0#5)
  | .timp sw a b cc det => some (packX sw 0x20#6 (Src.enc a) (Src.enc b) 12#5 (BitVec.ofFin (w := 4) cc) (BitVec.ofBool det) 0#5)
  | .texp sw a b cc det keep => some (packX sw 0x20#6 (Src.enc a) (Src.enc b) 13#5 (BitVec.ofFin (w := 4) cc) (BitVec.ofBool det) (0#4 ++ (BitVec.ofBool keep)))
  | .mset sw a b => some (packX sw 0x21#6 (Src.enc a) (Src.enc b) 0#5 0#4 0#1 0#5)
  | .mget sw a => some (packX sw 0x21#6 (Src.enc a) 0#5 1#5 0#4 0#1 0#5)
  | .mldb sw a b cc det => some (packX sw 0x21#6 (Src.enc a) (Src.enc b) 2#5 (BitVec.ofFin (w := 4) cc) (BitVec.ofBool det) 0#5)
  | .mmul sw a b cc => some (packX sw 0x21#6 (Src.enc a) (Src.enc b) 3#5 (BitVec.ofFin (w := 4) cc) 0#1 0#5)
  | .mclr sw a b cc det wide => some (packX sw 0x21#6 (Src.enc a) (Src.enc b) 4#5 (BitVec.ofFin (w := 4) cc) (BitVec.ofBool det) (0#4 ++ (BitVec.ofBool wide)))
  | .mrd sw a b cc det f => some (packX sw 0x21#6 (Src.enc a) (Src.enc b) 5#5 (BitVec.ofFin (w := 4) cc) (BitVec.ofBool det) f)
  | .mrdTile sw a b cc det => some (packX sw 0x21#6 (Src.enc a) (Src.enc b) 5#5 (BitVec.ofFin (w := 4) cc) (BitVec.ofBool det) 0#5)
  | .mwr sw a b cc det f => some (packX sw 0x21#6 (Src.enc a) (Src.enc b) 6#5 (BitVec.ofFin (w := 4) cc) (BitVec.ofBool det) f)
  | .mred sw a cc det v op => some (packX sw 0x21#6 (Src.enc a) 0#5 7#5 (BitVec.ofFin (w := 4) cc) (BitVec.ofBool det) ((BitVec.ofFin (w := 3) v) ++ (MRedOp.enc op)))
  | .mscr sw a cc det v => some (packX sw 0x21#6 (Src.enc a) 0#5 8#5 (BitVec.ofFin (w := 4) cc) (BitVec.ofBool det) ((BitVec.ofFin (w := 3) v) ++ 0#2))
  | .mscc sw a cc det v => some (packX sw 0x21#6 (Src.enc a) 0#5 9#5 (BitVec.ofFin (w := 4) cc) (BitVec.ofBool det) ((BitVec.ofFin (w := 3) v) ++ 0#2))
  | .mcmp sw a b cc det two => some (packX sw 0x21#6 (Src.enc a) (Src.enc b) 10#5 (BitVec.ofFin cc) (BitVec.ofBool det) (0#3 ++ (if two then 2#2 else 1#2)))
  | .mstat sw a cc det => some (packX sw 0x21#6 (Src.enc a) 0#5 11#5 (BitVec.ofFin (w := 4) cc) (BitVec.ofBool det) 0#5)
  | .cset sw a b => some (packX sw 0x22#6 (Src.enc a) (Src.enc b) 0#5 0#4 0#1 0#5)
  | .cpy sw a b cc det => some (packX sw 0x22#6 (Src.enc a) (Src.enc b) 1#5 (BitVec.ofFin (w := 4) cc) (BitVec.ofBool det) 0#5)
  | .cpyg sw a b cc det => some (packX sw 0x22#6 (Src.enc a) (Src.enc b) 2#5 (BitVec.ofFin (w := 4) cc) (BitVec.ofBool det) 0#5)
  | .cpygOut sw a b cc det => some (packX sw 0x22#6 (Src.enc a) (Src.enc b) 2#5 (BitVec.ofFin (w := 4) cc) (BitVec.ofBool det) 1#5)
  | .cpyd sw a b cc det => some (packX sw 0x22#6 (Src.enc a) (Src.enc b) 3#5 (BitVec.ofFin (w := 4) cc) (BitVec.ofBool det) 0#5)
  | .cpydLoc sw a b cc det => some (packX sw 0x22#6 (Src.enc a) (Src.enc b) 3#5 (BitVec.ofFin (w := 4) cc) (BitVec.ofBool det) 1#5)
  | .cfil sw a b cc det => some (packX sw 0x22#6 (Src.enc a) (Src.enc b) 4#5 (BitVec.ofFin (w := 4) cc) (BitVec.ofBool det) 0#5)
  | .cfilG sw a b cc det => some (packX sw 0x22#6 (Src.enc a) (Src.enc b) 4#5 (BitVec.ofFin (w := 4) cc) (BitVec.ofBool det) 1#5)
  | .spawn sw a b => some (packX sw 0x23#6 (Src.enc a) (Src.enc b) 0#5 0#4 0#1 0#5)
  | .spawnp sw a b => some (packX sw 0x23#6 (Src.enc a) (Src.enc b) 1#5 0#4 0#1 0#5)
  | .spawng sw a b => some (packX sw 0x23#6 (Src.enc a) (Src.enc b) 2#5 0#4 0#1 0#5)
  | .quit sw => some (packX sw 0x23#6 0#5 0#5 3#5 0#4 0#1 0#5)
  | .join sw a => some (packX sw 0x23#6 (Src.enc a) 0#5 4#5 0#4 0#1 0#5)
  | .trig sw => some (packX sw 0x23#6 0#5 0#5 5#5 0#4 0#1 0#5)
  | .yield sw => some (packX sw 0x23#6 0#5 0#5 6#5 0#4 0#1 0#5)
  | .sleep sw a rel => some (packX sw 0x23#6 (Src.enc a) 0#5 7#5 0#4 0#1 (0#4 ++ (BitVec.ofBool rel)))
  | .ppt sw a mask => some (packI sw 0x24#6 0#5 (Src.enc a) mask)
  | .ctlrd sw d cr => some (packC sw 0x25#6 (encDest d) 0#5 0#1 0#2 (CReg.enc cr))
  | .ctlwr sw a cr => some (packC sw 0x25#6 0#5 (Src.enc a) 1#1 0#2 (CReg.enc cr))
  | .resultReturn ..
  | .barrelIssueSlot ..
  | .counterFullRelease ..
  | .engineCompletion ..
  | .mwaitWake ..
  | .sleepWake ..
  | .tileStoreRegister ..
  | .waitingStoreRelease ..
  | .publication ..
  | .tileLoadRegister ..
  | .tileUseChangeRegister ..
  | .tileProbeRegister ..
  | .headCreate ..
  | .waiterRecordFree ..
  | .tileLoadComplete ..
  | .timpGatherComplete ..
  | .taliasSourceServed ..
  | .mldbStart ..
  | .mmulStart ..
  | .mmulSquash ..
  | .mmulCommit ..
  | .copyUnit ..
  | .copyComplete ..
  | .copyQueueAdmit ..
  | .cpydLocArrival ..
  | .cellarLookup ..
  | .celkeyRotate ..
  | .digestSweepDone ..
  | .scrubError ..
  | .diePoolMove ..
  | .gangReserve ..
  | .graphEnd ..
  | .watchdog ..
  | .launchVersionServed ..
  | .statusWordWrite ..
  | .slottabWrite ..
  | .slotStartDue ..
  | .trapPost ..
  | .handlerStart ..
  | .pageFaultPost ..
  | .faultRecordRepost ..
  | .pagerStart ..
  | .preemptRequest ..
  | .saveWrite ..
  | .saveComplete ..
  | .restore ..
  | .genConfirm ..
  | .dupCollapse ..
  | .granuleRecall ..
  | .ptbaseWrite ..
  | .asidWrite ..
  | .trapsaveWrite ..
  | .hearthWrite ..
  | .trapvecWrite ..
  | .pagertabWrite ..
  | .fbstatusWrite ..
  | .celquotaWrite ..
  | .ptpctlWrite ..
  | .fflagsWrite ..
  | .vcsrWrite ..
  | .partCtlSelWrite ..
  | .create ..
  | .commit ..
  | .merge ..
  | .destroy ..
  | .partitionQuiesced ..
  | .pquiTimeout ..
  | .pub ..
  | .vfLtolWrite ..
  | .snpData ..
  | .snpInv ..
  | .snpCur ..
  | .hostMemRequest ..
  | .birsp ..
  | .hdmDecoderCommit ..
  | .linkReqReceive ..
  | .linkRspReceive ..
  | .arrivalNotice ..
  | .linkAtomReceive ..
  | .linkFenceReceive ..
  | .linkMgmtReceive ..
  | .linkDown ..
  | .linkWidthRequest ..
  | .linkFreqChange ..
  | .ptpUpdate ..
  | .dieStateEntry ..
  | .dieWake ..
  | .packageReset ..
  | .evidenceRequest ..
  | .firmwareStage ..
  | .notAnInstruction ..
  | .writePerformed ..
  | .laneFailure ..
  | .cxlLinkDown .. => none

/-- The four bytes of a word as memory holds them, first at the lowest address (R46). -/
def bytesOfWord (w : IWord) : List Byte :=
  [w.extractLsb' 0 8, w.extractLsb' 8 8, w.extractLsb' 16 8, w.extractLsb' 24 8]

/-- The decoder on a word numbered as spec/opcode_table.json numbers it: bit 0 is the least significant bit of the first
byte. Every instruction is one 32-bit word (R46), so bits above nbits are zero. -/
def decodeTableWord (nbits w : Nat) : Option Instr :=
  match decode (bytesOfWord (BitVec.ofNat 32 (w % 2 ^ nbits))) with
  | .ok (i, _) => some i
  | .error _ => none

end Sys2Proof
end

