-- ==== Sys2Proof/Machine/Ladder.lean ====
section
/-!
DEFINITION. The arithmetic of the matrix engine: one attempt of an MMUL at a rung (R175 to R186).
-/

namespace Sys2Proof.Machine

/-- The ten formats of R169. -/
def mxFormat (fmt : Nat) : Bool := [1, 2, 3, 4, 5, 6, 7, 11, 12, 13].contains fmt

/-- An integer format of R169. -/
def mxInt (fmt : Nat) : Bool := fmt == 11 || fmt == 12 || fmt == 13

/-- The format of a rung (R175). -/
def rungFmt (rung : Nat) : Nat := [7, 5, 3, 2, 1].getD rung 1

/-- Rungs 2 to 4: the rung's format holds every value of a source format (R153, R176). (DEDUCED, log 31) -/
def rungHolds (rung fmt : Nat) : Bool :=
  match rung with
  | 2 => fmt == 3 || fmt == 5 || fmt == 6 || fmt == 7
  | 3 => fmt != 1
  | _ => true

/-- A block as it enters at a rung: code 0 zero, 255 non-finite, 1 otherwise; its values with their scales; the events.
(DEDUCED, log 31) -/
structure QBlock where
  code : Nat
  vals : List (Option FVal)
  sat : Nat
  unf : Nat
  flags : FlagSet

/-- An element times its block's scale (R161). (DEDUCED, log 31) -/
def scaled (own : Option Nat) (x : FVal) : FVal :=
  match own with
  | none => x
  | some s => if s = 0 then .fin false 0 0 else if s = 255 then .nan false else x.scale ((s : Int) - 127)

/-- Values put back where elements are present (R178, R188). -/
def refill : List (Option FVal) → List FVal → List (Option FVal)
  | [], _ => []
  | none :: xs, vs => none :: refill xs vs
  | some _ :: xs, [] => none :: refill xs []
  | some _ :: xs, v :: vs => some v :: refill xs vs

/-- How a source block's own SC8 code enters (R161, R177): 0 skipped, 255 non-finite, 1 otherwise. (DEDUCED, log 31) -/
def ownCode (own : Option Nat) : Nat :=
  match own with
  | some s => if s = 0 then 0 else if s = 255 then 255 else 1
  | none => 1

/-- A block of a source quantised to a rung (R176), where an exact conversion raises NV for a signalling NaN as any other does (R149): a
block of code 0 is skipped and one of code 255 is non-finite at every rung
(R144, R161, R177). whole: an integer A, used exactly. own: the block's SC8 code. (DEDUCED, log 31) -/
def qblock (rung fmt : Nat) (whole : Bool) (own : Option Nat) (xs : List (Option FVal)) : QBlock :=
  let present := xs.filterMap id
  let full := xs.map fun x => x.map (scaled own)
  if rung ≤ 1 then
    if whole || fmt == rungFmt rung then
      let code := match own with
        | some _ => ownCode own
        | none => if present.any FVal.isNan then 255 else if present.all fun v => v.eqv (.fin false 0 0) then 0 else 1
      { code := code, vals := full, sat := 0, unf := 0, flags := 0 }
    else
      let (s, qs) := quantBlock (rungFmt rung) (full.filterMap id)
      let vs := qs.map fun q => (elemValue (rungFmt rung) q.bits).scale ((s : Int) - 127)
      { code := if s = 0 then 0 else if s = 255 then 255 else 1, vals := refill xs vs, sat := (qs.map Quant.sat).sum,
        unf := (qs.map Quant.unf).sum, flags := qs.foldl (fun f q => f ||| q.flags) 0 }
  else if whole || ownCode own != 1 then { code := ownCode own, vals := full, sat := 0, unf := 0, flags := 0 }
  else
    let F := if rung = 2 then bf16 else if rung = 3 then fp32 else fp64
    let hold := rungHolds rung fmt && (own.isNone || rung == 4)
    let qs : List Quant := if hold then [] else (full.filterMap id).map (quantFlt F)
    { code := 1, vals := if hold then full else refill xs (qs.map fun q => F.value q.bits), sat := (qs.map Quant.sat).sum,
      unf := (qs.map Quant.unf).sum
      flags := if hold then flagIf ((full.filterMap id).any FVal.signals) flagNV else qs.foldl (fun f q => f ||| q.flags) 0 }

/-- The exact sum of finite values. -/
def exactSum (vs : List FVal) : Int × Int :=
  vs.foldl (fun (n, x) v => match v with
    | .fin s m y => exactAdd (decide (n < 0)) n.natAbs x s m y
    | _ => (n, x)) (0, 0)

/-- A product of two values, exact; ∞ × 0 is a NaN that raises NV. -/
def exactMul (a b : FVal) : FVal × FlagSet :=
  match a, b with
  | .nan s, .nan t => (.nan false, flagIf (s || t) flagNV)
  | .nan s, _ | _, .nan s => (.nan false, flagIf s flagNV)
  | .inf s, .inf t => (.inf (s != t), 0)
  | .inf s, .fin t n _ | .fin t n _, .inf s => if n = 0 then (.nan false, flagNV) else (.inf (s != t), 0)
  | .fin s m x, .fin t n y => (.fin (s != t) (m * n) (x + y), 0)

/-- The exact sum of values with infinities and NaNs; opposite infinities raise NV. -/
def sumValues (vs : List FVal) : FVal × FlagSet :=
  if vs.any FVal.isNan then (.nan false, flagIf (vs.any FVal.signals) flagNV)
  else
    let p := vs.contains (.inf false)
    let n := vs.contains (.inf true)
    if p && n then (.nan false, flagNV)
    else if p || n then (.inf n, 0)
    else let (v, x) := exactSum vs; (.fin (decide (v < 0)) v.natAbs x, 0)

/-- The sign of an exact sum whose terms add up to zero (R151): −0 when every term is −0, else +0, or −0 in RDN. -/
def zeroSum (rm : RMode) (xs : List FVal) : Bool :=
  (!xs.isEmpty && xs.all fun v => v.sign && v.eqv (.fin false 0 0)) || rm == 2

/-- The sum of a block's products (R151, R177): an element that is missing or absent forms no product. (DEDUCED, log 30) -/
def blockSum (rm : RMode) (a b : List (Option FVal)) : FVal × FlagSet :=
  let ps := (a.zip b).filterMap fun (x, y) => match x, y with
    | some x, some y => some (exactMul x y)
    | _, _ => none
  let xs := ps.map (·.1)
  let r := sumValues xs
  (if r.1.eqv (.fin false 0 0) then .fin (zeroSum rm xs) 0 0 else r.1, ps.foldl (fun f p => f ||| p.2) r.2)

/-- The budgets of mx.budget (R180). -/
structure Budget where
  sat : Nat
  unf : Nat
  can : Nat
  tcan : Nat

/-- The budgets of a register value. -/
def budgetOf (w : Word) : Budget := { sat := fld w 0 8, unf := fld w 8 16, can := fld w 24 8, tcan := fld w 32 5 }

/-- The monitors of an attempt as it runs: its counts, the first cause to pass its budget, and whether that stopped the attempt. -/
structure Run where
  counts : Counts
  first : Nat
  stopped : Bool

/-- The first of SAT, UNF, CAN and NONFIN beyond its budget, or 0 (R181). -/
def Counts.cause (c : Counts) (b : Budget) : Nat :=
  if b.sat < c.sat then 1 else if b.unf < c.unf then 2 else if b.can < c.can then 3 else if 0 < c.nonfin then 4 else 0

/-- The rung after a squash (R181). -/
def nextRung (rung cause : Nat) : Nat := if cause = 4 ∧ rung < 2 then 2 else rung + 1

/-- A count that passes its budget squashes the attempt: there is a rung to go to below the ceiling (R181, R182). -/
def squashes (ladder : Word) (rung cause : Nat) : Bool :=
  cause != 0 && rung != fld ladder 3 3 && decide (nextRung rung cause ≤ fld ladder 3 3)

/-- A count that passes its budget stops the attempt: it squashes it, or raises PRECISION at the ceiling (R181, R182). -/
def halts (ladder : Word) (rung cause : Nat) : Bool := squashes ladder rung cause || ladder.getLsbD 6

/-- What an attempt works on: the geometry, A's format and mode, the registers, B as bound, and the slots. -/
structure MulIn where
  n : Nat
  k : Nat
  rung : Nat
  fmtA : Nat
  mode : Nat
  ladder : Word
  alpha : Word
  budget : Budget
  nB : Nat
  kB : Nat
  blockB : Nat → Nat → QBlock
  slot : Nat → Nat → FVal

/-- The accumulator format of a rung (R175). -/
def accFmt (rung : Nat) : FFmt := if rung = 4 then fp64 else fp32

/-- The accumulator rounding mode (R175). -/
def MulIn.rm (x : MulIn) : RMode := x.ladder.extractLsb' 7 3

/-- One update of the monitors (R179, R181): the attempt stops at a count that passes its budget where it may not go on. (DEDUCED,
log 30) -/
def MulIn.event (x : MulIn) (r : Run) (sat unf can nonfin : Nat) (fl : FlagSet) : Run :=
  if r.stopped then r
  else
    let n : Counts := { sat := r.counts.sat + sat, unf := r.counts.unf + unf, can := r.counts.can + can,
                        nonfin := r.counts.nonfin + nonfin, flags := r.counts.flags ||| fl }
    if r.first = 0 && n.cause x.budget != 0 then
      { counts := n, first := n.cause x.budget, stopped := halts x.ladder x.rung (n.cause x.budget) }
    else { r with counts := n }

/-- |res| < 2^−T × max(|acc|, |bs|) with both nonzero (R179). -/
def cancels (t : Nat) (acc bs res : FVal) : Bool :=
  match acc, bs, res with
  | .fin _ m x, .fin _ n y, .fin _ r z =>
    m != 0 && n != 0 &&
      (let (b, e) := if magLt m x n y then (n, y) else (m, x)
       magLt r z b (e - t))
  | _, _, _ => false

/-- An infinity from finite values. -/
def newInf (acc bs res : FVal) : Bool := !acc.nonfinite && !bs.nonfinite && res.nonfinite

/-- One accumulator rounding (R177, R179, R185). (DEDUCED, log 30) -/
def MulIn.update (x : MulIn) (r : Run) (acc bs : FVal) : Run × FVal :=
  let F := accFmt x.rung
  let b := if x.mode = 3 then bs.negate else bs
  let s := F.add x.rm acc b
  let res := F.value s.1
  (x.event r (ev (newInf acc b res)) (ev (s.2 &&& flagUF != 0)) (ev (cancels x.budget.tcan acc b res)) 0 s.2, res)

/-- The start value of an element (R185). (DEDUCED, log 30) -/
def MulIn.start (x : MulIn) (r : Run) (alpha v : FVal) : Run × FVal :=
  let F := accFmt x.rung
  match x.mode with
  | 0 => (r, .fin false 0 0)
  | 2 =>
    let s := F.mul x.rm alpha v
    let res := F.value s.1
    (x.event r (ev (newInf alpha v res)) (ev (s.2 &&& flagUF != 0)) 0 0 s.2, res)
  | _ => (r, v)

/-- α in the accumulator format, and the flags of its rounding (R185). -/
def MulIn.alphaRes (x : MulIn) : FRes := (accFmt x.rung).convert x.rm (fp64.value x.alpha.toNat)

/-- The monitors before the first A block (R176, R185): B's events over the whole bind, column by column, then the rounding of α.
(DEDUCED, log 30) -/
def MulIn.begin (x : MulIn) : Run :=
  let r0 : Run := { counts := { sat := 0, unf := 0, can := 0, nonfin := 0, flags := 0 }, first := 0, stopped := false }
  let r := (List.range x.nB).foldl (fun r j => (List.range ((x.kB + 7) / 8)).foldl (fun r blk =>
    let q := x.blockB j blk
    x.event r q.sat q.unf 0 (ev (q.code == 255)) q.flags) r) r0
  if x.mode = 2 then x.event r 0 0 0 0 x.alphaRes.2 else r

/-- The start values of row i (R185). (DEDUCED, log 30) -/
def MulIn.starts (x : MulIn) (r : Run) (i : Nat) : Run × List FVal :=
  (List.range x.n).foldl (fun (r, accs) j =>
    let (r, v) := x.start r ((accFmt x.rung).value x.alphaRes.1) (x.slot i j)
    (r, accs ++ [v])) (r, ([] : List FVal))

/-- One block of a row of A against every column (R144, R177). (DEDUCED, log 30) -/
def MulIn.block (x : MulIn) (blk : Nat) (own : Option Nat) (es : List FVal) (st : Run × List FVal) : Run × List FVal :=
  let q := qblock x.rung x.fmtA (mxInt x.fmtA) own (es.map some)
  let r := x.event st.1 q.sat q.unf 0 (ev (q.code == 255)) q.flags
  if q.code = 0 then (r, st.2)
  else st.2.zipIdx.foldl (fun (r, accs) (acc, j) =>
    let b := x.blockB j blk
    if b.code = 0 then (r, accs ++ [acc])
    else
      let (bs, fl) := if q.code = 255 || b.code = 255 then ((.nan false : FVal), flagNV) else blockSum x.rm q.vals b.vals
      let (r, v) := x.update (x.event r 0 0 0 0 fl) acc bs
      (r, accs ++ [v])) (r, [])

/-- The result word of an MMUL (R203). -/
def mulWord (rung att : Nat) (ceil : Bool) (cause : Nat) (c : Counts) : Word :=
  BitVec.ofNat 64 (rung + 8 * att + (if ceil then 128 else 0) + 256 * c.flags.toNat + 2 ^ 13 * cause
    + 2 ^ 16 * min 65535 c.unf + 2 ^ 32 * min 65535 c.sat + 2 ^ 48 * min 65535 c.can)

/-- The conversion or flag word (R208). -/
def convWord (sat unf : Nat) (fl : FlagSet) : Word :=
  BitVec.ofNat 64 (256 * fl.toNat + 2 ^ 16 * min 65535 unf + 2 ^ 32 * min 65535 sat)

end Sys2Proof.Machine
end

