-- ==== Sys2Proof/Machine/Matrix.lean ====
section
/-!
DEFINITION. Matrix instructions and the steps of the matrix unit: R140 to R143, R168 to R214.
-/

namespace Sys2Proof.Machine

/-! ### Engine registers (R192 to R197) -/

/-- A value MSET may write to a register index (R175, R180, R193 to R196). -/
def msetOk (i : Nat) (v : Word) : Bool :=
  match i with
  | 0 => fld v 48 16 == 0
  | 1 => fld v 8 24 == 0 && fld v 0 2 != 3
  | 2 => fld v 10 54 == 0 && decide (fld v 7 3 ≤ 4) && decide (fld v 3 3 ≤ 4) && decide (fld v 0 3 ≤ fld v 3 3)
  | 3 => fld v 37 27 == 0
  | 4 => true
  | 5 => fld v 2 30 == 0 && fld v 0 2 != 3
  | _ => false

/-- The engine registers after an MSET. -/
def Thread.mset (t : Thread) (i : Nat) (v : Word) : Thread :=
  match i with
  | 0 => { t with geom := v }
  | 1 => { t with amode := v }
  | 2 => { t with ladder := v }
  | 3 => { t with budget := v }
  | 4 => { t with alpha := v }
  | 5 => { t with sparse := v }
  | _ => t

/-- MSET (R192). -/
def execMset (sw : Bool) (a b : Src) (s : State) :=
  s.issue fun c => c.issue { sw := sw, pair := [a, b] } fun c =>
    if msetOk (c.src a).toNat (c.src b) then .done (c.modThread c.cur fun t => t.mset (c.src a).toNat (c.src b))
    else .trap .illegalOperand 0

/-- The operation is a matrix command: an engine command of major MX (R46), the tile route of MRD among them after its bytes are
formed (R207). -/
def Op.isMx (o : Op) : Bool := o.eng && (o.insn.extractLsb' 25 6).toNat == 0x21

/-- mx.status of a core (R197). (DEDUCED, log 32) -/
def Chip.mxStatus (c : Chip) (k : Nat) : Word :=
  let busy := c.ops.any fun o => coreOf o.tid == k && o.isMx && !o.ready
  let rung := ((c.core k).heldRung.getD 7)
  match (c.core k).bind with
  | none => BitVec.ofNat 64 (8 * rung + if busy then 2 else 0)
  | some b =>
    let tile := match b.src with
      | .tile _ => 1
      | .scratch _ => 0
    BitVec.ofNat 64 (2 ^ 32 * b.k + 2 ^ 16 * b.n + 2 ^ 9 * b.shape + 2 ^ 7 * b.sparse + 64 * tile + 8 * rung + 4
      + if busy then 2 else 0)

/-- MGET (R192, R197). -/
def execMget (sw : Bool) (a : Src) (s : State) :=
  s.issue fun c => c.issue { sw := sw, pair := [a], push := true } fun c =>
    let t := c.thread c.cur
    match (c.src a).toNat with
    | 0 => .done (c.emit none t.geom 0)
    | 1 => .done (c.emit none t.amode 0)
    | 2 => .done (c.emit none t.ladder 0)
    | 3 => .done (c.emit none t.budget 0)
    | 4 => .done (c.emit none t.alpha 0)
    | 5 => .done (c.emit none t.sparse 0)
    | 6 => .done (c.emit none (c.mxStatus (coreOf c.cur)) 0)
    | _ => .trap .illegalOperand 0

/-- M of mx.geom. -/
def Thread.geoM (t : Thread) : Nat := fld t.geom 0 16
/-- N of mx.geom. -/
def Thread.geoN (t : Thread) : Nat := fld t.geom 16 16
/-- K of mx.geom. -/
def Thread.geoK (t : Thread) : Nat := fld t.geom 32 16
/-- RM of mx.ladder. -/
def Thread.ladderRm (t : Thread) : RMode := t.ladder.extractLsb' 7 3
/-- Some m, n in 1 to 64 (R193). -/
def Thread.tileGeo (t : Thread) : Bool := decide (1 ≤ t.geoM ∧ t.geoM ≤ 64 ∧ 1 ≤ t.geoN ∧ t.geoN ≤ 64)

/-! ### Checks of formats and slots -/

/-- A format code in a register or a modifier, and its blocked form (R147). (DEDUCED, log 32) -/
def formatCause (fmt : Nat) (blk : Bool) (ok : Nat → Bool) : Option Cause :=
  if !fmtAssigned fmt || (blk && !blockable fmt) then some .badHandle
  else if !ok fmt then some .illegalOperand else none

/-- A command goes on where its format does. (DEDUCED, log 32) -/
def withFormat (fmt : Nat) (blk : Bool) (ok : Nat → Bool) (e : Eff) : Eff :=
  match formatCause fmt blk ok with
  | some cause => .trap cause 0
  | none => e

/-- The physical slots of a range of the thread's allocation (R191). -/
def Thread.slotRange (t : Thread) (first n : Nat) : Option (List Nat) :=
  if first + n ≤ t.slots.length then some ((t.slots.drop first).take n) else none

/-- The layout tag of a slot that the last writer of the core issued before operation id leaves (R174): wide or not. -/
def Chip.tagBefore (c : Chip) (id k slot : Nat) : Bool :=
  (c.ops.filter fun o => decide (o.id < id) && coreOf o.tid == k).foldl (fun w o => match o.body with
    | .mmul m _ => if m.slots.contains slot then m.wide else w
    | .mx (.clr ss wd) | .mx (.wr ss wd ..) => if ss.contains slot then wd else w
    | _ => w) ((c.core k).wide.contains slot)

/-- The layout tag of a slot for a command issued now. -/
def Chip.tagAt (c : Chip) (k slot : Nat) : Bool := c.tagBefore c.nextId k slot

/-- The tag of a slot operand's physical slot. -/
def Chip.operandTag (c : Chip) (first : Nat) : Bool :=
  match (c.thread c.cur).slots[first]? with
  | some p => c.tagAt (coreOf c.cur) p
  | none => false

/-- Slots of one output tile from a first slot: a second one in WIDE layout when N > 32 (R206, R207). -/
def oneTile (wide : Bool) (n : Nat) : Nat := if wide && decide (32 < n) then 2 else 1

/-- The place of element (i, j) among the slots of an op (R174, R201): its address in Core.acc. -/
def accAddr (slots : List Nat) (wide : Bool) (n i j : Nat) : Nat :=
  let t := i / 64 * ((n + 63) / 64) + j / 64
  if wide then 16384 * slots.getD (2 * t + j % 64 / 32) 0 + (i % 64 * 32 + j % 32) * 8
  else 16384 * slots.getD t 0 + (i % 64 * 64 + j % 64) * 4

/-- The storage format of a layout. -/
def slotFmt (wide : Bool) : FFmt := if wide then fp64 else fp32
/-- Bytes of an element of a layout. -/
def slotBytes (wide : Bool) : Nat := if wide then 8 else 4

/-- The value of an element of a slot. -/
def Core.slotValue (q : Core) (slots : List Nat) (wide : Bool) (n i j : Nat) : FVal :=
  (slotFmt wide).value (natOfBytes (q.acc.bytes (accAddr slots wide n i j) (slotBytes wide)))

/-- An element of a slot written. -/
def setElem (acc : Memory) (slots : List Nat) (wide : Bool) (n i j bits : Nat) : Memory :=
  acc.setBytes (accAddr slots wide n i j) (bytesOfNat (slotBytes wide) bits)

/-- The tag of slots. -/
def Core.setTag (q : Core) (slots : List Nat) (wide : Bool) : Core :=
  { q with wide := if wide then (slots ++ q.wide).dedup else q.wide.filter fun s => !slots.contains s }

/-- Every byte of these slots is 0. -/
def clearSlots (acc : Memory) (slots : List Nat) : Memory := acc.filter fun e => !slots.contains (e.1 / 16384)

/-- Pairs (i, j) of an m × n tile. -/
def pairs (m n : Nat) : List (Nat × Nat) := (List.range m).flatMap fun i => (List.range n).map fun j => (i, j)

/-- A matrix command starts as an operation of the thread, unless its counter is full. -/
def Chip.mxStart (c : Chip) (a : Start) (k : Ctr) (det : Bool) (b : OpBody) : Eff :=
  c.unlessFull k (.done (c.start { a with push := !det, eng := true, cc := some k } b))

/-- Slots as ranges (R189). -/
def slotRanges (ss : List Nat) (wr : Bool) : List LRange := ss.map fun s => .slot s wr

/-! ### MLDB (R170 to R172, R198, R199) -/

/-- p and q of a macro shape on a core (R170). -/
def macroShape (m : Bool) (code : Nat) : Option (Nat × Nat) :=
  if m then if code ≤ 4 then some (2 ^ code, 16 / 2 ^ code) else none
  else if code ≤ 2 then some (2 ^ code, 4 / 2 ^ code) else none

/-- Stored elements of a row of K elements under a sparsity mode: 4 or 2 of each group (R188). -/
def keptRow (sparse k : Nat) : Nat := if sparse = 1 then (k + 7) / 8 * 4 else if sparse = 2 then (k + 7) / 8 * 2 else k

/-- Bytes of a bind's scratchpad source: rows, then scales (R172, R199). -/
def Bind.len (b : Bind) : Nat :=
  b.rows * elemBytes b.fmt b.cols + if b.blocked then b.rows * ((b.k + 7) / 8) else 0

/-- MLDB at issue. (DEDUCED, log 32) -/
def execMldb (sw : Bool) (a b : Src) (k : Ctr) (det : Bool) (s : State) :=
  s.issue fun c => c.issue { sw := sw, pair := [a, b], push := !det } fun c =>
    let t := c.thread c.cur
    let h := c.src a
    let bw := c.src b
    let tile := bw.getLsbD 11
    let sp := fld t.sparse 0 2
    let kByN := fld bw 0 2 == 0
    let fmt := if tile then hFmt h else fld bw 5 5
    let blk := if tile then hBlocked h else bw.getLsbD 10
    let rows := if kByN then t.geoK else t.geoN
    let cols := if kByN then t.geoN else keptRow sp t.geoK
    let bd : Bind := { src := .scratch 0, fmt := fmt, blocked := blk, kByN := kByN, shape := fld bw 2 3, k := t.geoK, n := t.geoN,
                       sparse := sp, rows := rows, cols := cols, presence := [], olds := [] }
    let reach := match macroShape (isMCore (coreOf c.cur)) (fld bw 2 3) with
      | some (p, q) => decide (1 ≤ t.geoK ∧ t.geoK ≤ 64 * p * (if sp = 1 then 2 else if sp = 2 then 4 else 1) ∧
          1 ≤ t.geoN ∧ t.geoN ≤ 64 * q)
      | none => false
    let step4 := fun (c : Chip) (bd : Bind) (rs : List LRange) (mp : Nat) =>
      if fld bw 12 52 != 0 || decide (2 ≤ fld bw 0 2) || (tile && fld bw 5 6 != 0) || (blk && kByN) || !reach
          || (sp != 0 && kByN) then Eff.trap .illegalOperand 0
      else
        let go := fun (c : Chip) => c.mxStart { opA := h, opB := bw, ranges := rs } k det
          (.mldb bd (if tile then some h else none) mp (fld t.ladder 0 3))
        if tile then c.pureOr (·.reads h) false go else go c
    let metas := fun (c : Chip) (bd : Bind) (rs : List LRange) =>
      if sp = 0 then step4 c bd rs 0
      else c.withLocal (BitVec.ofNat 64 (fld t.sparse 32 32)) (t.geoN * ((t.geoK + 7) / 8)) 16 fun mp =>
        step4 c bd (.scratch mp (t.geoN * ((t.geoK + 7) / 8)) false :: rs) mp
    if tile then withHandle h (withFormat fmt blk mxFormat (metas c { bd with rows := hRows h, cols := hCols h } []))
    else withFormat fmt blk mxFormat (c.withLocal h bd.len 16 fun p => metas c { bd with src := .scratch p } [.scratch p bd.len false])

/-- The matrix unit is free for an operation: no earlier MLDB, MMUL or MSTAT of the core is to be completed (R171, R212). -/
def Chip.unitFree (c : Chip) (o : Op) : Bool :=
  !c.ops.any fun q => decide (q.id < o.id) && coreOf q.tid == coreOf o.tid && !q.ready && match q.body with
    | .mldb .. | .mmul .. | .mx (.stat _) => true
    | _ => false

/-- Every earlier matrix command of the core has started (R214). -/
def Chip.mxTurn (c : Chip) (o : Op) : Bool :=
  c.ops.all fun q => decide (o.id ≤ q.id) || coreOf q.tid != coreOf o.tid || q.ready || match q.body with
    | .mmul _ att => att.isSome || (c.req? q.id).isSome
    | .mldb .. => (c.req? q.id).isSome
    | .mx _ => false
    | _ => true

/-- The bind of a core is dropped; a tile source loses its reference (R172, R199). -/
def Chip.unbind (c : Chip) (k : Nat) : Chip :=
  let c' := c.modCore k fun q => { q with bind := none, heldRung := none }
  match (c.core k).bind with
  | some { src := .tile x, .. } => c'.dropRef x
  | _ => c'

/-- The presence bytes name 4 or 2 kept elements of each group (R188). -/
def presenceOk (sparse : Nat) (bs : List Byte) : Bool :=
  bs.all fun b => ((List.range 8).filter b.getLsbD).length == if sparse = 1 then 4 else 2

/-- The bind stands: the macros hold B at the floor rung, and the result is mx.status (R199). -/
def Chip.bindDone (c : Chip) (o : Op) (b : Bind) (mp rung : Nat) : Chip :=
  let k := coreOf o.tid
  let pres := if b.sparse = 0 then [] else (c.core k).scratch.bytes mp (b.n * ((b.k + 7) / 8))
  if b.sparse != 0 && !presenceOk b.sparse pres then
    (match b.src with
      | .tile x => c.dropRef x
      | .scratch _ => c).refuse o .illegalOperand 0 0
  else
    let olds := match b.src with
      | .scratch p => [(c.core k).scratch.bytes p b.len]
      | .tile _ => []
    let c := (c.modCore k fun q => { q with bind := some { b with presence := pres, olds := olds }, heldRung := some rung }).modOp o.id
      fun q => { q with ready := true, ranges := [] }
    c.modOp o.id fun q => { q with result := c.mxStatus k }

/-- MLDB starts in core order (R171, R199); a tile source is first asked for, as TWAIT asks (R172), and its served request acquires
(R139, R353). -/
def Chip.mldbGo (c : Chip) (o : Op) (b : Bind) (h : Option Word) (mp rung : Nat) : Chip :=
  let k := coreOf o.tid
  if o.ready || !c.unitFree o || !c.mxTurn o || c.heldByFork o || !c.granted k o.id o.ranges then c
  else match h with
  | none => (c.unbind k).bindDone o b mp rung
  | some h =>
    match c.req? o.id with
    | none =>
      let c := c.unbind k
      let t := c.thread o.tid
      { c with reqs := c.reqs ++ [{ id := o.id, part := o.part, space := hSpace h, index := hIndex h, version := hVersion h,
                                    header := hHeader h, body := .look .bytes, origin := .op o.id, tid := o.tid,
                                    graph := t.graph, asid := o.asid, phase := .travelling, counted := false, target := h }] }
    | some r =>
      match r.phase with
      | .served x =>
        let need := if b.kByN then (b.k, b.n) else (b.n, b.k)
        if hRows h < need.1 ∨ hCols h < need.2 then (c.delivered o.id).refuse o .illegalOperand 0 0
        else ((c.dropReq o.id).acquire k .domain).bindDone o { b with src := .tile x } mp rung
      | _ => c

/-! ### MMUL (R173, R174, R200 to R204) -/

/-- The bind that an MMUL with this id is to use, as far as its issue tells: that of the last MLDB of the core before it that is
still to be completed, or the core's own (R171, R174, R184). (DEDUCED, log 67) -/
def Chip.bindBefore (c : Chip) (id k : Nat) : Option Bind :=
  c.ops.foldl (fun b o => if o.id < id ∧ coreOf o.tid = k ∧ !o.ready then match o.body with
    | .mldb bd h .. => some (if h.isSome then { bd with src := .tile 0 } else bd)
    | _ => b else b) (c.core k).bind

/-- The scratchpad range that an MMUL holds for its bind (R184, R189). -/
def Chip.bindRange (c : Chip) (id k : Nat) : List LRange :=
  match c.bindBefore id k with
  | some b => match b.src with
    | .scratch p => [.scratch p b.len false]
    | .tile _ => []
  | none => []

/-- An MMUL of the current thread with this id, A pointer and accumulator word, under the registers the thread holds (R173, R174,
R191, R200 to R202): the command and its ranges, or the first check that fails. For a tile A, STRIDE is ignored too, and no row size
is checked (DESIGN CHOICE, log 77). (DEDUCED, log 67) -/
def Chip.mulCmd (c : Chip) (id : Nat) (x aw : Word) : Except (Cause × Word) (MulCmd × List LRange) :=
  let t := c.thread c.cur
  let k := coreOf c.cur
  let src := fld t.amode 0 2
  let fmt := if src = 1 then hFmt x else fld t.amode 2 5
  let blk := if src = 1 then hBlocked x else t.amode.getLsbD 7
  let row := elemBytes fmt t.geoK
  let step := if fld t.amode 32 32 = 0 then row else fld t.amode 32 32
  let len := if t.geoM = 0 then 0
    else if blk then t.geoM * step + t.geoM * ((t.geoK + 7) / 8) else (t.geoM - 1) * step + row
  let wide := fld t.ladder 3 3 == 4
  let tiles := (t.geoM + 63) / 64 * ((t.geoN + 63) / 64)
  let mode := fld aw 4 2
  let past := match c.bindBefore id k with
    | some b => decide (b.k < t.geoK) || decide (b.n < t.geoN)
    | none => false
  let a : Option (ASrc × List LRange) := match src with
    | 1 => some (.tile x, [])
    | 2 => some (.mem x, [])
    | _ => if x.toNat % 16 != 0 then none else (t.localAddr x len).map fun p => (.scratch p, [.scratch p len false])
  match if src = 1 ∧ badHandle x then some .badHandle else formatCause fmt blk mxFormat with
  | some cause => .error (cause, 0)
  | none => match a with
  | none => .error (.align, x)
  | some (a, rs) =>
    if fld aw 7 57 != 0 || t.geoM = 0 || decide (4096 < t.geoM) || t.geoN = 0 || t.geoK = 0 || past
        || (src != 1 && decide (step < row)) || (src = 1 && (decide (hRows x < t.geoM) || decide (hCols x < t.geoK)))
    then .error (.illegalOperand, 0)
    else match t.slotRange (fld aw 0 4) (if wide then 2 * tiles else tiles) with
    | none => .error (.illegalOperand, 0)
    | some ss =>
      if mode != 0 && ss.any fun p => c.tagBefore id k p != wide then .error (.illegalOperand, 0)
      else .ok ({ src := a, fmt := fmt, blocked := blk, stride := step, m := t.geoM, n := t.geoN, k := t.geoK, mode := mode,
                  sparse := aw.getLsbD 6, slots := ss, wide := wide, ladder := t.ladder, budget := t.budget, alpha := t.alpha },
                rs ++ c.bindRange id k ++ slotRanges ss true)

/-- MMUL at issue: it ends its group, and the thread waits for its word (R202). -/
def execMmul (sw : Bool) (a b : Src) (k : Ctr) (s : State) :=
  s.issue fun c => c.issue { sw := sw, pair := [a, b], push := true, ends := true } fun c =>
    let x := c.src a
    match c.mulCmd c.nextId x (c.src b) with
    | .error (cause, va) => .trap cause va
    | .ok (m, rs) =>
      let st : Start := { opA := x, opB := c.src b, push := true, eng := true, cc := some k, ranges := rs }
      let go := fun (c : Chip) => c.unlessFull k
        (.done ((c.start st (.mmul m none)).modThread c.cur fun t => { t with park := .product c.nextId }))
      match m.src with
      | .tile h => c.pureOr (·.reads h) false go
      | .mem _ => c.impure false go
      | .scratch _ => go c

/-- An MMUL that issues again takes the registers its thread holds then (R182): its command and ranges, or the check it fails. -/
def Chip.mulAgain (c : Chip) (o : Op) : Except (Cause × Word) Op :=
  match Chip.mulCmd { c with cur := o.tid } c.nextId o.opA o.opB with
  | .ok (m, rs) => .ok { o with body := .mmul m none, ranges := rs }
  | .error e => .error e

/-- Where block blk of row i of A stands (R173): its elements from the row's stride, then its code after the M rows. -/
def MulCmd.runs (m : MulCmd) (base : Word) (i blk : Nat) : List (Word × Nat) :=
  let lo := elemBytes m.fmt (8 * blk)
  (base + BitVec.ofNat 64 (i * m.stride + lo), elemBytes m.fmt (min m.k (8 * blk + 8)) - lo) ::
    if m.blocked then [(base + BitVec.ofNat 64 (m.m * m.stride + i * ((m.k + 7) / 8) + blk), 1)] else []

/-- The same block of a tile A. -/
def MulCmd.tileBytes (m : MulCmd) (h : Word) (bs : List Byte) (i blk : Nat) : List Byte :=
  let lo := elemBytes m.fmt (8 * blk)
  let row := elemBytes m.fmt (hCols h)
  (bs.drop (i * row + lo)).take (elemBytes m.fmt (min m.k (8 * blk + 8)) - lo) ++
    if m.blocked then [bs.getD (hRows h * row + i * (hCols h / 8) + blk) 0] else []

/-- Elements of block blk. -/
def MulCmd.blockSize (m : MulCmd) (blk : Nat) : Nat := min 8 (m.k - 8 * blk)

/-- Element t of a block's bytes. -/
def MulCmd.bitsA (m : MulCmd) (t : Nat) (bs : List Byte) : Nat := elemAt m.fmt bs t

/-- The code of a block's bytes. (DEDUCED, log 31) -/
def MulCmd.codeA (m : MulCmd) (blk : Nat) (bs : List Byte) : Nat := (bs.getD (elemBytes m.fmt (m.blockSize blk)) 0).toNat

/-- Which of the values that it had an element or a code takes (R28, R184). (DESIGN CHOICE, log 4) -/
def mixed (draw : Nat) (vs : List Nat) : Nat :=
  match vs.dedup with
  | [v] => v
  | ds => ds.getD ((Config.freeWord draw).toNat % ds.length) 0

/-- Where element (k, j) of B is stored: row and column, if it is present (R172, R188). -/
def Bind.place (b : Bind) (k j : Nat) : Option (Nat × Nat) :=
  if b.kByN then some (k, j)
  else if b.sparse = 0 then some (j, k)
  else
    let p := b.presence.getD (j * ((b.k + 7) / 8) + k / 8) 0
    if p.getLsbD (k % 8) then
      some (j, k / 8 * (if b.sparse = 1 then 4 else 2) + ((List.range (k % 8)).filter p.getLsbD).length)
    else none

/-- The bits of a stored element of B. -/
def Bind.bitsAt (b : Bind) (bs : List Byte) (rc : Nat × Nat) : Nat :=
  let row := elemBytes b.fmt b.cols
  elemAt b.fmt ((bs.drop (rc.1 * row)).take row) rc.2

/-- The code of block blk of row j of B. (DEDUCED, log 31) -/
def Bind.codeAt (b : Bind) (bs : List Byte) (j blk : Nat) : Nat :=
  let per := match b.src with
    | .tile _ => b.cols / 8
    | .scratch _ => (b.k + 7) / 8
  (bs.getD (b.rows * elemBytes b.fmt b.cols + j * per + blk) 0).toNat

/-- Block blk of column j of B at a rung, over the bind's K elements, from the bytes that its source had (R28, R176): each element,
and each code by itself, is one of them. (DESIGN CHOICE, log 4) -/
def Bind.block (b : Bind) (vs : List (List Byte)) (draw rung j blk : Nat) : QBlock :=
  let xs := (List.range (min 8 (b.k - 8 * blk))).map fun t =>
    (b.place (8 * blk + t) j).map fun rc =>
      elemValue b.fmt (mixed (draw + rc.1 * 4096 + rc.2) (vs.map fun bs => b.bitsAt bs rc))
  qblock rung b.fmt false
    (if b.blocked then some (mixed (draw + 2 ^ 24 + j * 512 + blk) (vs.map fun bs => b.codeAt bs j blk)) else none) xs

/-- The bytes of a bind's source: those its bind and its attempts found, and those there now (R28); a tile version has one value
(R99). -/
def Chip.bindBytes (c : Chip) (k : Nat) (b : Bind) : List (List Byte) :=
  match b.src with
  | .scratch p => (b.olds ++ [(c.core k).scratch.bytes p b.len]).dedup
  | .tile x => [c.extentBytes x]

/-- What an attempt works on. -/
def Chip.mulIn (c : Chip) (k : Nat) (m : MulCmd) (b : Bind) (rung draw : Nat) : MulIn :=
  { n := m.n, k := m.k, rung := rung, fmtA := m.fmt, mode := m.mode, ladder := m.ladder, alpha := m.alpha,
    budget := budgetOf m.budget, nB := b.n, kB := b.k,
    blockB := b.block (c.bindBytes k b) draw rung, slot := (c.core k).slotValue m.slots m.wide m.n }

/-- An accumulator as an attempt keeps it between its blocks: its binary64 bits, which every value of a slot and of an accumulator
format has exactly (R174, R185); a NaN that signals stays one. -/
def accBits (v : FVal) : Nat := if v.signals then 0x7FF0000000000001 else (fp64.convert 0 v).1

/-- The inactive copies with a row of accumulators (R174, R177). -/
def putRow (m : MulCmd) (copies : Memory) (i : Nat) (accs : List Nat) : Memory :=
  accs.zipIdx.foldl (fun acc (v, j) =>
    setElem acc m.slots m.wide m.n i j ((slotFmt m.wide).convert 0 (fp64.value v)).1) copies

/-- The monitors of an attempt as they stand. -/
def Attempt.run (a : Attempt) : Run := { counts := a.counts, first := a.passed, stopped := a.ran }

/-- The monitors and the accumulators of the row after an update; an attempt that a count stopped has run (R181, R182). -/
def Attempt.setRun (a : Attempt) (r : Run) (accs : List FVal) : Attempt :=
  { a with counts := r.counts, passed := r.first, ran := r.stopped, accs := accs.map accBits }

/-- A block is complete: after the last one of a row, the row is in the inactive copies and the next row is due. -/
def Attempt.advance (a : Attempt) (m : MulCmd) : Attempt :=
  if a.blocks + 1 < (m.k + 7) / 8 then { a with blocks := a.blocks + 1 }
  else { a with row := a.row + 1, blocks := 0, accs := [], copies := putRow m a.copies a.row a.accs }

/-- The blocks of A that an attempt has not taken. -/
def Attempt.left (a : Attempt) (m : MulCmd) : Nat := m.m * ((m.k + 7) / 8) - (a.row * ((m.k + 7) / 8) + a.blocks)

/-- A counter of the matrix unit rises (R212). -/
def Chip.countMx (c : Chip) (k i : Nat) : Chip :=
  c.modCore k fun q => { q with mxc := q.mxc.setIfInBounds i (q.mxc[i]! + 1) }

/-- The attempt of an MMUL in flight. -/
def Chip.setAttempt (c : Chip) (id : Nat) (m : MulCmd) (a : Attempt) : Chip := c.modOp id fun q => { q with body := .mmul m (some a) }

/-- An attempt goes on from where no count had passed its budget, or from there: where the first passes at an attempt that is not
squashed, MXC_CEIL counts then (R182, R202). -/
def Chip.moveAttempt (c : Chip) (o : Op) (m : MulCmd) (passed : Nat) (a : Attempt) : Chip :=
  let c := c.setAttempt o.id m a
  if passed = 0 ∧ a.passed ≠ 0 ∧ !squashes m.ladder a.rung a.passed then c.countMx (coreOf o.tid) 9 else c

/-- The operation, command, attempt and bind of an MMUL whose attempt runs. -/
def Chip.attempting (c : Chip) (id : Nat) : Option (Op × MulCmd × Attempt × Bind) :=
  match c.op? id with
  | some o => match o.body, (c.core (coreOf o.tid)).bind with
    | .mmul m (some a), some b => if a.ran then none else some (o, m, a, b)
    | _, _ => none
  | none => none

/-- An attempt starts (R176, R181): it counts MXC_ATT for its rung, the macros hold B at that rung, and B's events are counted. -/
def Chip.newAttempt (c : Chip) (o : Op) (m : MulCmd) (b : Bind) (rung attempts cause : Nat) (seen : Table (List (List Byte))) : Chip :=
  let k := coreOf o.tid
  let olds := match b.src with
    | .scratch _ => c.bindBytes k b
    | .tile _ => b.olds
  let a : Attempt := { rung := rung, attempts := attempts, lastCause := cause, ran := false, passed := 0, row := 0, blocks := 0, accs := [],
                       counts := { sat := 0, unf := 0, can := 0, nonfin := 0, flags := 0 }, copies := [], seen := seen, draw := c.draws }
  let a := a.setRun (c.mulIn k m b rung c.draws).begin []
  let c := (c.countMx k rung).modCore k fun q => { q with heldRung := some rung, bind := some { b with olds := olds } }
  Chip.moveAttempt { c with draws := c.draws + 2 ^ 27 } o m 0 a

/-- The bytes of the block an attempt is at (R173, R187): its elements, then its code. -/
def Chip.blockBytes (c : Chip) (o : Op) (m : MulCmd) (a : Attempt) : Got :=
  match m.src with
  | .scratch p => .bytes ((m.runs (BitVec.ofNat 64 p) a.row a.blocks).flatMap fun r =>
      (c.core (coreOf o.tid)).scratch.bytes r.1.toNat r.2) c
  | .tile h => match c.servedExtent o.id with
    | some x => .bytes (m.tileBytes h (c.extentBytes x) a.row a.blocks) c
    | none => .stay c
  | .mem va => c.readRuns o (m.runs va a.row a.blocks) (mxToken a.attempts a.rung a.blocks)

/-- The blocks of a byte-memory A as they stand when the op starts, as far as this package holds them: an element that is written
later may still be taken old (R184). (DESIGN CHOICE, log 12) -/
def Chip.blocksNow (c : Chip) (o : Op) (m : MulCmd) : Table (List (List Byte)) :=
  match m.src with
  | .mem va => (List.range m.m).flatMap fun i => (List.range ((m.k + 7) / 8)).filterMap fun blk =>
      match c.runs o .read ((m.runs va i blk).flatMap cutRun) with
      | .ok ps =>
        let keys := hereKeys ps
        if keys.length = (ps.map Piece.size).sum ∧ !c.hostHolds keys true ∧ !keys.any c.hostOnly then
          some (i * 512 + blk, [keys.map c.mem.byte])
        else none
      | _ => none
  | _ => []

/-- An attempt takes one block of a row of A (R144, R177, R184): an element that another agent wrote during the op is old or new.
(DESIGN CHOICE, log 4) -/
def MulIn.takeBlock (x : MulIn) (m : MulCmd) (a : Attempt) (bs : List Byte) : Attempt :=
  let i := a.row * 512 + a.blocks
  let vs := ((Table.get? a.seen i).getD [] ++ [bs]).dedup
  let es := (List.range (m.blockSize a.blocks)).map fun t =>
    elemValue m.fmt (mixed (a.draw + 2 ^ 25 + 8 * i + t) (vs.map (m.bitsA t)))
  let own := if m.blocked then some (mixed (a.draw + 2 ^ 26 + i) (vs.map (m.codeA a.blocks))) else none
  let (r, accs) := x.block a.blocks own es (a.run, a.accs.map fp64.value)
  let a := { a.setRun r accs with seen := match m.src with
    | .mem _ => Table.put a.seen i vs
    | _ => a.seen }
  if a.ran then a else a.advance m

/-- The start values of a row, as its first block is due (R185). -/
def MulIn.enterRow (x : MulIn) (a : Attempt) : Attempt :=
  if a.accs.isEmpty then
    let (r, accs) := x.starts a.run a.row
    a.setRun r accs
  else a

/-- An attempt goes on over at most n blocks: row by row of A, block by block along K, until bytes are missing, a count stops it, or
its blocks are done, or its graph has ended (R177, R181, R183, R187). (DEDUCED, log 30) (DESIGN CHOICE, log 12) -/
def Chip.blocksRun (c : Chip) (id : Nat) : Nat → Chip
  | 0 => match c.attempting id with
    | some (_, m, a, _) => c.setAttempt id m { a with ran := true }
    | none => c
  | n + 1 => match c.attempting id with
    | none => c
    | some (o, m, a, b) =>
      let x := c.mulIn (coreOf o.tid) m b a.rung a.draw
      let passed := a.passed
      let a := x.enterRow a
      let c := c.moveAttempt o m passed a
      if a.ran || (o.moving.isNone && !c.owned o) then c
      else match c.blockBytes { o with body := .mmul m (some a) } m a with
      | .stay c => c
      | .bytes bs c => (c.moveAttempt o m a.passed (x.takeBlock m a bs)).blocksRun id n

/-- The attempt of an MMUL runs as far as A's bytes are there; a page fault makes it wait at its block (R187, R204). -/
def Chip.tryAttempt (c : Chip) (id : Nat) : Chip :=
  match c.attempting id with
  | some (_, m, a, _) => c.blocksRun id (a.left m)
  | none => c

/-- MMUL starts in core order: the bind is checked and the first attempt begins (R202); the served request of a tile A acquires
(R139, R353). (DEDUCED, log 67) -/
def Chip.mmulGo (c : Chip) (o : Op) (m : MulCmd) (att : Option Attempt) : Chip :=
  let k := coreOf o.tid
  match att with
  | some _ => c.tryAttempt o.id
  | none =>
    if !c.unitFree o || !c.mxTurn o || c.heldByFork o || !c.granted k o.id o.ranges then c
    else match (c.core k).bind with
    | none => (c.delivered o.id).refuse o .illegalOperand 0 (mulToken m none)
    | some b =>
      if b.k < m.k || b.n < m.n || m.sparse != (b.sparse != 0) then (c.delivered o.id).refuse o .illegalOperand 0 (mulToken m none)
      else
        let begin_ := fun (c : Chip) => (c.newAttempt o m b (fld m.ladder 0 3) 1 0 (c.blocksNow o m)).tryAttempt o.id
        match m.src with
        | .tile h =>
          match c.req? o.id with
          | none =>
            let t := c.thread o.tid
            { c with reqs := c.reqs ++ [{ id := o.id, part := o.part, space := hSpace h, index := hIndex h, version := hVersion h,
                                          header := hHeader h, body := .look .bytes, origin := .op o.id, tid := o.tid,
                                          graph := t.graph, asid := o.asid, phase := .travelling, counted := false, target := h }] }
          | some r => match r.phase with
            | .served _ => begin_ (c.acquire k .domain)
            | _ => c
        | _ => begin_ c

/-- A squash: the copies are discarded and the op starts a rung wider, below its ceiling (R181). -/
def Chip.mmulSquashed (c : Chip) (o : Op) (m : MulCmd) (a : Attempt) : Chip :=
  match (c.core (coreOf o.tid)).bind with
  | some b =>
    if a.ran && squashes m.ladder a.rung a.passed then
      ((c.countMx (coreOf o.tid) (4 + a.passed)).newAttempt o m b (nextRung a.rung a.passed) (a.attempts + 1) a.passed a.seen).tryAttempt o.id
    else c
  | none => c

/-- The inactive copies of the elements an op covers become active (R183). (DEDUCED, log 72) -/
def commitCopies (acc copies : Memory) (m : MulCmd) : Memory :=
  (pairs m.m m.n).foldl (fun acc (e : Nat × Nat) =>
    let p := accAddr m.slots m.wide m.n e.1 e.2
    acc.setBytes p (copies.bytes p (slotBytes m.wide))) acc

/-- The final attempt ends: the copies become active together and the word is pushed, or PRECISION (R182, R183, R203).
(DEDUCED, log 72) -/
def Chip.mmulEnds (c : Chip) (o : Op) (m : MulCmd) (a : Attempt) : Chip :=
  let k := coreOf o.tid
  if !a.ran || squashes m.ladder a.rung a.passed then c
  else
    let c := c.delivered o.id
    if a.passed != 0 && m.ladder.getLsbD 6 then c.refuse o .precision 0 (mxToken a.attempts a.rung a.blocks)
    else
      let c := c.modCore k fun q => ({ q with acc := commitCopies q.acc a.copies m }).setTag m.slots m.wide
      c.finish o (mulWord a.rung a.attempts (a.passed != 0) (if a.passed != 0 then a.passed else a.lastCause) a.counts) 0

/-- MLDB_START. -/
def execMldbStart (id : Nat) (s : State) :=
  s.on fun c => match c.op? id with
    | some o => match o.body with
      | .mldb b h mp rung => c.mldbGo o b h mp rung
      | _ => c
    | none => c

/-- MMUL_SQUASH. -/
def execMmulSquash (id : Nat) (s : State) :=
  s.on fun c => match c.op? id with
    | some o => match o.body with
      | .mmul m (some a) => c.mmulSquashed o m a
      | _ => c
    | none => c

/-- MMUL_COMMIT. -/
def execMmulCommit (id : Nat) (s : State) :=
  s.on fun c => match c.op? id with
    | some o => match o.body with
      | .mmul m (some a) => c.mmulEnds o m a
      | _ => c
    | none => c

/-! ### Slot commands at issue (R205 to R212) -/

/-- MCLR (R205). -/
def execMclr (sw : Bool) (a b : Src) (k : Ctr) (det wide : Bool) (s : State) :=
  s.issue fun c => c.issue { sw := sw, pair := [a, b], push := !det } fun c =>
    let n := (c.src b).toNat
    if n = 0 ∨ 8 < n ∨ 15 < (c.src a).toNat then .trap .illegalOperand 0
    else match (c.thread c.cur).slotRange (c.src a).toNat n with
    | none => .trap .illegalOperand 0
    | some ss => c.mxStart { opA := c.src a, opB := c.src b, result := c.src b, ranges := slotRanges ss true } k det (.mx (.clr ss wide))

/-- A slot operand and the geometry of one output tile (R190, R193). -/
def Chip.withTile (c : Chip) (a : Word) (wide : Bool) (f : List Nat → Eff) : Eff :=
  let t := c.thread c.cur
  if 15 < a.toNat ∨ !t.tileGeo then .trap .illegalOperand 0
  else match t.slotRange a.toNat (oneTile wide t.geoN) with
  | none => .trap .illegalOperand 0
  | some ss => f ss

/-- A tile that a command reads or scales: a pair of slots used as one WIDE tile both carry the WIDE tag (R205); where they do not,
ILLEGAL_OPERAND at issue (DESIGN CHOICE, log 79). -/
def Chip.withRead (c : Chip) (a : Word) (wide : Bool) (f : List Nat → Eff) : Eff :=
  c.withTile a wide fun ss => if wide && !ss.all (c.tagAt (coreOf c.cur)) then .trap .illegalOperand 0 else f ss

/-- Bytes of an M × N tile in local memory, N to a row. -/
def Thread.tileLen (t : Thread) (fmt : Nat) : Nat := t.geoM * elemBytes fmt t.geoN

/-- MRD to scratchpad (R207). -/
def execMrd (sw : Bool) (a b : Src) (k : Ctr) (det : Bool) (f : BitVec 5) (s : State) :=
  s.issue fun c => c.issue { sw := sw, pair := [a, b], push := !det } fun c =>
    let t := c.thread c.cur
    let wide := c.operandTag (c.src a).toNat
    withFormat f.toNat false numeric (c.withLocal (c.src b) (t.tileLen f.toNat) 16 fun p =>
      c.withRead (c.src a) wide fun ss =>
        c.mxStart { opA := c.src a, opB := c.src b, ranges := .scratch p (t.tileLen f.toNat) true :: slotRanges ss false } k det
          (.mx (.rd ss wide t.geoM t.geoN f.toNat p)))

/-- MRD of the tile route (R207, R213). (DESIGN CHOICE, log 84) -/
def execMrdTile (sw : Bool) (a b : Src) (k : Ctr) (det : Bool) (s : State) :=
  s.issue fun c => c.issue { sw := sw, pair := [a, b], push := !det } fun c =>
    let t := c.thread c.cur
    let wide := c.operandTag (c.src a).toNat
    c.withRecord (c.src b) 16 8 fun c p =>
      let h := c.scratchWord p
      let u := c.scratchWord (p + 8)
      withHandle h (if !numeric (hFmt h) then .trap .illegalOperand 0
        else c.withRead (c.src a) wide fun ss =>
          if fld u 16 48 != 0 || u == 0 || hRows h != t.geoM || hCols h != t.geoN then .trap .illegalOperand 0
          else c.pureOr (·.publishes h) (c.strictSpace h) fun c => c.writing 1
            fun c => c.mxStart { opA := c.src a, opB := c.src b, ranges := slotRanges ss false } k det
              (.mx (.rdTile ss wide t.geoM t.geoN h (fld u 0 16))))

/-- MWR (R206). -/
def execMwr (sw : Bool) (a b : Src) (k : Ctr) (det : Bool) (f : BitVec 5) (s : State) :=
  s.issue fun c => c.issue { sw := sw, pair := [a, b], push := !det } fun c =>
    let t := c.thread c.cur
    let wide := f.toNat == 1
    withFormat f.toNat false numeric (c.withLocal (c.src b) (t.tileLen f.toNat) 16 fun p =>
      c.withTile (c.src a) wide fun ss =>
        c.mxStart { opA := c.src a, opB := c.src b, ranges := .scratch p (t.tileLen f.toNat) false :: slotRanges ss true } k det
          (.mx (.wr ss wide t.geoM t.geoN f.toNat p)))

/-- MRED: v(K) stays outstanding, of a detached MRED too: the marker waits for it (R143, R209, R221; DESIGN CHOICE, log 81). -/
def execMred (sw : Bool) (a : Src) (k : Ctr) (det : Bool) (v : VReg) (op : MRedOp) (s : State) :=
  s.issue fun c => c.issue { sw := sw, pair := [a], push := !det, vuse := [v], vout := [v] } fun c =>
    let t := c.thread c.cur
    let wide := c.operandTag (c.src a).toNat
    c.withRead (c.src a) wide fun ss => c.afterPipe fun c =>
      c.mxStart { opA := c.src a, outst := true, ranges := slotRanges ss false } k det
        (.mx (.red ss wide t.geoM t.geoN op v t.ladderRm))

/-- MSCR and MSCC: v(K) is read at issue (R210). -/
def Chip.mscale (c : Chip) (sw : Bool) (a : Src) (k : Ctr) (det : Bool) (v : VReg) (cols : Bool) : Chip :=
  c.issue { sw := sw, pair := [a], push := !det, vuse := [v] } fun c =>
    let t := c.thread c.cur
    let wide := c.operandTag (c.src a).toNat
    c.withRead (c.src a) wide fun ss => c.afterPipe fun c =>
      c.mxStart { opA := c.src a, ranges := slotRanges ss true } k det
        (.mx (.scale ss wide t.geoM t.geoN cols t.vec[v] t.ladderRm))

/-- MSCR. -/
def execMscr (sw : Bool) (a : Src) (k : Ctr) (det : Bool) (v : VReg) (s : State) := s.issue fun c => c.mscale sw a k det v false
/-- MSCC. -/
def execMscc (sw : Bool) (a : Src) (k : Ctr) (det : Bool) (v : VReg) (s : State) := s.issue fun c => c.mscale sw a k det v true

/-- Formats that MCMP compresses (R211). -/
def cmpFormat (fmt : Nat) : Bool := [1, 2, 3, 4, 5, 6, 7, 11, 12].contains fmt

/-- MCMP (R211). A blocked source that could be blocked is ILLEGAL_OPERAND after the ALIGN checks, and destinations that overlap each
other are accepted (DESIGN CHOICE, log 78). (DEDUCED, log 32) -/
def execMcmp (sw : Bool) (a b : Src) (k : Ctr) (det two : Bool) (s : State) :=
  s.issue fun c => c.issue { sw := sw, pair := [a, b], push := !det } fun c =>
    let t := c.thread c.cur
    let fmt := fld t.amode 2 5
    let n := t.geoN
    let kk := t.geoK
    let srcLen := n * elemBytes fmt kk
    let dstLen := n * elemBytes fmt (keptRow (if two then 2 else 1) kk)
    let mLen := n * (kk / 8)
    withFormat fmt (t.amode.getLsbD 7) cmpFormat (c.withLocal (c.src a) srcLen 16 fun p => c.withLocal (c.src b) dstLen 16 fun d =>
      c.withLocal (BitVec.ofNat 64 (fld t.sparse 32 32)) mLen 16 fun mp =>
        let rs := LRange.scratch p srcLen false
        let ws := [LRange.scratch d dstLen true, LRange.scratch mp mLen true]
        if n = 0 ∨ 4096 < n ∨ kk % 8 ≠ 0 ∨ kk = 0 ∨ 4096 < kk ∨ t.amode.getLsbD 7 ∨ ws.any rs.conflict then .trap .illegalOperand 0
        else c.mxStart { opA := c.src a, opB := c.src b, ranges := rs :: ws } k det (.mx (.cmp fmt n kk two p d mp)))

/-- MSTAT (R212). -/
def execMstat (sw : Bool) (a : Src) (k : Ctr) (det : Bool) (s : State) :=
  s.issue fun c => c.issue { sw := sw, pair := [a], push := !det } fun c =>
    if 9 < (c.src a).toNat then .trap .illegalOperand 0
    else c.mxStart { opA := c.src a } k det (.mx (.stat (c.src a).toNat))

/-! ### Slot commands performed -/

/-- Results gathered over the elements of a tile. -/
def sumQuant (qs : List Quant) : Word :=
  convWord (qs.map Quant.sat).sum (qs.map Quant.unf).sum (qs.foldl (fun f q => f ||| q.flags) 0)

/-- Rows of quantised elements as bytes, N to a row; the spare high nibble of an INT4 row of odd N is zero (R143, R160, R207; DESIGN
CHOICE, log 80). -/
def packRows (fmt : Nat) (rows : List (List Quant)) : List Byte := rows.flatMap fun r => packElems fmt (r.map Quant.bits)

/-- The values of a tile of slots, by rows. -/
def Core.tileValues (q : Core) (ss : List Nat) (wide : Bool) (m n : Nat) : List (List FVal) :=
  (List.range m).map fun i => (List.range n).map fun j => q.slotValue ss wide n i j

/-- A row quantised in blocks of 8: its elements and its codes (R162). -/
def quantRow (fmt : Nat) : Nat → List FVal → List Quant × List Byte
  | 0, _ => ([], [])
  | b + 1, vs =>
    let (s, qs) := quantBlock fmt (vs.take 8)
    let (rest, codes) := quantRow fmt b (vs.drop 8)
    (qs ++ rest, BitVec.ofNat 8 s :: codes)

/-- The tile bytes of MRD's tile route and its conversion word (R207). -/
def tileOfValues (h : Word) (rows : List (List FVal)) : List Byte × Word :=
  if hBlocked h then
    let rs := rows.map (quantRow (hFmt h) (hCols h / 8))
    (packRows (hFmt h) (rs.map (·.1)) ++ rs.flatMap (·.2), sumQuant (rs.flatMap (·.1)))
  else
    let rs := rows.map fun r => r.map (quantize (hFmt h))
    (packRows (hFmt h) rs, sumQuant rs.flatten)

/-- An element MWR loads, in the layout's format: exact where R153 applies, else saturating (R206). -/
def loadElem (fmt bits : Nat) : Quant :=
  let v := elemValue fmt bits
  if fmt = 1 then { bits := (fp64.convert 0 v).1, flags := (fp64.convert 0 v).2, sat := 0, unf := 0 }
  else if fmt < 7 then { bits := (fp32.convert 0 v).1, flags := (fp32.convert 0 v).2, sat := 0, unf := 0 }
  else quantFlt fp32 v

/-- A row reduced (R209): the binary32 bits and the flags; a zero sum takes its sign by R151. -/
def reduceRow (op : MRedOp) (rm : RMode) (vs : List FVal) : FRes :=
  match op with
  | .max =>
    if vs.any FVal.isNan then fp32.nanRes (vs.any FVal.signals)
    else
      let best := vs.foldl (fun b v => match b with
        | none => some v
        | some b => if b.lt v || (b.eqv v && b.sign && !v.sign) then some v else some b) (none : Option FVal)
      fp32.convert rm (best.getD (.fin false 0 0))
  | _ =>
    let xs := if op = .ssq then vs.map fun v => (exactMul v v).1 else vs
    if vs.any FVal.isNan then fp32.nanRes (vs.any FVal.signals)
    else match sumValues xs with
    | (.nan _, _) => fp32.nanRes true
    | (.inf s, _) => (fp32.signed s fp32.infCode, 0)
    | (.fin s m x, _) =>
      if m = 0 then
        (fp32.signed (zeroSum rm xs) 0, 0)
      else fp32.convert rm (.fin s m x)

/-- The indexes of the elements of a group that MCMP keeps: the largest by magnitude, ties to the lower index (R188, R211). -/
def keptOf (fmt n : Nat) (g : List Nat) : List Nat :=
  let mag := fun b => match elemValue fmt b with
    | .fin _ m x => .fin false m x
    | .inf _ => .inf false
    | v => v
  let above := fun a b : Nat =>   -- element a of the group ranks above element b
    let x : FVal := mag (g.getD a 0)
    let y : FVal := mag (g.getD b 0)
    if x.isNan || y.isNan then (x.isNan && !y.isNan) || (x.isNan && y.isNan && decide (a < b))
    else y.lt x || (x.eqv y && decide (a < b))
  (List.range 8).filter fun i => decide (((List.range 8).filter fun j => above j i).length < n)

/-- A nonzero element. -/
def nonzeroBits (fmt b : Nat) : Bool := !(elemValue fmt b).eqv (.fin false 0 0)

/-- The groups of MCMP's source in row order. -/
def cmpGroups (fmt n k : Nat) (bs : List Byte) : List (List Nat) :=
  (List.range (n * (k / 8))).map fun g => (List.range 8).map fun t => elemAt fmt bs (8 * g + t)

/-- The presence byte of kept indexes. -/
def presenceByte (ks : List Nat) : Byte := ks.foldl (fun b i => b ||| BitVec.twoPow 8 i) 0

/-- A slot command is performed, in its turn and once the scoreboard grants its ranges (R189, R205 to R214). Where MCMP's destinations
overlap each other, the presence bytes stand (R211; DESIGN CHOICE, log 78). -/
def Chip.doMx (c : Chip) (o : Op) (cmd : MxCmd) : Chip :=
  let k := coreOf o.tid
  let q := c.core k
  if !c.mxTurn o || !c.granted k o.id o.ranges || c.heldByFork o then c
  else match cmd with
  | .clr ss wide => (c.modCore k fun q => ({ q with acc := clearSlots q.acc ss }).setTag ss wide).finish o o.result 0
  | .rd ss wide m n fmt dst =>
    let rows := (q.tileValues ss wide m n).map fun r => r.map (quantize fmt)
    (c.modCore k fun q => { q with scratch := q.scratch.setBytes dst (packRows fmt rows) }).finish o (sumQuant rows.flatten) 0
  | .rdTile ss wide m n h uses =>
    let (bs, w) := tileOfValues h (q.tileValues ss wide m n)
    let t := c.thread o.tid
    let c := c.modOp o.id fun q => { q with body := .tile false, result := w, opA := h, ranges := [] }
    { c with reqs := c.reqs ++ [{ id := o.id, part := o.part, space := hSpace h, index := hIndex h, version := hVersion h,
                                  header := hHeader h, body := .store uses bs, origin := .op o.id, tid := o.tid, graph := t.graph,
                                  asid := o.asid, phase := .travelling, counted := false, target := h }] }
  | .wr ss wide m n fmt src =>
    let row := elemBytes fmt n
    let bs := q.scratch.bytes src (m * row)
    let xs := (pairs m n).map fun (i, j) => ((i, j), loadElem fmt (elemAt fmt ((bs.drop (i * row)).take row) j))
    let changes := ss.filter fun s => q.wide.contains s != wide
    let c := c.modCore k fun q => ({ q with
      acc := xs.foldl (fun acc (e : (Nat × Nat) × Quant) => setElem acc ss wide n e.1.1 e.1.2 e.2.bits) (clearSlots q.acc changes) }).setTag ss wide
    c.finish o (sumQuant (xs.map (·.2))) 0
  | .red ss wide m n op v rm =>
    let rs := (q.tileValues ss wide m n).map (reduceRow op rm)
    let c := c.modThread o.tid fun t => { t with vec := t.vec.set v (vofLanes 4 ((rs.map (·.1)) ++ List.replicate (64 - m) 0)) }
    c.finish o (convWord 0 0 (rs.foldl (fun f r => f ||| r.2) 0)) 0
  | .scale ss wide m n cols v rm =>
    let F := slotFmt wide
    let xs := (pairs m n).map fun (i, j) =>
      ((i, j), F.mul rm (q.slotValue ss wide n i j) (fp32.value (vlane v 4 (if cols then j else i))))
    let c := c.modCore k fun q => { q with acc := xs.foldl (fun acc (e : (Nat × Nat) × FRes) => setElem acc ss wide n e.1.1 e.1.2 e.2.1) q.acc }
    c.finish o (convWord 0 0 (xs.foldl (fun f e => f ||| e.2.2) 0)) 0
  | .cmp fmt n kk two src dst mp =>
    let gs := cmpGroups fmt n kk (q.scratch.bytes src (n * elemBytes fmt kk))
    let keep := if two then 2 else 4
    let ks := gs.map (keptOf fmt keep)
    let vals := packElems fmt ((gs.zip ks).flatMap fun (g, is) => is.map fun i => g.getD i 0)
    let dropped := ((gs.zip ks).map fun (g, is) =>
      ((List.range 8).filter fun i => !is.contains i && nonzeroBits fmt (g.getD i 0)).length).sum
    let c := c.modCore k fun q => { q with scratch := (q.scratch.setBytes dst vals).setBytes mp (ks.map presenceByte) }
    c.finish o (BitVec.ofNat 64 dropped) 0
  | .stat i => if c.unitFree o then c.finish o (q.mxc[i]!) 0 else c

end Sys2Proof.Machine
end

