-- ==== Sys2Proof/Machine/Traps.lean ====
section
/-!
DEFINITION. The save area, stop records, the end of a graph, posting and answering traps: R23, R261, R301 to R317.
-/

namespace Sys2Proof.Machine

/-! ### Stop records (R311, R314, R317) -/

/-- A thread id as TID shows it (R341). -/
def Chip.tid (c : Chip) (t : Nat) : Nat := c.device.toNat * 8192 + t

/-- What a stop record says (R314). -/
structure StopRec where
  cause : Nat
  unit : Nat
  thread : Nat
  task : Nat
  pc : Word
  token : Word := 0
  counts : Nat := 0
  opA : Word := 0
  opB : Word := 0

/-- A stop record is written to the ring; without a save area it is discarded (R311, R314, R317). -/
def Chip.putStop (c : Chip) (p : Nat) (r : StopRec) : Chip :=
  if !c.areaOk p then c
  else
    let q := c.part p
    let bs := bytesOfNat 8 (256 * r.cause + r.unit) ++ bytesOfNat 8 r.thread ++ bytesOfNat 8 r.task ++ bytesOfNat 8 r.pc.toNat ++
      bytesOfNat 8 r.token.toNat ++ bytesOfNat 8 r.counts ++ bytesOfNat 8 q.time.toNat ++ bytesOfNat 8 r.opA.toNat ++
      bytesOfNat 8 r.opB.toNat ++ List.replicate 56 0
    ((c.areaPut p (0x5000 + 128 * (q.stopCount.toNat % 1024)) bs).modPart p fun q => { q with stopCount := q.stopCount + 1 }).areaHeader p

/-- COUNTS of a stop record: of the current attempt. -/
def OpBody.counts : OpBody → Nat
  | .mmul _ (some a) => min 65535 a.counts.can * 2 ^ 32 + min 65535 a.counts.sat * 2 ^ 16 + min 65535 a.counts.unf
  | _ => 0

/-- The stop record of a fatal trap record: UNIT 0 with the trap's cause (R314). -/
def Chip.trapStop (c : Chip) (t : Nat) (r : TrapRec) : StopRec :=
  { cause := r.cause.code, unit := 0, thread := c.tid t, task := (c.thread t).task, pc := r.pc, token := r.token,
    counts := (r.op.map fun o => o.body.counts).getD 0, opA := r.opA, opB := r.opB }

/-! ### Units in flight (R306, R313, R314) -/

/-- The UNIT field of an operation: 1 matrix, 2 copy, 3 tile request, 4 vector pipe, 0 the thread's own. -/
def OpBody.unit : OpBody → Nat
  | .mldb .. | .mmul .. | .mx _ => 1
  | .copy _ => 2
  | .tile _ | .tileLocal _ | .tileVec _ | .tileMem .. | .gather .. | .tspace .. => 3
  | .vec .. | .vget .. | .vput .. => 4
  | _ => 0

/-- The unit moves bytes on its own after its command was issued, so it may miss its stop point (R315). (DESIGN CHOICE, log 4)
(DESIGN CHOICE, log 28) -/
def OpBody.mayHang : OpBody → Bool
  | .mldb .. | .mmul .. | .mx _ | .copy _ | .gather .. | .tileMem .. => true
  | _ => false

/-- The stop record of a command. -/
def Chip.opStop (c : Chip) (o : Op) (cause : Nat) : StopRec :=
  { cause := cause, unit := o.body.unit, thread := c.tid o.tid, task := o.task, pc := o.pc, token := o.body.token,
    counts := o.body.counts, opA := o.opA, opB := o.opB }

/-! ### The end of a graph (R119, R261, R313 to R315, R372) -/

/-- A graph is to end with this cause, unless it is ending; the cause is fatal but where a handler's answer ends the graph (R302,
R309, R311). (DESIGN CHOICE, log 28) -/
def Chip.requestEnd (c : Chip) (p gid : Nat) (cause : Cause) (fatal : Bool := true) : Chip :=
  c.modGraph p gid fun g => { g with ended := g.ended.or (some cause), fatal := g.fatal || (g.ended.isNone && fatal) }

/-- Dependants that have not been released are refused, and those that wait on them in turn (R261). The stop record of such a
write, if it is dropped, names the dependant's graph, not 0 as for a refused record (R265; DESIGN CHOICE, log 82). (DEDUCED, log 27) -/
def Chip.refuseAfter (c : Chip) (p gid : Nat) (cause : Cause) : Nat → Chip
  | 0 => c
  | n + 1 =>
    (c.graphs.filter fun d => d.part == p && d.pred == some gid && !d.released && !d.refused).foldl (fun c d =>
      let c := c.modGraph p d.id fun g => { g with refused := true, ended := some cause }
      let gone := c.records.filter fun r => r.part == p && r.graph == d.id
      let c := { c with
        gangs := c.gangs.filter fun g => !gone.any fun (r : Record) => r.pool == Pool.gang g.id
        records := c.records.filter fun r => !(r.part == p && r.graph == d.id) }
      (c.oweStatus d 4 cause.code).refuseAfter p d.id cause n) c

/-- An operation of an ended graph stops: its counter falls and it writes its stop record, unless its unit hangs, which is
not known here (R315; log 4). (DESIGN CHOICE, log 28) -/
def Chip.stopOp (c : Chip) (o : Op) (cause : Nat) : Chip :=
  let c := (c.dropOp o.id).decrement (coreOf o.tid) o.cc
  if o.body.mayHang && Config.coin c.draws then { c with hung := c.hung ++ [o], draws := c.draws + 1 }
  else
    let c := { c with draws := c.draws + 1 }
    if o.eng || o.body.unit == 4 then c.putStop o.part (c.opStop o cause) else c

/-- A write of the operation is out at a peer, which may still perform it (R361, R383). (DESIGN CHOICE, log 28) -/
def Op.writeOut (o : Op) : Bool := o.asked && match o.body with
  | .store .. | .atomic .. | .vput .. => true
  | .copy _ => o.moving.isNone
  | _ => false

/-- An operation whose thread is gone while a write of it is out at a peer: it ends with that write's answer and leaves no result
(R313, R383). (DESIGN CHOICE, log 28) -/
def Op.lastWrite (o : Op) : Op :=
  if o.writeOut then { o with
    push := false, named := none
    body := match o.body with
      | .vput w sp lanes data done => .vput w sp (lanes.take 1) data done
      | b => b }
  else o

/-- Stores already issued are performed; what cannot be performed yet stays in flight (R313). (DESIGN CHOICE, log 28) -/
def Chip.lastStore (c : Chip) (o : Op) : Chip :=
  match o.body with
  | .store va bs => if o.fault.isSome then c.dropOp o.id else c.doStore o va bs
  | .lstore p bs => (c.doLocalStore o p bs).dropOp o.id
  | _ => c

/-- The operation is a store of a scalar. -/
def OpBody.isStore : OpBody → Bool
  | .store .. | .lstore .. => true
  | _ => false

/-- A trap's record takes the contents of its sources as they are then (R303, R305). -/
def Thread.read (t : Thread) (r : TrapRec) : TrapRec :=
  { r with opA := (r.srcs.1.map t.src).getD r.opA, opB := (r.srcs.2.map t.src).getD r.opB }

/-- A thread of an ended graph stops and writes its stop record. (DESIGN CHOICE, log 28) -/
def Chip.stopThread (c : Chip) (t : Nat) (cause : Nat) : Chip :=
  let th := c.thread t
  let trap := (th.posted.or th.owed.head?).map th.read
  let r : StopRec := { cause := cause, unit := 0, thread := c.tid t, task := th.task, pc := th.pc,
                       opA := (trap.map TrapRec.opA).getD 0, opB := (trap.map TrapRec.opB).getD 0 }
  let c := (c.putStop th.part r).dropSave th.part th.park
  let c := match th.pureTask with
    | some p => c.dropHeld p
    | none => c
  c.vacate t

/-- Records of an ended graph are discarded, with saved tasks and gang reservations (R261). -/
def Chip.dropRecords (c : Chip) (p gid : Nat) : Chip :=
  let gone := c.records.filter fun r => r.part == p && r.graph == gid
  let saves := gone.filterMap Record.saved
  let c := { c with gangs := c.gangs.filter fun g => !(g.running == 0 && gone.any fun r => r.pool == Pool.gang g.id) }
  let c := gone.foldl (fun c r => (match r.pureTask with
    | some q => c.dropHeld q
    | none => c).dropRecord r.id) c
  if saves.isEmpty then c
  else (c.modPart p fun q => { q with saves := q.saves.filter fun e => !saves.contains e.1 }).areaHeader p

/-- An engine that stands within a unit of bytes. -/
def Op.inUnit (o : Op) : Bool := o.moving.isSome && o.body.mayHang

/-- A unit of the graph has not stopped: it hangs, or it is on its way to its stop point. -/
def Chip.hangs (c : Chip) (p gid : Nat) : Bool :=
  (c.hung.any fun o => o.part == p && o.task / 65536 == gid) ||
  c.ops.any fun o => o.part == p && o.task / 65536 == gid && o.inUnit && !c.owned o

/-- The graph is over once no unit hangs (R264). (DESIGN CHOICE, log 28) -/
def Chip.endOver (c : Chip) (p gid : Nat) : Chip :=
  match c.graph? p gid with
  | some g =>
    if c.hangs p gid then c
    else ((c.closeGraph g 3 ((g.ended.map Cause.code).getD 0)).refuseAfter p gid (g.ended.getD .watchdog) c.graphs.length).fill p 0
  | none => c

/-- The graph ends: every task, command, record and request of it (R261); an engine stops at the end of the unit it moves (R313,
R372), and cores take what fits the room that its tasks leave (R254). (DESIGN CHOICE, log 28) -/
def Chip.endGraph (c : Chip) (p gid : Nat) (cause : Cause) : Chip :=
  let c := c.requestEnd p gid cause
  let c := { c with ops := c.ops.map fun (o : Op) => if o.part = p ∧ o.task / 65536 = gid then o.lastWrite else o }
  let mine := fun (o : Op) => o.part == p && o.task / 65536 == gid && !o.body.isStore && !o.inUnit && !o.writeOut
  let c := (c.ops.filter mine).foldl (fun c o => c.stopOp o cause.code) c
  let c := (c.ops.filter fun o => o.part == p && o.task / 65536 == gid).foldl Chip.lastStore c
  let moving := fun (r : Req) => (c.op? r.id).any Op.inUnit
  let c := (c.reqs.filter fun r => r.part == p && r.graph == gid && r.graph != 0 && !moving r).foldl Chip.leaveReq c
  let ts := (c.threads.filter fun e => e.2.live && e.2.part == p && e.2.graph == gid && e.2.handling.isNone).map (·.1)
  let c := ts.foldl (fun c t => c.stopThread t cause.code) c
  (((c.dropRecords p gid).refuseAfter p gid cause c.graphs.length).endOver p gid).fill p 0

/-- An engine of an ended graph that stands between units stops there (R313, R372). (DESIGN CHOICE, log 28) -/
def Chip.unitOver (c : Chip) (id : Nat) : Chip :=
  match c.op? id with
  | some o =>
    if o.inUnit || o.writeOut || c.owned o then c
    else if o.task / 65536 = 0 then (c.dropOp o.id).decrement (coreOf o.tid) o.cc
    else
      let gid := o.task / 65536
      let cause := ((c.graph? o.part gid).bind Graph.ended).getD .watchdog
      let c := c.stopOp o cause.code
      let c := match c.req? id with
        | some r => c.leaveReq r
        | none => c
      c.endOver o.part gid
  | none => c

/-- A number for a graph: its partition and its id. -/
def graphKey (p gid : Nat) : Nat := p * 2 ^ 32 + gid

/-! ### Delivery and posting (R23, R303 to R305, R311) -/

/-- The first trap that thread t owes may be delivered: the thread stands at it or at the end of its group, whatever wait the
group's last instruction has begun, and every other result has returned (R23, R303). (DESIGN CHOICE, log 92) -/
def Chip.deliverable (c : Chip) (t : Nat) : Option TrapRec :=
  let th := c.thread t
  let parked := match th.park with
    | .drain | .saving _ _ _ false => true
    | .saving .. | .trapped | .gone _ | .counterFull _ | .copyQueue _ | .fetch _ => false
    | _ => th.stopped || th.marker
  if th.live && th.posted.isNone && th.again.isNone && parked && !c.outstanding t then th.owed.head?.map th.read else none

/-- The words of a trap record (R305). -/
def Chip.recordWords (c : Chip) (t : Nat) (r : TrapRec) : List Word :=
  let th := c.thread t
  [BitVec.ofNat 64 (c.tid t * 2 ^ 32 + r.code * 2 ^ 9 + (if r.eng then 256 else 0) + r.cause.code), BitVec.ofNat 64 th.task, r.pc,
    BitVec.ofNat 64 ((c.part th.part).trapSeq.toNat * 2 ^ 32 + r.insn.toNat), r.opA, r.opB, r.addr, r.token]

/-- Places of the trap queue in use: waiting records and the one being handled. -/
def Chip.queueUsed (c : Chip) (p : Nat) : Nat := (c.part p).trapQueue.length + if (c.part p).hearthBusy.isSome then 1 else 0

/-- A record joins the trap queue of partition p of this package (R308, R317). -/
def Chip.queueTrap (c : Chip) (p core tid : Nat) (asid : BitVec 16) (ws : List Word) : Chip :=
  let own := (ws.getD 3 0).toNat / 2 ^ 32
  let q := c.part p
  let cause := (ws.headD 0).toNat % 256
  let ws := ws.set 3 (BitVec.ofNat 64 (q.trapSeq.toNat * 2 ^ 32 + (ws.getD 3 0).toNat % 2 ^ 32))
  let c := c.areaPut p (0x1000 + 64 * (q.trapSeq.toNat % 256)) (ws.flatMap fun w => bytesOfNat 8 w.toNat)
  let c := c.modPart p fun q => { q with
    trapSeq := q.trapSeq + 1
    trapQueue := q.trapQueue ++ [{ tid := tid, seq := q.trapSeq.toNat, own := own, asid := asid, cause := cause,
                                   task := (ws.getD 1 0).toNat, core := core, words := ws }] }
  c.areaHeader p

/-- The thread parks with its record posted; the wait it stood in goes on after it. -/
def Thread.post (t : Thread) (r : TrapRec) (seq : Nat) : Thread :=
  { t with posted := some { r with seq := seq }, owed := t.owed.tail, park := .trapped, under := t.park }

/-- A thread that waits at a PPT with its pre-emption pending gives its save record back, and meets the PPT again after the trap
(R279, R303; DESIGN CHOICE, log 92). -/
def Chip.leavePpt (c : Chip) (t : Nat) : Chip :=
  let th := c.thread t
  match th.park with
  | .saving _ _ _ false => (c.dropSave th.part th.park).modThread t fun th => { th with park := .run, pc := th.pc - 4 }
  | _ => c

/-- The hearth is another package. (DEDUCED, log 54) -/
def remoteHearth (w : Word) : Bool := w.getLsbD 21

/-- The number of a thread of this package that a record names. -/
def Chip.localTid (c : Chip) (tid : Nat) : Option Nat := if tid / 8192 = c.device.toNat then some (tid % 8192) else none

/-- An answer to a record goes to its package (R307, R309). (DEDUCED, log 54) -/
def Chip.sendAnswer (c : Chip) (q : QueuedTrap) (action : Nat) (cause : Option Cause) : Chip :=
  { c with sent := c.sent ++ [.mgmt (q.tid / 8192) (.trapAnswer q.tid q.own q.task action cause)] }

/-- Thread t has an access that is not performed: it comes before the handler's (R312, R353). -/
def Chip.accessing (c : Chip) (t : Nat) : Bool := c.ops.any fun o => o.tid == t && o.body.accesses

/-- Thread t has posted this record and not been answered (R309). -/
def Chip.awaits (c : Chip) (t seq task : Nat) : Bool :=
  (c.thread t).live && (c.thread t).task == task && ((c.thread t).posted.map TrapRec.seq) == some seq

/-- A trap of the handler, or one of a supervisor thread that ends it, which no graph holds: its record goes to the stop ring and the
context is free (R254, R310). (DEDUCED, log 17) -/
def Chip.dropSupervisor (c : Chip) (t : Nat) (r : TrapRec) : Chip :=
  let p := (c.thread t).part
  let c := c.putStop p (c.trapStop t r)
  let c := { c with ops := (c.ops.filter fun (o : Op) => !(o.tid == t) || o.body.isStore || o.inUnit || o.writeOut).map fun (o : Op) =>
    if o.tid = t then { o.lastWrite with push := false, named := none } else o }
  (c.vacate t).fill p (coreOf t)

/-- What a trap of thread t ends with this cause: its graph, or a thread that no graph holds. (DEDUCED, log 17) -/
def Chip.trapEnds (c : Chip) (t : Nat) (r : TrapRec) (cause : Cause) (fatal : Bool) : Chip :=
  let th := c.thread t
  if th.graph = 0 then c.dropSupervisor t { r with cause := cause } else c.requestEnd th.part th.graph cause fatal

/-- The record being handled ends with this cause (R310, R311). (DEDUCED, log 54) -/
def Chip.failRecord (c : Chip) (q : QueuedTrap) (cause : Cause) : Chip :=
  match c.localTid q.tid with
  | none => c.sendAnswer q 2 (some cause)
  | some t =>
    match (c.thread t).posted with
    | some r => if c.awaits t q.own q.task then c.trapEnds t r cause true else c
    | none => c

/-- A trap of the handler itself fails the record that it handles (R310). (DEDUCED, log 17) -/
def Chip.handlerTrap (c : Chip) (t : Nat) (r : TrapRec) : Chip :=
  let p := (c.thread t).part
  let c := c.dropSupervisor t r
  match (c.part p).hearthBusy with
  | some q => (c.modPart p fun q => { q with hearthBusy := none }).failRecord q r.cause
  | none => c

/-- A trap of thread t is posted, or ends what it cannot be posted for (R302, R303, R307, R311); a record that goes to a peer leaves
once the thread's accesses are performed (R312, R353). (DEDUCED, log 17) -/
def Chip.postTrap (c : Chip) (t : Nat) : Chip :=
  match c.deliverable t with
  | none => c
  | some r =>
    let th := c.thread t
    let p := th.part
    let hearth := (c.part p).hearth
    let seq := (c.part p).trapSeq.toNat
    if th.handling.isSome then c.handlerTrap t r
    else if !r.cause.resumable then if th.graph = 0 then c.dropSupervisor t r else c
    else if !c.areaOk p then c.trapEnds t r r.cause true
    else if remoteHearth hearth then
      if !c.linksUp (fld hearth 0 12) then c.trapEnds t r .linkLost true
      else if c.accessing t then c
      else
        let m := Sent.mgmt (fld hearth 0 12) (.trapRecord (fld hearth 12 9) th.asid (c.recordWords t r))
        let c := Chip.areaHeader { (c.modPart p fun q => { q with trapSeq := q.trapSeq + 1 }) with sent := c.sent ++ [m] } p
        (c.leavePpt t).modThread t fun th => th.post r seq
    else if 256 ≤ c.queueUsed p then c
    else ((c.queueTrap p (coreOf (c.supervisor p)) (c.tid t) th.asid (c.recordWords t r)).leavePpt t).modThread t fun th => th.post r seq

/-! ### The hearth (R308 to R312) -/

/-- The handler's thread: the state of R31 with three registers (R308). -/
def Chip.handler (c : Chip) (p : Nat) (q : QueuedTrap) : Thread := { Thread.empty with
  live := true, part := p, level := .sup, asid := q.asid, pc := (c.part p).trapvec,
  named := startNamed [c.areaVa p (0x1000 + 64 * (q.seq % 256)), BitVec.ofNat 64 q.seq, BitVec.ofNat 64 q.cause],
  readySince := c.tick, placedAt := c.tick, handling := some q.tid }

/-- The stop record that a trap record is copied to (R311, R314). -/
def QueuedTrap.stop (q : QueuedTrap) : StopRec :=
  { cause := q.cause, unit := 0, thread := q.tid, task := q.task, pc := q.words.getD 2 0, token := q.words.getD 7 0,
    opA := q.words.getD 4 0, opB := q.words.getD 5 0 }

/-- The resumable cause of a code. -/
def causeOf (code : Nat) : Cause := ([Cause.align, .wonce, .precision].find? fun x => x.code == code).getD .trapInstr

/-- The hearth takes the next record, if it is handling none: on the supervisor's context, or for a peer's record on context 15 of
the core it names (R307, R308, R311), once its record is written and the accesses of the trapping thread are performed (R312, R353). -/
def Chip.startHandler (c : Chip) (p : Nat) : Chip :=
  match (c.part p).trapQueue with
  | [] => c
  | q :: rest =>
    let t := 16 * q.core + 15
    if (c.part p).hearthBusy.isSome || (c.thread t).live || c.unitWork.any (fun x => x.part == p) || (c.localTid q.tid).any (fun v => c.awaits v q.own q.task && c.accessing v) then c
    else
      let c := c.modPart p fun x => { x with trapQueue := rest }
      if (c.part p).trapvec = 0 then (c.putStop p q.stop).failRecord q (causeOf q.cause)
      else
        ((c.modPart p fun x => { x with hearthBusy := some q }).releaseWide.acquire (coreOf t) .domain).modThread t fun _ => c.handler p q

/-- The thread goes on after a trap at issue: as if it had pushed 0 (R309). -/
def Thread.resumeIssue (t : Thread) (r : TrapRec) : Thread :=
  let t := if r.pushes then { t with queue := (({ id := r.id, val := some 0 } : QSlot) :: t.queue).take 16 } else t
  let t := match r.named with
    | some i => t.setNamed i 0
    | none => t
  { t with
    pc := r.pc + 4
    pushes := if r.ends then 0 else t.pushes + if r.pushes then 1 else 0
    written := if r.ends then 0 else match r.named with
      | some i => t.written ||| BitVec.twoPow 16 i
      | none => t.written
    vpend := if r.ends then 0 else t.vpend
    marker := r.ends }

/-- The scalar source that a VGATH or VSCAT in the pipe reads again when ALIGN is answered with retry (R228, R309). -/
def OpBody.base : OpBody → Option Src
  | .vec (.vgath _ _ _ x ..) _ _ | .vec (.vscat _ _ _ x ..) _ _ => some x
  | _ => none

/-- A cpyd.loc that issues again reads its sources and registers again (R309): its new command, or the check it fails.
(DEDUCED, log 35) -/
def Chip.copyAgain (c : Chip) (o : Op) (cmd : CopyCmd) : Except (Cause × Word) Op :=
  match decodeWord o.insn with
  | .ok (.cpydLoc _ a b _ _) =>
    let c := { c with cur := o.tid }
    let t := c.thread o.tid
    let w := c.src b
    match c.copyCheck { queue := true, target := true } [c.src a, w.extractLsb' 0 32 |>.setWidth 64] w with
    | some e => .error e
    | none =>
      let g := t.geo true
      match t.localRows (c.src a) g g.sstride with
      | none => .error (.align, c.src a)
      | some ra => .ok { o with
          opA := c.src a, opB := w, ranges := rowRanges ra g.rowBytes false
          body := .copy (newCopy g (.loc ra) (.far (fld w 36 9) (fld w 32 4) (fld w 0 32)) c.copyQueue) }
  | _ => .ok { o with body := .copy { cmd with arrived := none } }

/-- The command of a refused operation starts over: a WONCE command is registered afresh, an MMUL restarts from its floor (its
command has been taken again under the registers the thread holds), a hit looks its key up again (R182, R309). (DEDUCED, log 35) -/
def Op.again (o : Op) (t : Thread) : Op :=
  { o with
    fault := none, asked := false, replies := [], ready := false, held := []
    opA := match o.body.base with
      | some x => t.src x
      | none => o.opA
    body := match o.body with
      | .vec i x rm => .vec i ((o.body.base.map t.src).getD x) rm
      | .mmul m _ => .mmul m none
      | .spawnp s => .spawnp { s with hit := false, hits := [], failed := none }
      | .vget v w sp _ _ => .vget v w sp [] []
      | b => b }

/-- The request of a refused command as it was issued. (DEDUCED, log 35) -/
def Req.again (r : Req) : Req :=
  match r.body with
  | .aliasOf _ u =>
    let g := handleOf r.header r.space r.index r.version
    let h := r.target
    { r with space := hSpace h, index := hIndex h, version := hVersion h, header := hHeader h, body := .talias h u, target := g,
             phase := .travelling, counted := false, sentTo := none }
  | _ => { r with phase := .travelling, counted := false, sentTo := none }

/-- A wait for operations by other numbers. -/
def Park.renumber (f : Nat → Nat) : Park → Park
  | .ops ids => .ops (ids.map f)
  | .fence full s ids => .fence full s (ids.map f)
  | .forked ids => .forked (ids.map f)
  | .gone ids => .gone (ids.map f)
  | .product id => .product (f id)
  | p => p

/-- Operation `old` takes the next number, wherever one waits for it or for its result: it is issued again, after all that the core has
issued (R171, R309). (DEDUCED, log 35) -/
def Chip.renumber (c : Chip) (old : Nat) : Chip :=
  let f := fun i => if i = old then c.nextId else i
  { c with
    nextId := c.nextId + 1
    fulls := c.fulls.map fun x => { x with ids := x.ids.map f }
    records := c.records.map fun r => { r with waits := r.waits.map f }
    threads := c.threads.map fun e => (e.1, { e.2 with
      queue := e.2.queue.map fun s => { s with id := f s.id }
      park := e.2.park.renumber f, under := e.2.under.renumber f
      holds := e.2.holds.map fun h => { h with ids := h.ids.map f } }) }

/-- Operation o back in flight, in its place. -/
def Chip.putOp (c : Chip) (o : Op) : Chip :=
  { c with ops := (c.ops.filter fun q => decide (q.id < o.id)) ++ [o] ++ c.ops.filter fun q => decide (o.id < q.id) }

/-- A command that issues again fails a check of its issue: it has not counted on its counter. (DEDUCED, log 35) -/
def Chip.refuseAgain (c : Chip) (o : Op) (cause : Cause) (va : Word) : Chip :=
  (c.refuse { o with cc := none } cause va 0).modThread o.tid fun t => { t with
    owed := t.owed.map fun r => if r.id = o.id then { r with op := some o } else r }

/-- A command that issues again is held: its counter stands at 255, or its queue is full (R39, R370). (DEDUCED, log 35) -/
def Chip.heldAgain (c : Chip) (o : Op) : Bool :=
  (o.cc.any fun n => (c.core (coreOf o.tid)).cc[n] == 255) || match o.body with
    | .copy cmd => c.queueFull cmd
    | _ => false

/-- A command put back in flight counts on its counter, and a queue accepts it (R39, R370). (DEDUCED, log 35) -/
def Chip.backInFlight (c : Chip) (o : Op) : Chip :=
  let k := coreOf o.tid
  let c := match o.body with
    | .copy cmd => c.putOp { o with body := .copy { cmd with order := o.id + 1 } }
    | _ => c.putOp o
  match o.cc with
  | some n => c.setCounter k n ((c.core k).cc[n] + 1)
  | none => c

/-- The refused command of thread t issues again, after all that the core has issued (R171, R309), or is held as at its first issue, and
the thread with it (R39, R370).
(DEDUCED, log 35) -/
def Chip.reissue (c : Chip) (t : Nat) (r : TrapRec) : Chip :=
  match r.op with
  | none => c
  | some o =>
    let next := match o.body with
      | .copy cmd => c.copyAgain o cmd
      | .mmul .. => c.mulAgain o
      | _ => .ok o
    match next with
    | .error (cause, va) => (c.modThread t fun th => { th with again := none }).refuseAgain o cause va
    | .ok o =>
      if c.heldAgain o then c.modThread t fun th => { th with again := some r }
      else
        let id := c.nextId
        let c := ((c.modThread t fun th => { th with again := none }).renumber o.id).backInFlight
          { o.again (c.thread t) with id := id, first := some (o.first.getD o.id) }
        match r.req with
        | some q => if q.id = o.id then { c with reqs := c.reqs ++ [{ q.again with id := id, origin := .op id }] } else c
        | none => c

/-- A command that is held as it issues again is met once more. -/
def Chip.retryAgain (c : Chip) (t : Nat) : Chip :=
  match (c.thread t).again with
  | some r => c.reissue t r
  | none => c

/-- The wait of the group's last instruction goes on after its traps; one that is over, or whose instruction issues again, does
not. -/
def Chip.waitAgain (c : Chip) (t : Nat) (p : Park) : Park :=
  match p with
  | .counter k n => if (c.core (coreOf t)).cc[k].toNat < n then .run else p
  | .product i => if (c.op? i).isSome then p else .run
  | .ops _ | .fence .. | .forked _ | .yielded _ | .sleep _ => p
  | _ => .run

/-- The answer to the record that thread t has posted (R309): the next trap it owes may follow, and a later trap at issue keeps it
stopped (R304). (DEDUCED, log 35) -/
def Chip.answerTrap (c : Chip) (t action : Nat) : Chip :=
  let th := c.thread t
  match th.posted with
  | none => c
  | some r =>
    if action ≥ 2 then c.trapEnds t r r.cause false
    else
      let c := (c.modThread t fun th => { th with
        posted := none, park := c.waitAgain t th.under, under := .run, stopped := th.owed.any fun x => x.op.isNone }).releaseWide.acquire (coreOf t) .domain
      match r.op with
      | none => if action = 0 then c.modThread t fun th => th.resumeIssue r else c
      | some o =>
        if action = 0 then
          let c := c.modThread t fun th => th.receive r.id r.named 0 0
          match o.body with
          | .spawnp s => c.taskQuit o.part (o.task / 65536) (s.taskId % 65536)
          | _ => c
        else c.reissue t r

/-- TRET's action on the record being handled; the handler's context is free for what fits there (R254, R309). -/
def Chip.endHandler (c : Chip) (t action : Nat) : Chip :=
  let p := (c.thread t).part
  let c := c.vacate t
  Chip.fill (match (c.part p).hearthBusy with
    | none => c
    | some q =>
      let c := c.modPart p fun x => { x with hearthBusy := none }
      match c.localTid q.tid with
      | some v => if c.awaits v q.own q.task then c.answerTrap v action else c
      | none => c.sendAnswer q action none) p (coreOf t)

/-- The operations of the current thread in flight. -/
def Chip.flying (c : Chip) : Bool := c.ops.any fun o => o.tid == c.cur

/-- TRET (R309, R312, R334): the handler's accesses are performed first. -/
def execTret (sw : Bool) (a : Src) (s : State) :=
  s.issue fun c => c.issue { sw := sw, pair := [a], level := .sup } fun c =>
    let t := c.thread c.cur
    if t.handling.isNone then .trap .illegalOperand 0
    else if c.flying || !t.owed.isEmpty then .hold .drain
    else .left (c.endHandler c.cur (min 2 (c.src a).toNat))

/-- TRAP (R334). -/
def execTrap (sw : Bool) (code : BitVec 10) (s : State) :=
  s.issue fun c => c.raise .trapInstr code.toNat 0 0 0 false none sw

/-- NOP (R334). -/
def execNop (sw : Bool) (s : State) := s.issue fun c => c.issue { sw := sw } .done

/-- A word that is no instruction (R52): its cause, at its issue. -/
def Chip.badWord (c : Chip) (word : IWord) : Chip :=
  match decodeWord word with
  | .error .illegalEtype => c.raise .illegalOperand 0 0 0 0 false none false
  | .error _ => c.raise .illegalOpcode 0 0 0 0 false none false
  | .ok _ => c

/-! ### Steps -/

/-- COPY_UNIT, of a copy command, of a TIMP whose store is registered, or of a TEXP that is served (R128, R134, R366). -/
def execCopyUnit (id : Nat) (s : State) :=
  s.on fun c => Chip.unitOver (match c.op? id with
    | none => c
    | some o =>
      if o.fault.isSome then c
      else match o.body with
      | .copy cmd => c.copyStep o cmd
      | .gather va step bs =>
        if (c.req? id).any (fun r => r.phase == .gathering) && decide (bs.length < tbytes o.opA) then c.timpUnit o va step bs else c
      | .tileMem va step n =>
        match c.servedExtent id with
        | some x => if n < tbytes o.opA then c.texpUnit o va step n x else c
        | none => c
      | _ => c) id

/-- MMUL_START. -/
def execMmulStart (id : Nat) (s : State) :=
  s.on fun c => Chip.unitOver (match c.op? id with
    | some o => match o.body with
      | .mmul m att => c.mmulGo o m att
      | _ => c
    | none => c) id

/-- COPY_QUEUE_ADMIT: a place of the queue is free and the held CPYD issues (R370). -/
def execCopyQueueAdmit (thread : Nat) (s : State) :=
  s.on fun c => match (c.thread thread).park with
    | .copyQueue q => if c.queueLoad q < 32 then c.modThread thread fun t => { t with park := .run } else c
    | _ => c.retryAgain thread

/-- COUNTER_FULL_RELEASE (R39). -/
def execCounterFullRelease (thread : Nat) (s : State) :=
  s.on fun c => match (c.thread thread).park with
    | .counterFull k => if (c.core (coreOf thread)).cc[k] = 255 then c else c.modThread thread fun t => { t with park := .run }
    | _ => c.retryAgain thread

/-- TRAP_POST. -/
def execTrapPost (thread : Nat) (s : State) := s.on fun c => c.postTrap thread

/-- HANDLER_START. -/
def execHandlerStart (part : Nat) (s : State) := s.on fun c => c.startHandler part

/-- The fatal trap of a thread of the graph that may be delivered now, with this cause. -/
def Chip.fatalTrap (c : Chip) (p gid : Nat) (cause : Cause) : Option (Nat × TrapRec) :=
  c.threads.findSome? fun e =>
    if e.2.live && e.2.part == p && e.2.graph == gid then
      (c.deliverable e.1).bind fun r => if r.cause = cause && !r.cause.resumable then some (e.1, r) else none
    else none

/-- GRAPH_END: a fatal trap, whose record goes to the stop ring, or an end that was asked for (R261, R302). -/
def execGraphEnd (graph : Nat) (cause : Cause) (s : State) :=
  s.on fun c =>
    let p := graph / 2 ^ 32
    let gid := graph % 2 ^ 32
    match c.graph? p gid with
    | none => c
    | some g =>
      if gid = 0 || c.hangs p gid then c
      else match g.ended with
      | some x => if x = cause then c.endGraph p gid cause else c
      | none =>
        match c.fatalTrap p gid cause with
        | some (t, r) => (c.putStop p (c.trapStop t r)).endGraph p gid cause
        | none => c

/-- WATCHDOG: a unit that hangs is reset; the cause is WATCHDOG unless a fatal one was recorded before (R315).
(DESIGN CHOICE, log 28) -/
def execWatchdog (graph id : Nat) (s : State) :=
  s.on fun c =>
    let p := graph / 2 ^ 32
    let gid := graph % 2 ^ 32
    match c.hung.find? fun o => o.id == id && o.part == p && o.task / 65536 == gid with
    | none => c
    | some o =>
      let c := { c with hung := c.hung.filter fun q => q.id != id }
      let c := c.putStop p (c.opStop o Cause.watchdog.code)
      let c := c.modGraph p gid fun g => { g with ended := if g.fatal then g.ended else some .watchdog }
      c.endOver p gid

/-- NOT_AN_INSTRUCTION. -/
def execNotAnInstruction (word : IWord) (s : State) := s.issue fun c => c.badWord word

end Sys2Proof.Machine
end

