-- ==== Sys2Proof/Machine/Faults.lean ====
section
/-!
DEFINITION. Page faults, pagers and PGDONE, pre-emption, the save and the restore: R318 to R331, R298.
-/

namespace Sys2Proof.Machine

/-! ### Posting a fault (R319 to R322, R324) -/

/-- What waits for a page: an operation or a thread's own instruction. -/
structure Faulting where
  thread : Nat
  part : Nat
  task : Nat
  asid : BitVec 16
  wait : FaultWait
  pc : Word
  eng : Bool
  token : Word

/-- A fault's number: 3·id for an operation, 3·thread + 1 for a thread at its instruction, 3·id + 2 for a status write. -/
def Chip.faulting (c : Chip) (f : Nat) : Option Faulting :=
  if f % 3 = 2 then
    (c.owedStatus.find? fun x => x.id == f / 3 && x.waiting).map fun x =>
      { thread := 0, part := x.part, task := x.graph * 65536, asid := x.asid, wait := { va := x.va, write := true, fetch := false },
        pc := x.entry, eng := true, token := 0 }
  else if f % 3 = 0 then
    (c.op? (f / 3)).bind fun o => o.fault.map fun w =>
      { thread := o.tid, part := o.part, task := o.task, asid := o.asid, wait := w, pc := o.pc, eng := o.eng, token := o.body.token }
  else
    let t := c.thread (f / 3)
    match t.park with
    | .fetch w => some { thread := f / 3, part := t.part, task := t.task, asid := t.asid, wait := w, pc := t.pc, eng := false, token := 0 }
    | _ => none

/-- The record's page holds this address. -/
def FaultRec.holds (r : FaultRec) (asid : BitVec 16) (va : Word) : Bool :=
  r.asid == asid && decide (r.page.toNat ≤ va.toNat) && decide (va.toNat < r.page.toNat + r.size)

/-- A record for the page is pending: the fault joins it (R319). -/
def Chip.covered (c : Chip) (x : Faulting) : Bool := (c.part x.part).faults.any fun r => r.holds x.asid x.wait.va

/-- The address of word j of entry i of the pager table (R320). -/
def Partition.pagerVa (q : Partition) (i j : Nat) : Word := BitVec.ofNat 64 (fld q.pagertab 12 52 * 4096 + 32 * i + 8 * j)

/-- Word j of entry i of the pager table (R320; DESIGN CHOICE, log 16). -/
def Chip.pagerWord (c : Chip) (p i j : Nat) : Option Word :=
  (c.devRead .unit p (c.part p).pagerAsid .sup ((c.part p).pagerVa i j) 8).map wordOfBytes64

/-- Lines of the pager table are with the host: the homes ask for them first, and the fault waits (R390). (DESIGN CHOICE, log 40) -/
def Chip.pagerAsks (c : Chip) (p : Nat) : Option Chip :=
  let q := c.part p
  if fld q.pagertab 0 7 = 0 then none
  else c.unitAsksHost .unit p q.pagerAsid .sup .read [(q.pagerVa 0 0, 32 * fld q.pagertab 0 7)]

/-- The lowest of these entries whose range holds an address (R320). -/
def Chip.pagerFor (c : Chip) (p : Nat) (va : Word) : List Nat → Option Nat × Chip
  | [] => (none, c)
  | i :: is =>
    let c := c.devOpen .unit p (c.part p).pagerAsid .sup ((c.part p).pagerVa i 0) 32
    match c.pagerWord p i 0, c.pagerWord p i 1 with
    | some lo, some hi => if lo.toNat ≤ va.toNat ∧ va.toNat < hi.toNat then (some i, c) else c.pagerFor p va is
    | _, _ => c.pagerFor p va is

/-- Page size of a SIZE field. -/
def pageSize (w : Word) : Nat := if fld w 38 2 = 0 then 65536 else 2 ^ 29

/-- The placement of an entry. -/
def pagerPlace (w : Word) : Word := BitVec.ofNat 64 (fld w 0 31)

/-- The entry serves faults: no reserved bit, a page size and class in use, an entry address and a placement that can be met
without a gang (R321). -/
def Chip.pagerOk (c : Chip) (p : Nat) (entry w : Word) : Bool :=
  fld w 40 24 == 0 && !w.getLsbD 31 && decide (fld w 38 2 < 2) && decide (fld w 36 2 < 2) && fld entry 0 2 == 0
  && !placeBad (pagerPlace w) && pGang (pagerPlace w) == 0 && (c.placeCause p (pagerPlace w) false).isNone

/-- The fault is fatal (R321, R325). -/
def Chip.failFault (c : Chip) (f : Nat) (x : Faulting) : Chip :=
  if f % 3 = 2 then
    { c with owedStatus := c.owedStatus.map fun y => if y.id = f / 3 then { y with waiting := false, failed := true } else y }
  else if f % 3 = 0 then
    match c.op? (f / 3) with
    | some o => c.refuse o .pageFault x.wait.va x.token
    | none => c
  else
    Chip.modThread { c with nextId := c.nextId + 1 } x.thread fun t => { t with
      park := .run, stopped := true, owed := oweTrap (fetchTrap c.nextId t.pc x.wait.va .pageFault) t.owed }

/-- The bytes of a fault record (R321). (DESIGN CHOICE, log 20) -/
def faultBytes (tid : Nat) (x : Faulting) (w : Word) (ovf : Bool) (rid : Nat) (page : Word) (i : Nat) : List Byte :=
  let bit := fun (b : Bool) (n : Nat) => if b then 2 ^ n else 0
  bytesOfNat 8 (tid * 2 ^ 32 + fld w 38 2 * 2 ^ 12 + bit ovf 11 + bit x.eng 10 + bit x.wait.fetch 9 + bit x.wait.write 8 + 0x10) ++
  bytesOfNat 8 x.task ++ bytesOfNat 8 x.wait.va.toNat ++ bytesOfNat 8 x.pc.toNat ++ bytesOfNat 8 (x.asid.toNat * 2 ^ 32 + rid) ++
  bytesOfNat 8 page.toNat ++ bytesOfNat 8 i ++ bytesOfNat 8 x.token.toNat

/-- A slot of the fault buffer that is free. (DESIGN CHOICE, log 15) -/
def Partition.freeSlot (q : Partition) : Option Nat := (List.range 1024).find? fun n => !q.faults.any fun r => r.slot == n

/-- The record is put into the buffer (R321, R324). (DESIGN CHOICE, log 20) -/
def Chip.putFault (c : Chip) (x : Faulting) (i slot : Nat) (entry w : Word) : Chip :=
  let q := c.part x.part
  let rid := slot + 1024 * (q.fbPosts % 2 ^ 22)
  let size := pageSize w
  let page := BitVec.ofNat 64 (x.wait.va.toNat / size * size)
  let r : FaultRec := { rid := BitVec.ofNat 32 rid, slot := slot, thread := x.thread, task := x.task, asid := x.asid, page := page,
                        size := size, perm := fld w 32 4, mclass := fld w 36 2, pidx := i, place := pagerPlace w, entry := entry,
                        started := false, graph := 0 }
  let bs := faultBytes (c.tid x.thread) x w (q.fbOvf || q.ovfOwed) rid page i
  Chip.modPart { c with mem := c.mem.setBytes (2 ^ 54 + 65536 * x.part + 64 * slot) bs } x.part fun q =>
    { q with faults := q.faults ++ [r], fbPosts := q.fbPosts + 1, ovfOwed := false }

/-- A fault is posted, held by a full buffer, or fatal; one whose page is pending has joined already (R319, R321, R324). -/
def Chip.postFault (c : Chip) (f : Nat) (again : Bool) : Chip :=
  match c.faulting f with
  | none => c
  | some x =>
    let q := c.part x.part
    if c.covered x || (!again && q.heldFaults.contains f) then c
    else match c.pagerAsks x.part with
    | some c => c
    | none =>
      match c.pagerFor x.part x.wait.va (List.range (fld q.pagertab 0 7)) with
      | (none, c) => c.failFault f x
      | (some i, c) =>
        let entry := (c.pagerWord x.part i 2).getD 0
        let w := (c.pagerWord x.part i 3).getD 0
        if !c.pagerOk x.part entry w then c.failFault f x
        else
          match if again || q.heldFaults.isEmpty then q.freeSlot else none with
          | some slot => c.putFault x i slot entry w
          | none => if again then c else c.modPart x.part fun q => { q with
              heldFaults := q.heldFaults ++ [f], fbOvf := true, ovfOwed := true, fbheld := q.fbheld + 1 }

/-- The first fault held is posted when a slot is free (R324). -/
def Chip.repostFault (c : Chip) (p : Nat) : Chip :=
  match (c.part p).heldFaults with
  | [] => c
  | f :: rest =>
    if (c.part p).freeSlot.isNone then c
    else match c.pagerAsks p with
    | some c => c
    | none => (c.modPart p fun q => { q with heldFaults := rest }).postFault f true

/-- The pager of the first record that has none starts (R322). -/
def Chip.startPager (c : Chip) (p rid : Nat) : Chip :=
  match (c.part p).faults.find? fun r => !r.started with
  | none => c
  | some r =>
    if r.rid.toNat != rid then c
    else
      let gid := (c.part p).nextGraph.toNat
      let c := c.modPart p fun q => { q with faults := q.faults.map fun x =>
        if x.rid = r.rid then { x with started := true, graph := gid } else x }
      let f : Form := { part := p, entry := r.entry, place := r.place,
                        args := [r.rid.setWidth 64, (c.part p).fbbase + BitVec.ofNat 64 (64 * r.slot), r.page, BitVec.ofNat 64 r.pidx],
                        asid := r.asid, status := 0, pred := none, slot := none, pager := some rid,
                        home := dieOf (coreOf r.thread), blocked := false }
      c.formGraph f

/-! ### PGDONE (R323, R336) -/

/-- PGDONE at issue. -/
def execPgdone (sw : Bool) (d : Dest) (a b : Src) (s : State) :=
  s.issue fun c => c.issue { sw := sw, pair := [a, b], dest := d, push := true } fun c =>
    let x := c.src a
    let va := c.src b
    if fld x 32 31 != 0 then .trap .illegalOperand 0
    else c.impure false fun c =>
      let loc := x.getLsbD 63
      let src := if loc then (c.thread c.cur).localAddr va 65536 else none
      let rs := match src with
        | some p => [LRange.scratch p 65536 false]
        | none => []
      .done (c.start { push := true, named := d, opA := x, opB := va, ranges := rs } (.pgdone (fld x 0 32) loc src va))

/-- The supervisor's pool gives a frame that holds no extent and lies in the partition's channels (R397, R401; DESIGN CHOICE, log
18). (DESIGN CHOICE, log 18) -/
def Chip.takeFrame (c : Chip) (p cls size : Nat) : Option (Nat × Chip) :=
  ((c.part p).frames.find? fun f => f.1 == cls && f.2.2 == size && c.frameUsed f.2.1 == 0 && c.frameMay p f).map fun f =>
    (f.2.1, c.modPart p fun q => { q with frames := q.frames.filter (· != f) })

/-- The keys of n bytes of a frame of this package. -/
def frameKeys (pa n : Nat) : List Nat := (List.range n).map (pa + ·)

/-- A frame of 64 KiB is filled with zeros. -/
def Chip.zeroFrame (c : Chip) (f : Nat) : Chip :=
  let c := c.raiseCode [f]
  { c with
    mem := c.mem.clear f 65536
    poison := c.poison.filter fun l => l / 1024 != f / 65536
    cores := c.cores.map fun e => (e.1, { e.2 with
      l1 := e.2.l1.filter fun l => l / 1024 != f / 65536, stale := e.2.stale.filter fun x => x.1 / 1024 != f / 65536 }) }

/-- The entry that a new leaf, or the first table missing before it, is written to. -/
def Chip.installKey (c : Chip) (va : Word) (leaf : Nat) : List Nat → Nat → Nat
  | [], a => a
  | level :: rest, a =>
    let x := c.mem.word a
    if level = leaf || !x.getLsbD 0 || x.getLsbD 7 then a else c.installKey va leaf rest (pteFrame x + 8 * tableIndex va (level + 1))

/-- A leaf entry is written at its level; a missing table takes a frame of the pool, and holds zeros else (DESIGN CHOICE, log 18). -/
def Chip.install (c : Chip) (p : Nat) (va : Word) (leaf : Nat) (e : Word) : List Nat → Nat → Option Chip
  | [], _ => none
  | level :: rest, a =>
    if level = leaf then some (c.perform .unit (frameKeys a 8) (bytesOfNat 8 e.toNat))
    else
      let x := c.mem.word a
      if !x.getLsbD 0 then
        match c.takeFrame p 0 65536 with
        | none => none
        | some (f, c) =>
          let c := c.zeroFrame f
          (c.perform .unit (frameKeys a 8) (bytesOfNat 8 (f + 1))).install p va leaf e rest (f + 8 * tableIndex va (level + 1))
      else if x.getLsbD 7 then none
      else c.install p va leaf e rest (pteFrame x + 8 * tableIndex va (level + 1))

/-- How many tables are missing on the way to a new leaf. -/
def Chip.missing (c : Chip) (va : Word) (leaf : Nat) : List Nat → Nat → Nat
  | [], _ => 0
  | level :: rest, a =>
    let x := c.mem.word a
    if level = leaf then 0
    else if !x.getLsbD 0 then leaf - level
    else if x.getLsbD 7 then 0
    else c.missing va leaf rest (pteFrame x + 8 * tableIndex va (level + 1))

/-- The frames that the pool gives for n tables (DESIGN CHOICE, log 18). -/
def Chip.newTables (c : Chip) (p : Nat) : Nat → List Nat
  | 0 => []
  | n + 1 => match c.takeFrame p 0 65536 with
    | some (f, c) => f :: c.newTables p n
    | none => []

/-- The lines of these frames of 64 KiB that the host holds (R390), by their first bytes. -/
def Chip.heldIn (c : Chip) (fs : List Nat) : List Nat :=
  (c.hostLines.filter fun e => fs.any fun f => e.1 / 1024 == f / 65536).map fun e => 64 * e.1

/-- The leaf entry of a page supplied (R377, R320): PERM holds R, W, X and U from bit 3 to bit 0. -/
def leafEntry (frame cls perm : Nat) : Word :=
  let bit := fun (n k : Nat) => if perm / 2 ^ n % 2 = 1 then 2 ^ k else 0
  BitVec.ofNat 64 (frame + cls * 2 ^ 10 + 2 ^ 7 + bit 0 4 + bit 1 3 + bit 2 2 + bit 3 1 + 1)

/-- Operations and threads that wait for the page go on and translate afresh; the pager's accesses come before theirs (R319,
R323, R353). -/
def Chip.wakePage (c : Chip) (p : Nat) (r : FaultRec) : Chip :=
  let hit := fun (w : FaultWait) => r.holds r.asid w.va
  let cores := (c.ops.filter fun o => o.part == p && o.asid == r.asid && (o.fault.map hit).getD false).map (fun o => coreOf o.tid) ++
    (c.threads.filter fun e => match e.2.park with
      | .fetch w => e.2.part == p && e.2.asid == r.asid && hit w
      | _ => false).map fun e => coreOf e.1
  let c := cores.dedup.foldl (fun c k => c.acquire k .domain) c.releaseWide
  { c with
    owedStatus := c.owedStatus.map fun x => if x.part = p ∧ r.holds x.asid x.va then { x with waiting := false } else x
    ops := c.ops.map fun o => if o.part = p ∧ o.asid = r.asid ∧ (o.fault.map hit).getD false then { o with fault := none } else o
    threads := c.threads.map fun e => match e.2.park with
      | .fetch w => if e.2.part = p ∧ e.2.asid = r.asid ∧ hit w then (e.1, { e.2 with park := .run }) else e
      | _ => e }

/-- The page is installed: the frame takes the bytes, the entry is written, the record is complete (R323, R386).
(DESIGN CHOICE, log 18) -/
def Chip.supply (c : Chip) (o : Op) (r : FaultRec) (bs : List Byte) : Chip :=
  match Table.get? (c.part o.part).asids r.asid.toNat, c.takeFrame o.part r.mclass r.size with
  | some a, some (frame, c1) =>
    let leaf := if r.size = 65536 then 3 else 2
    let key := frameKeys (c.installKey r.page leaf [0, 1, 2, 3] (rootEntry a.root r.page)) 8
    let news := c1.newTables o.part (c.missing r.page leaf [0, 1, 2, 3] (rootEntry a.root r.page))
    let tables := c.walkHeld noCore o.part r.asid [(r.page, 1)]
    if !tables.isEmpty then c.snoop tables false
    else if c.hostHolds (frameKeys frame r.size ++ key) false then c.snoop (frameKeys frame r.size ++ key) true
    else if !(c.heldIn news).isEmpty then c.snoop (c.heldIn news) true
    else
    let c1 := (c1.walked noCore o.part r.asid [(r.page, 1)]).wakeFor o.part (key ++ ((frame :: news).flatMap fun f => (List.range (r.size / 64)).map fun i => f + 64 * i))
    let c2 := c1.perform (.engine o.tid) (frameKeys frame r.size) bs
    let c2 := { c2 with granules := c2.granules.filter fun g => !(decide (frame / 65536 ≤ g.1) && decide (g.1 < (frame + r.size) / 65536)) }
    match c2.install o.part r.page leaf (leafEntry frame r.mclass r.perm) [0, 1, 2, 3]
        (rootEntry a.root r.page) with
    | none => c.finish o 3 0
    | some c =>
      let c := (c.modPart o.part fun q => { q with faults := q.faults.filter fun x => x.rid != r.rid }).wakePage o.part r
      c.finish o 0 0
  | _, _ => c.finish o 3 0

/-- The page's bytes are read from where they stand, and the page is supplied (R323). (DESIGN CHOICE, log 18) -/
def Chip.supplyFrom (c : Chip) (o : Op) (r : FaultRec) (ps : List Piece) : Chip :=
  let keys := hereKeys ps
  if c.poisoned keys || c.portDown keys then c.finish o 2 0
  else if c.hostHolds keys true then c.snoop keys false
  else
    let c := ((c.wakeFor o.part keys).fetchHost keys).touch none keys
    c.supply o r (c.gatherPieces o ps)

/-- PGDONE completes a record (R323). (DESIGN CHOICE, log 18) -/
def Chip.doPgdone (c : Chip) (o : Op) (rid : Nat) (loc : Bool) (src : Option Nat) (va : Word) : Chip :=
  if c.heldByFork o || !c.granted (coreOf o.tid) o.id o.ranges then c
  else
    match (c.part o.part).faults.find? fun r => r.rid.toNat == rid with
    | none => c.finish o 1 0
    | some r =>
      if va.toNat % 16 != 0 || (loc && (r.size != 65536 || src.isNone)) then c.finish o 2 0
      else if (c.takeFrame o.part r.mclass r.size).isNone then c.finish o 3 0
      else
        match src with
        | some p => c.supply o r ((c.core (coreOf o.tid)).scratch.bytes p r.size)
        | none =>
          match o.moving with
          | some m => if answered o m.ps then c.supplyFrom o r m.ps else c
          | none =>
          match c.askTables o [(va, r.size)] with
          | some c => c
          | none =>
          let c := c.walked (coreOf o.tid) o.part o.asid [(va, r.size)]
          match c.runs o .read (cutRuns va r.size) with
          | .fault _ | .refuse .. => c.finish o 2 0
          | .ok ps =>
            let ms := askPieces o ps fun _ pa n => .read pa n
            if ms.isEmpty then c.supplyFrom o r ps
            else if ms.all fun m => m.dst.all c.linksUp then
              Chip.ask (c.modOp o.id fun q => { q with moving := some { wr := false, ps := ps, left := [], now := none, buf := [] } }) o va 0 ms
            else c.finish o 2 0

/-! ### Choosing a victim (R256, R281, R326, R330) -/

/-- The gang that a record waits in. -/
def Chip.gangOf (c : Chip) (r : Record) : Option Gang :=
  match r.pool with
  | .gang g => c.gangs.find? fun x => x.id == g
  | _ => none

/-- A waiting record that room would let be placed; of a gang's records, that of the member it reserves next (R256, R257).
(DEDUCED, log 25) -/
def Chip.asks (c : Chip) (r : Record) : Bool :=
  match r.pool with
  | .deque _ | .die _ => c.placeable r.part r
  | .gang g => (c.gangOf r).any fun x => c.gangMay x && (c.records.filter fun y => y.pool == .gang g)[x.reserved.length]? == some r
  | .blocked => false

/-- The core of the member that a gang reserved last. -/
def Gang.lastCore (g : Gang) : Nat := (g.reserved.getLast?.map (·.1)).getD noCore

/-- Core k has room for a waiting record, or for the next member of its gang. -/
def Chip.roomOn (c : Chip) (r : Record) (k : Nat) : Bool :=
  match c.gangOf r with
  | some g => (c.reserveNext g).any fun x => x.lastCore == k
  | none => (c.fit r.part r.place r.saved.isSome k).isSome

/-- Thread t may be a victim for a record. -/
def Chip.victimOk (c : Chip) (r : Record) (t : Nat) : Bool :=
  let th := c.thread t
  th.live && th.part == r.part && th.level == .user && th.graph != 0 && th.handling.isNone && th.pagerOf.isNone && th.gang.isNone
  && th.marked.isNone && !th.isSaving && decide (pPrio r.place < th.prio)
  && (c.vacate t).roomOn r (coreOf t)

/-- The first candidate is taken before the second: lower priority, then younger, then lower number. -/
def Chip.victimFirst (c : Chip) (t u : Nat) : Bool :=
  let x := c.thread t
  let y := c.thread u
  decide (y.prio < x.prio) || (x.prio == y.prio && (decide (y.placedAt < x.placedAt) || (x.placedAt == y.placedAt && decide (t ≤ u))))

/-- A waiting record without room asks for a pre-emption, and a victim is marked. -/
def Chip.preempt (c : Chip) (rid : Nat) : Chip :=
  match c.records.find? fun r => r.id == rid with
  | none => c
  | some r =>
    let cores := (c.partCores r.part).filter (c.eligible r.part r.place r.saved.isSome)
    if !c.asks r || c.threads.any (fun e => e.2.marked == some (rid + 1)) || cores.any (c.roomOn r)
        || c.threads.any (fun e => e.2.live && e.2.isSaving && cores.contains (coreOf e.1)) then c
    else
      let ts := (c.threads.map (·.1)).filter fun t => cores.contains (coreOf t) && c.victimOk r t
      match ts.find? fun t => ts.all fun u => c.victimFirst t u with
      | none => c
      | some t =>
        let rs := c.records.map fun x => if x.id = rid then { x with requested := true } else x
        Chip.modThread { c with records := rs } t fun th => { th with marked := some (rid + 1) }

/-! ### PPT (R278 to R281, R327) -/

/-- A range word: base and length. -/
def rangeOf (w : Word) : Nat × Nat := (fld w 0 32, fld w 32 32)

/-- The header of a live list is allowed (R280). -/
def Thread.headOk (t : Thread) (h : Word) : Bool :=
  fld h 28 36 == 0 && !h.getLsbD 8 && decide (fld h 20 8 ≤ 16) && decide (fld h 12 8 < 2 ^ t.slots.length)

/-- The ranges of a live list are allowed (R280). -/
def Thread.listOk (t : Thread) (list : List Word) : Bool :=
  list.tail.all fun w => let (b, n) := rangeOf w
    n != 0 && n % 16 == 0 && b % 16 == 0 && decide (b + n ≤ t.winSize) && decide (b < 0x80000000)

/-- A range put into rising order, with ranges that touch it merged. -/
def mergeRange (r : Nat × Nat) : List (Nat × Nat) → List (Nat × Nat)
  | [] => [r]
  | x :: xs =>
    if r.1 + r.2 < x.1 then r :: x :: xs
    else if x.1 + x.2 < r.1 then x :: mergeRange r xs
    else mergeRange (min r.1 x.1, max (r.1 + r.2) (x.1 + x.2) - min r.1 x.1) xs

/-- The union of the listed ranges as merged ranges in ascending address. -/
def unionRanges (list : List Word) : List (Nat × Nat) := (list.tail.map rangeOf).foldl (fun rs r => mergeRange r rs) []

/-- Indices below n whose bit stands in a field of the header. -/
def listed (h : Word) (lo n : Nat) : List Nat := (List.range n).filter fun i => h.getLsbD (lo + i)

/-- Bytes of a save record (R328). -/
def saveSize (list : List Word) : Nat :=
  let h := list.headD 0
  let n := 0x200 + 256 * (listed h 0 8).length + 16384 * (listed h 12 8).length + ((unionRanges list).map fun r => 16 + r.2).sum
  (n + 255) / 256 * 256

/-- A place for a record in the pool: the lowest that is free (DESIGN CHOICE, log 15). -/
def Chip.poolPlace (c : Chip) (p size : Nat) : Option Nat :=
  let saves := (c.part p).saves.map (·.2)
  if !c.areaOk p then none
  else ((0 :: saves.map fun s => s.offset + s.size).filter fun b => decide (b + size ≤ c.poolSize p)
    && saves.all fun s => decide (s.offset + s.size ≤ b) || decide (b + size ≤ s.offset)).min?

/-- A start of a PREEMPT slot waits for the graph of thread t, its youngest instance, to be pre-empted (R268). (DEDUCED, log 52) -/
def Chip.slotWants (c : Chip) (t : Nat) : Bool :=
  let th := c.thread t
  (c.part th.part).tslots.any (fun e => e.2.policy == 2 && e.2.pending.isSome && e.2.running.head? == some th.graph)
  && !c.threads.any fun e => e.2.live && e.2.part == th.part && e.2.graph == th.graph && e.2.marked == some 0

/-- PPT takes effect, or has none: a pending pre-emption takes a save record from the pool at once, and the save begins when R279's
waits are met (R279, R327). -/
def Chip.pptTakes (c : Chip) (mask : BitVec 15) (list : List Word) : Eff :=
  let t := c.thread c.cur
  if (t.marked.isNone && !c.slotWants c.cur) || t.gang.isSome || t.handling.isSome then .done c
  else
    match c.poolPlace t.part (saveSize list) with
    | none => .done c
    | some off =>
      let n := c.nextId
      let c := { (c.modPart t.part fun q => { q with saves := Table.put q.saves n { offset := off, size := saveSize list } }) with nextId := n + 1 }
      .done ((c.areaHeader t.part).modThread c.cur fun t => { t with park := .saving mask list n false, marked := t.marked.or (some 0) })

/-- PPT (R278, R279): the live list is read and checked every time, its header before its ranges are read. -/
def execPpt (sw : Bool) (a : Src) (mask : BitVec 15) (s : State) :=
  s.issue fun c => c.issue { sw := sw, pair := [a] } fun c =>
    if a = .n 0 then c.pptTakes mask []
    else
      c.withRecord (c.src a) 8 8 fun c p =>
        let h := c.scratchWord p
        if !(c.thread c.cur).headOk h then .trap .illegalOperand 0
        else c.withRecord (c.src a) (8 + 8 * fld h 20 8) 8 fun c p =>
          let list := (List.range (1 + fld h 20 8)).map fun i => c.scratchWord (p + 8 * i)
          if (c.thread c.cur).listOk list then c.pptTakes mask list else .trap .illegalOperand 0

/-! ### The save and the restore (R298, R327 to R331) -/

/-- The bytes of a save record (R328). -/
def Chip.saveBytes (c : Chip) (t : Nat) (mask : BitVec 15) (list : List Word) : List Byte :=
  let th := c.thread t
  let q := c.core (coreOf t)
  let h := list.headD 0
  let word := fun (w : Word) => bytesOfNat 8 w.toNat
  let tags := ((List.range th.slots.length).map fun i => if q.wide.contains (th.slots.getD i 0) then 2 ^ i else 0).sum
  let head := bytesOfNat 8 (saveSize list) ++ bytesOfNat 8 th.task ++ word th.place ++ word th.pc ++ bytesOfNat 8 mask.toNat ++ word h ++
    (List.range 15).flatMap (fun k => word (if mask.getLsbD k then th.named.toList.getD (k + 1) 0 else 0)) ++
    [th.geom, th.amode, th.ladder, th.budget, th.alpha, th.sparse, th.cpShape, th.cpSstride, th.cpDstride, th.cpFlag, th.cpFlagadd,
      th.cpQueue].flatMap word ++ bytesOfNat 8 th.fflags.toNat ++ bytesOfNat 8 th.vrm.toNat ++ bytesOfNat 24 th.vflags.toNat ++
    bytesOfNat 8 (tags + 256 * th.slots.length) ++
    (List.range 3).flatMap (fun i => bytesOfNat 32 (if h.getLsbD (9 + i) then (th.pred.toList.getD (i + 1) 0).toNat else 0)) ++
    List.replicate 104 0
  let vecs := (listed h 0 8).flatMap fun i => bytesOfNat 256 (th.vec.toList.getD i 0).toNat
  let accs := (listed h 12 8).flatMap fun i => q.acc.bytes (16384 * th.slots.getD i 0) 16384
  let wins := (unionRanges list).flatMap fun r =>
    bytesOfNat 8 (r.2 * 2 ^ 32 + r.1) ++ bytesOfNat 8 0 ++ q.scratch.bytes (th.winBase + r.1) r.2
  let all := head ++ vecs ++ accs ++ wins
  all ++ List.replicate (saveSize list - all.length) 0

/-- The save engine writes the record, once no result of the thread is outstanding and nothing of it in flight (R279, R327), and the host
has given its lines back (R390). It is an agent of the thread's core (R346). -/
def Chip.saveWrite (c : Chip) (t : Nat) : Chip :=
  let th := c.thread t
  match th.park with
  | .saving mask list n false =>
    match Table.get? (c.part th.part).saves n with
    | none => c
    | some s =>
      if c.ops.any (fun o => o.tid == t) || !th.owed.isEmpty then c
      else
        let bs := c.saveBytes t mask list
        let asid := (c.part th.part).areaAsid
        let va := c.areaVa th.part (0x30000 + s.offset)
        match c.unitAsksHost (.engine t) th.part asid .sup .write (cutRuns va bs.length) with
        | some c => c
        | none =>
          let c := match c.devWrite (.engine t) th.part asid .sup va bs with
            | .ok c => c
            | .error _ => c
          c.modThread t fun th => { th with park := .saving mask list n true }
  | _ => c

/-- The saved task as a record of its priority, at the head of its die's pool (R329). -/
def Thread.savedRecord (t : Thread) (id k save : Nat) : Record :=
  { id := id, part := t.part, graph := t.graph, index := t.index, place := t.place, entry := t.pc, args := [],
    modes := .initial, asid := t.asid, pool := .die (dieOf k), block := [], pureTask := t.pureTask, pagerOf := none, saved := some save,
    requested := false, home := dieOf k, waits := [] }

/-- The bytes of a save record make the thread again (R279, R328), at the start of a group (DESIGN CHOICE, log 93). (DEDUCED, log 37) -/
def restoreThread (t : Thread) (bs : List Byte) : Thread :=
  let w := fun (off : Nat) => wordOfBytes64 ((bs.drop off).take 8)
  let n := fun (off len : Nat) => natOfBytes ((bs.drop off).take len)
  let h := w 0x28
  let vs := listed h 0 8
  { t with
    pc := w 0x18
    named := Vector.ofFn fun i => if i.val = 0 then 0 else w (0x30 + 8 * (i.val - 1))
    geom := w 0xA8, amode := w 0xB0, ladder := w 0xB8, budget := w 0xC0, alpha := w 0xC8, sparse := w 0xD0
    cpShape := w 0xD8, cpSstride := w 0xE0, cpDstride := w 0xE8, cpFlag := w 0xF0, cpFlagadd := w 0xF8, cpQueue := w 0x100
    fflags := BitVec.ofNat 8 (n 0x108 8), vrm := BitVec.ofNat 3 (n 0x110 8), vflags := BitVec.ofNat 160 (n 0x118 20)
    pred := Vector.ofFn fun i => if i.val = 0 then 0 else BitVec.ofNat 256 (n (0x138 + 32 * (i.val - 1)) 32)
    vec := Vector.ofFn fun i => match vs.idxOf? i.val with
      | some k => BitVec.ofNat 2048 (n (0x200 + 256 * k) 256)
      | none => 0
    marker := true }

/-- Window bytes of a save record, from its first descriptor. -/
def restoreRanges (m : Memory) (win : Nat) : Nat → List Byte → Memory
  | 0, _ => m
  | fuel + 1, bs =>
    let len := natOfBytes ((bs.drop 4).take 4)
    if len = 0 then m
    else restoreRanges (m.setBytes (win + natOfBytes (bs.take 4)) ((bs.drop 16).take len)) win fuel (bs.drop (16 + len))

/-- Slots and window bytes of a save record go to the new core. (DEDUCED, log 37) -/
def Core.restore (q : Core) (room : Room) (bs : List Byte) : Core :=
  let h := wordOfBytes64 ((bs.drop 0x28).take 8)
  let as := listed h 12 8
  let off := 0x200 + 256 * (listed h 0 8).length
  let tags := natOfBytes ((bs.drop 0x130).take 1)
  { q with
    acc := as.zipIdx.foldl (fun acc (i, k) => acc.setBytes (16384 * room.slots.getD i 0) ((bs.drop (off + 16384 * k)).take 16384)) q.acc
    wide := (room.slots.zipIdx.filter fun (_, i) => tags / 2 ^ i % 2 == 1).map (·.1) ++ q.wide
    scratch := restoreRanges q.scratch room.win 16 (bs.drop (off + 16384 * as.length)) }

/-- A saved task is read into a context of core k, and its record's space goes back to the pool (R298, R329); it waits while the host
holds lines of the record (R390; DESIGN CHOICE, log 40). (DEDUCED, log 37) -/
def Chip.restoreInto (c : Chip) (r : Record) (n k : Nat) (room : Room) : Chip :=
  match Table.get? (c.part r.part).saves n with
  | none => c
  | some s =>
    let a : Agent := .engine (16 * k + room.ctx)
    let asid := (c.part r.part).areaAsid
    let va := c.areaVa r.part (0x30000 + s.offset)
    match c.unitAsksHost a r.part asid .sup .read (cutRuns va s.size) with
    | some c => c
    | none =>
    let c := c.devOpen a r.part asid .sup va s.size
    match c.devRead a r.part asid .sup va s.size with
    | none =>
      let c := match r.pureTask with
        | some p => c.dropHeld p
        | none => c
      (((c.dropRecord r.id).modPart r.part fun q => { q with saves := Table.erase q.saves n }).areaHeader r.part).requestEnd
        r.part r.graph .memUncorrectable
    | some bs =>
      let c := c.begin r k room fun t => restoreThread t bs
      let c := c.modCore k fun q => q.restore room bs
      (c.modPart r.part fun q => { q with saves := Table.erase q.saves n }).areaHeader r.part

/-- A saved task is restored on core k where it is the first that fits (R298, R329). (DEDUCED, log 37) -/
def Chip.restore (c : Chip) (rid k : Nat) : Chip :=
  match c.records.find? fun r => r.id == rid with
  | none => c
  | some r =>
    let first := (c.sources r.part k).find? fun x => (c.fit r.part x.place x.saved.isSome k).isSome
    match r.saved, c.fit r.part r.place true k, first with
    | some n, some room, some x => if x.id != rid then c else (c.restoreInto r n k room).fill r.part k
    | _, _, _ => c

/-- A record takes the room that core k has for it. -/
def Chip.place (c : Chip) (r : Record) (k : Nat) : Chip :=
  match c.gangOf r, c.fit r.part r.place r.saved.isSome k, r.saved with
  | some g, _, _ => c.gangStep g.id
  | none, some room, some n => c.restoreInto r n k room
  | none, some room, none => c.begin r k room id
  | none, none, _ => c

/-- A waiting record asks for a pre-emption that core k could serve (R256, R330): no other core eligible for it has room, and one of
them runs a task below it, or ran the task of this priority that has just been saved on k. -/
def Chip.wantsCore (c : Chip) (r : Record) (k prio : Nat) : Bool :=
  let cores := (c.partCores r.part).filter (c.eligible r.part r.place r.saved.isSome)
  c.asks r && cores.contains k && cores.all (fun j => j == k || !c.roomOn r j) &&
  (decide (pPrio r.place < prio) || c.threads.any fun e => e.2.live && e.2.graph != 0 && cores.contains (coreOf e.1) && decide (pPrio r.place < e.2.prio))

/-- The highest-priority record that fits the freed context takes it, of those that core k may take and those that ask for a
pre-emption (R330). -/
def Chip.giveCore (c : Chip) (p k prio : Nat) : Chip :=
  let all := c.sources p k ++ c.records.filter fun r => r.part == p && (r.requested && c.asks r && c.eligible p r.place r.saved.isSome k || c.wantsCore r k prio)
  let rs := (List.range 4).flatMap fun i => all.filter fun r => pPrio r.place == i
  match rs.find? fun r => c.roomOn r k with
  | some r => c.place r k
  | none => c

/-- The slot start that waits for the graph to be pre-empted is made at its PPT (R268): where the save is its own, it takes the freed
context k, unless the partition is held (R337). -/
def Chip.slotAfterSave (c : Chip) (p gid : Nat) (k : Option Nat) : Chip :=
  match (c.part p).tslots.find? fun e => e.2.running.head? == some gid && e.2.policy == 2 && e.2.pending.isSome with
  | none => c
  | some (n, x) =>
    c.makeStart p n (x.pending.getD 0) (if (c.part p).state = .running then k else none)

/-- The save is over: the context, the window and the slots are free, and the task waits for its restore (R329, R330). A thread that was
marked for a record leaves its context to that record first. -/
def Chip.saveOver (c : Chip) (t : Nat) : Chip :=
  let th := c.thread t
  match th.park with
  | .saving _ _ n true =>
    let k := coreOf t
    let r := th.savedRecord c.nextId k n
    let c := Chip.vacate { c with records := r :: c.records, nextId := c.nextId + 1 } t
    let c := if th.marked = some 0 then (c.slotAfterSave th.part th.graph (some k)).giveCore th.part k th.prio
      else (c.giveCore th.part k th.prio).slotAfterSave th.part th.graph none
    c.fill th.part k
  | _ => c

/-- The context that a marked thread th left by quitting serves the record that asked for it (R281). -/
def Chip.freed (c : Chip) (th : Thread) (k : Nat) : Chip :=
  match th.marked with
  | some (rid + 1) =>
    match c.records.find? fun r => r.id == rid with
    | some r => if c.asks r then c.place r k else c
    | none => c
  | _ => c

/-! ### Steps -/

/-- PAGE_FAULT_POST. -/
def execPageFaultPost (fault : Nat) (s : State) := s.on fun c => c.postFault fault false
/-- FAULT_RECORD_REPOST. -/
def execFaultRecordRepost (part : Nat) (s : State) := s.on fun c => c.repostFault part
/-- PAGER_START. -/
def execPagerStart (part rid : Nat) (s : State) := s.on fun c => c.startPager part rid
/-- PREEMPT_REQUEST. -/
def execPreemptRequest (record : Nat) (s : State) := s.on fun c => c.preempt record
/-- SAVE_WRITE. -/
def execSaveWrite (thread : Nat) (s : State) := s.on fun c => c.saveWrite thread
/-- SAVE_COMPLETE. -/
def execSaveComplete (thread : Nat) (s : State) := s.on fun c => c.saveOver thread
/-- RESTORE. -/
def execRestore (record core : Nat) (s : State) := s.on fun c => c.restore record core

end Sys2Proof.Machine
end

