-- ==== Sys2Proof/Machine/Tasks.lean ====
section
/-!
DEFINITION. Task instructions and the steps of the schedulers: R244 to R249, R254, R257, R262, R267, R268 to R277.
-/

namespace Sys2Proof.Machine

/-! ### Readiness (R42, R258, R276) -/

/-- A thread that stands at no wait of its own may issue (R42, R258); YIELD aside. -/
def Chip.readyBut (c : Chip) (t : Nat) : Bool :=
  let th := c.thread t
  th.live && !th.stopped && th.posted.isNone && th.again.isNone && !(th.marker && (c.outstanding t || !th.owed.isEmpty))
  && match th.park with
    | .run | .yielded _ => true
    | .drain => !(c.ops.any fun o => o.tid == t) && th.owed.isEmpty
    | .ops ids => !ids.any c.awaited
    | .fence full s ids => !ids.any c.awaited && !(full && c.fullOwed t s)
    | .gone ids | .forked ids => !ids.any fun i => (c.op? i).isSome
    | _ => false

/-- The thread has yielded to threads that were ready then, and since have neither issued nor stopped being ready (R276). -/
def Chip.yielding (c : Chip) (t : Nat) : Bool :=
  match (c.thread t).park with
  | .yielded others => !others.isEmpty
  | _ => false

/-- The thread is ready (R258). -/
def Chip.isReady (c : Chip) (t : Nat) : Bool := c.readyBut t && !c.yielding t

/-- The ready threads of core k, in context order. -/
def Chip.readyThreads (c : Chip) (k : Nat) : List Nat := ((List.range 16).map (16 * k + ·)).filter c.isReady

/-! ### Spawning (R270 to R272, R283) -/

/-- The modes a spawned task copies (R31). -/
def Thread.modes (t : Thread) : Modes :=
  { ladder := t.ladder, budget := t.budget, alpha := t.alpha, vrm := t.vrm, frm := t.fflags.extractLsb' 5 3 }

/-- The four youngest queue entries in push order (R29). -/
def Thread.spawnArgs (t : Thread) : List Word := [t.age 3, t.age 2, t.age 1, t.age 0]

/-- A task that the current thread spawns. -/
def Chip.childRecord (c : Chip) (id idx : Nat) (entry place : Word) : Record :=
  let t := c.thread c.cur
  { id := id, part := t.part, graph := t.graph, index := idx, place := place, entry := entry, args := t.spawnArgs,
    modes := t.modes, asid := t.asid, pool := .blocked, block := [], pureTask := none, pagerOf := none, saved := none,
    requested := false, home := dieOf (coreOf c.cur), waits := c.unperformedIds }

/-- The next free index of the current thread's graph; a thread of no graph has none (DEDUCED, log 17). -/
def Chip.freeIndex (c : Chip) (gang : Bool) (n : Nat) : Option Nat :=
  (c.graph? (c.thread c.cur).part (c.thread c.cur).graph).bind fun g =>
    let idx := if gang then (g.next + 63) / 64 * 64 else g.next
    if idx + n - 1 ≤ 0xFFFF then some idx else none

/-- The checks of R270 in order: a cause, or the first index. -/
def Chip.spawnCheck (c : Chip) (entry place : Word) (gang : Bool) : Except Cause Nat :=
  if entry.toNat % 4 != 0 || placeBad place || (!gang && (pGang place != 0 || pOne place)) then .error .illegalOperand
  else
    match c.placeCause (c.thread c.cur).part place gang with
    | some cause => .error cause
    | none =>
      match c.freeIndex gang (max 1 (pGang place)) with
      | some idx => .ok idx
      | none => .error .illegalOperand

/-- The header of SPAWN and SPAWNG: q0 to q3 are read as explicit sources are (R29). -/
def spawnHdr (sw : Bool) (a b : Src) : Hdr := { sw := sw, pair := [a, b], extra := [.q 0, .q 1, .q 2, .q 3], push := true }

/-- SPAWN (R271, R282). -/
def execSpawn (sw : Bool) (a b : Src) (s : State) :=
  s.issue fun c => c.issue (spawnHdr sw a b) fun c =>
    let t := c.thread c.cur
    match c.spawnCheck (c.src a) (c.src b) false with
    | .error cause => .trap cause 0
    | .ok idx => c.impure false fun c =>
      let r := c.childRecord c.nextId idx (c.src a) (c.src b)
      let c := { (c.addTask t.part t.graph idx (idx + 1)) with nextId := c.nextId + 1 }
      let c := c.emit none (BitVec.ofNat 64 (t.graph * 65536 + idx)) 0
      .done (c.enqueue r (some (coreOf c.cur)))

/-- SPAWNG (R272, R282): skipped indices are never allocated. -/
def execSpawng (sw : Bool) (a b : Src) (s : State) :=
  s.issue fun c => c.issue (spawnHdr sw a b) fun c =>
    let t := c.thread c.cur
    match c.spawnCheck (c.src a) (c.src b) true with
    | .error cause => .trap cause 0
    | .ok idx => c.impure false fun c =>
      let place := c.src b
      let n := pGang place
      let gang := newGang c.nextId t.part (c.part t.part).gangSeq n place
      let rs := (List.range n).map fun k =>
        { c.childRecord (c.nextId + 1 + k) (idx + k) (c.src a) place with pool := .gang gang.id }
      let c := (List.range n).foldl (fun c k => c.addTask t.part t.graph (idx + k) (idx + n)) c
      let c := c.modPart t.part fun q => { q with gangSeq := q.gangSeq + 1 }
      let c := { c with gangs := c.gangs ++ [gang], records := c.records ++ rs, nextId := c.nextId + n + 1 }
      let c := c.emit none (BitVec.ofNat 64 (t.graph * 65536 + idx)) 0
      .done (c.gangRun gang.id n)

/-! ### SPAWNP at issue (R244 to R246, R289) -/

/-- Bytes of byte memory that an instruction reads at its issue (R246): it waits for earlier writes to them and earlier acquires, for an
absent page, and where some of them stand on another device for all of them (Chip.doEarly); a refusal is its trap. (DEDUCED, log 57) -/
def Chip.earlyBytes (c : Chip) (va : Word) (n : Nat) (k : Chip → List Byte → Eff) : Eff :=
  let t := c.thread c.cur
  if t.entryRec.length = n then k (c.modThread c.cur fun t => { t with entryRec := [] }) t.entryRec
  else
    let o := c.newOp { opA := va } (.early va n false)
    let held := (c.ops.filter fun q => q.tid == c.cur && (q.body.acquires || (q.body.writes && q.body.touches.any fun b => c.overlap o q (va, n) b))).map Op.id
    let tables := c.walkHeld (coreOf c.cur) t.part t.asid [(va, n)]
    let c := c.walked (coreOf c.cur) t.part t.asid [(va, n)]
    if !held.isEmpty then .hold (.gone held)
    else if !tables.isEmpty then .left ((c.snoop tables false).modThread c.cur fun t => { t with park := .gone [] })
    else match c.runs o .read (cutRun (va, n)) with
      | .fault w => .hold (.fetch w)
      | .refuse cause _ => .trap cause va
      | .ok ps =>
        let keys := hereKeys ps
        if keys.length != n then
          .left (Chip.modThread { c with ops := c.ops ++ [o], nextId := c.nextId + 1 } c.cur fun t => { t with park := .gone [o.id] })
        else if c.poisoned keys then .trap .memUncorrectable va
        else if c.hostHolds keys true then .left ((c.snoop keys false).modThread c.cur fun t => { t with park := .gone [] })
        else
          let c := (((c.wakeFor t.part keys).fetchHost keys).touch (some (coreOf c.cur)) keys).noteRead c.cur keys
          let (bs, c) := c.readL1 (coreOf c.cur) keys
          k c bs

/-- The words of an argument block (R245). -/
structure ArgBlock where
  na : Nat
  ns : Nat
  no : Nat
  counts : Word
  place : Word
  args : List Word
  scal : List Word
  outs : List Word
  uses : List Nat
  tail : Word

/-- An argument block of 160 bytes as it stands. -/
def argBlock (bs : List Byte) : ArgBlock :=
  let w := fun (off : Nat) => wordOfBytes64 ((bs.drop off).take 8)
  { na := fld (w 0) 0 4, ns := fld (w 0) 4 3, no := fld (w 0) 8 3, counts := w 0, place := w 8,
    args := (List.range 8).map fun k => w (0x10 + 8 * k), scal := (List.range 4).map fun k => w (0x50 + 8 * k),
    outs := (List.range 4).map fun k => w (0x70 + 8 * k), uses := (List.range 4).map fun k => fld (w 0x90) (16 * k) 16, tail := w 0x98 }

/-- The fields and counts of R244 and R245, distinct outputs (R289), and the placement word without a gang. -/
def ArgBlock.ok (b : ArgBlock) (entry w : Word) : Bool :=
  let names := (b.outs.take b.no).map fun h => (hSpace h, hIndex h)
  fld entry 0 2 == 0 && fld w 33 31 == 0 && fld w 0 2 == 0 && decide (4 ≤ fld w 0 32) && decide (fld w 0 32 ≤ 65536)
  && decide (b.na ≤ 8) && decide (b.ns ≤ 4) && decide (1 ≤ b.no) && decide (b.no ≤ 4) && fld b.counts 11 53 == 0 && !b.counts.getLsbD 7
  && (b.args.drop b.na).all (· == 0) && (b.scal.drop b.ns).all (· == 0) && (b.outs.drop b.no).all (· == 0)
  && (b.uses.take b.no).all (decide <| 1 ≤ ·) && (b.uses.drop b.no).all (· == 0) && b.tail == 0
  && decide names.Nodup && !placeBad b.place && pGang b.place == 0 && !pOne b.place

/-- The command of a SPAWNP that passed its checks. -/
def ArgBlock.command (b : ArgBlock) (entry w : Word) (block : List Byte) (taskId : Nat) (m : Modes) (keyNo : Nat) : SpawnpCmd :=
  { entry := entry, len := fld w 0 32, strict := !w.getLsbD 32, block := block, args := b.args.take b.na, scal := b.scal.take b.ns,
    outs := b.outs.take b.no, uses := b.uses.take b.no, place := b.place, taskId := taskId, modes := m, digests := [], code := none,
    gen := 0, keyNo := keyNo, hits := [], hit := false, failed := none }

/-- A SPAWNP that passed its checks: its digests are asked for, and its code digest is read (R246, R287). -/
def Chip.startPure (c : Chip) (a : Start) (cmd : SpawnpCmd) : Chip :=
  let o := c.newOp a (.spawnp cmd)
  let c := c.start a (.spawnp cmd)
  let rs := c.argRequests o cmd.args (List.range cmd.args.length)
  Chip.readCode { c with reqs := c.reqs ++ rs, nextId := c.nextId + rs.length } o cmd fun c _ => c

/-- SPAWNP at issue (R246, R282). -/
def execSpawnp (sw : Bool) (a b : Src) (s : State) :=
  s.issue fun c => c.issue { sw := sw, pair := [a, b], push := true } fun c =>
    let va := c.src a
    let t := c.thread c.cur
    if va.toNat % 8 != 0 then .trap .align va
    else c.withRecord (c.src b) 160 16 fun c p => c.earlyBytes va 16 fun c bs =>
      let entry := wordOfBytes64 (bs.take 8)
      let w := wordOfBytes64 (bs.drop 8)
      let block := (c.core (coreOf c.cur)).scratch.bytes p 160
      let blk := argBlock block
      if !blk.ok entry w then .trap .illegalOperand 0
      else match c.freeIndex false 1 with
      | none => .trap .illegalOperand 0
      | some idx =>
        if (blk.args.take blk.na ++ blk.outs.take blk.no).any badHandle then .trap .badHandle 0
        else match c.placeCause t.part blk.place false with
        | some cause => .trap cause 0
        | none => c.impure false fun c =>
          let c := c.addTask t.part t.graph idx (idx + 1)
          .done (c.startPure { push := true, opA := va, opB := c.src b }
            (blk.command entry w block (t.graph * 65536 + idx) t.modes (c.part t.part).keyNo))

/-! ### Ending, joining, triggering (R249, R273 to R275) -/

/-- The issuing task ends (R248, R273). -/
def Chip.quitTask (c : Chip) : Chip :=
  let t := c.thread c.cur
  let k := coreOf c.cur
  let c := match t.pureTask with
    | some p => c.cellarDecide t.part p
    | none => c
  (((c.vacate c.cur).freed t k).taskQuit t.part t.graph t.index).fill t.part k

/-- QUIT (R273): it waits for every operation of the thread and every trap owed; in the handler it answers end-graph
(R308). -/
def execQuit (sw : Bool) (s : State) :=
  s.issue fun c => c.issue { sw := sw } fun c =>
    let t := c.thread c.cur
    if c.flying || !t.owed.isEmpty then .hold .drain
    else if t.handling.isSome then .left (c.endHandler c.cur 2)
    else .left c.quitTask

/-- JOIN (R249, R275): its result joins the task to its thread (R353). -/
def execJoin (sw : Bool) (a : Src) (s : State) :=
  s.issue fun c => c.issue { sw := sw, pair := [a], push := true } fun c =>
    let x := c.src a
    let t := c.thread c.cur
    let task := (c.graph? t.part t.graph).bind fun g => g.tasks.find? fun i => i.idx == fld x 0 16
    if fld x 48 15 != 0 || fld x 16 32 != t.graph || fld x 0 16 == t.index then .trap .illegalOperand 0
    else match task with
      | none => .trap .illegalOperand 0
      | some i => if i.quit then .done ((c.acquire (coreOf c.cur) .domain).emit none 0 0) else .done (c.start { push := true, opA := x } (.join t.graph i.idx))

/-- TRIG (R274): the thread's accesses are performed first. -/
def execTrig (sw : Bool) (s : State) :=
  s.issue fun c => c.issue { sw := sw } fun c =>
    let t := c.thread c.cur
    if !c.unperformedIds.isEmpty then .hold (.gone c.unperformedIds)
    else .done (c.trigger t.part t.graph t.index)

/-! ### Yielding and sleeping (R276, R277) -/

/-- YIELD (R276). -/
def execYield (sw : Bool) (s : State) :=
  s.issue fun c => c.issue { sw := sw } fun c =>
    let others := ((c.readyThreads (coreOf c.cur)).filter (· != c.cur)).map fun u => (u, (c.thread u).placedAt)
    .done (if others.isEmpty then c else c.modThread c.cur fun t => { t with park := .yielded others })

/-- SLEEP (R277). -/
def execSleep (sw : Bool) (a : Src) (rel : Bool) (s : State) :=
  s.issue fun c => c.issue { sw := sw, pair := [a] } fun c =>
    let now := (c.part (c.thread c.cur).part).time
    let t := if rel then BitVec.ofNat 64 (min (2 ^ 64 - 1) (now.toNat + (c.src a).toNat)) else c.src a
    .done (if t.ule now then c else c.modThread c.cur fun th => { th with park := .sleep t })

/-- SLEEP_WAKE: TIME has reached the target (R277). -/
def execSleepWake (thread : Nat) (s : State) :=
  s.on fun c => match (c.thread thread).park with
    | .sleep t => if t.ule (c.part (c.thread thread).part).time then c.modThread thread fun th => { th with park := .run } else c
    | _ => c

/-! ### Steps of the schedulers -/

/-- A record may move from its die's pool to that of die dst: it is unstarted, and its partition has free contexts there (R254). -/
def Chip.movesTo (c : Chip) (dst : Nat) (r : Record) : Bool :=
  r.saved.isNone && !pNamed r.place && c.placeable r.part r &&
  (c.partCores r.part).any fun k => dieOf k == dst && !(c.freeContexts r.part k).isEmpty

/-- An unstarted record moves from the pool of die src to that of die dst, of the same class, with free contexts and an empty
pool (R254): the first of those that may. -/
def Chip.poolMove (c : Chip) (src dst : Nat) : Chip :=
  match c.records.find? fun r => r.pool == .die src && c.movesTo dst r with
  | none => c
  | some r =>
    let p := r.part
    if src / 4 != dst / 4 || src == dst || c.records.any (fun x => x.pool == .die dst) then c
    else
      let rs := (c.records.filter fun x => x.id != r.id) ++ [{ r with pool := .die dst }]
      Chip.fill { c with records := rs } p (64 * dst)

/-- DIE_POOL_MOVE. -/
def execDiePoolMove (src dst : Nat) (s : State) := s.on fun c => c.poolMove src dst
/-- GANG_RESERVE. -/
def execGangReserve (gang : Nat) (s : State) := s.on fun c => c.gangStep gang
/-- LAUNCH_VERSION_SERVED, of launch name id mod 16 of partition id / 16. (DEDUCED, log 26) -/
def execLaunchVersionServed (id : Nat) (s : State) := s.on fun c => c.launchServed (id / 16) (id % 16)

/-- The first owed write that waits for no page and stands behind no other of its word. -/
def nextStatus : List OwedStatus → List OwedStatus → Option OwedStatus
  | _, [] => none
  | before, x :: xs =>
    if !x.waiting && !before.any fun y => y.part == x.part && y.va == x.va then some x else nextStatus (x :: before) xs

/-- A status word write is dropped, with a stop record (R265). (DESIGN CHOICE, log 82) -/
def Chip.dropStatus (c : Chip) (x : OwedStatus) (cause : Cause) : Chip :=
  c.putStop x.part { cause := cause.code, unit := 5, thread := 0, task := x.graph * 65536, pc := x.entry, opA := x.va,
                     opB := BitVec.ofNat 64 (fld x.value 60 3) }

/-- The status word writes that peers have not answered. -/
def Chip.statusAsked (c : Chip) : List OwedStatus := c.unitAsks.filterMap fun e => match e.2 with
  | .status x => some x
  | _ => none

/-- The next write of a status word is made, asked of a peer, waits for its page, or is dropped with a stop record (R264, R265); a
misaligned one is dropped, with CAUSE ALIGN in its record (DESIGN CHOICE, log 82), and one whose lines the host holds waits for them
(R390). (DESIGN CHOICE, log 16) -/
def Chip.statusWrite (c : Chip) : Chip :=
  match nextStatus c.statusAsked c.owedStatus with
  | none => c
  | some x =>
    let host := c.unitAsksHost .unit x.part x.asid .user .write [(x.va, 8)]
    let wait := { c with owedStatus := c.owedStatus.map fun y => if y.id = x.id then { y with waiting := true } else y }
    let c := { c with owedStatus := c.owedStatus.filter fun y => y.id != x.id }
    let bs := bytesOfNat 8 x.value.toNat
    if x.va.toNat % 8 != 0 then c.dropStatus x .align
    else if x.failed then c.dropStatus x .pageFault
    else
      match host with
      | some asked => asked
      | none =>
      let c := c.walked noCore x.part x.asid [(x.va, 8)]
      match c.access noCore x.part x.asid .user .write x.va 8 with
      | .ok keys page => if c.poisoned keys then c.dropStatus x .memUncorrectable else c.devPerform .unit x.part keys page bs
      | .far dev pa =>
        if c.linksUp dev then Chip.send { c with unitAsks := c.unitAsks ++ [(x.id, .status x)] } [.req dev x.part (tagOf x.id 0) (.write pa bs)]
        else c.dropStatus x .linkLost
      | .fault _ => wait
      | .refuse cause _ => c.dropStatus x cause

/-- Start k of a slot falls due (R267, R268, R337). -/
def Chip.slotDue (c : Chip) (p n : Nat) : Chip :=
  let q := c.part p
  match Table.get? q.tslots n with
  | none => c
  | some x =>
    let due := x.start.toNat + x.nextK * x.period.toNat
    if !x.armed || !q.slottab.getLsbD 0 || decide (q.time.toNat < due) || (x.period == 0 && decide (0 < x.nextK)) then c
    else
      let k := if x.period = 0 then 0 else (q.time.toNat - x.start.toNat) / x.period.toNat
      let c := (c.modSlot p n fun x => { x with nextK := k + 1 }).countSlot p n false (k - x.nextK)
      if q.state != .running then c.countSlot p n false 1
      else
        if x.running.isEmpty then c.makeStart p n k
        else if x.policy = 0 then c.countSlot p n false 1
        else if x.pending.isSome then c.countSlot p n true 1
        else c.modSlot p n fun x => { x with pending := some k }

/-- STATUS_WORD_WRITE. -/
def execStatusWordWrite (s : State) := s.on Chip.statusWrite
/-- SLOT_START_DUE. -/
def execSlotStartDue (part slot : Nat) (s : State) := s.on fun c => c.slotDue part slot

end Sys2Proof.Machine
end

