-- ==== Sys2Proof/Machine/System.lean ====
section
/-!
DEFINITION. Control registers, translation generations, partitions and cache operations of the system instructions:
R332 to R341, R371, R381, R382, R385, R394 to R401.
-/

namespace Sys2Proof.Machine

/-! ### Leaves of a table (R376, R377) -/

/-- Addresses of the valid entries of a table of n entries at base. -/
def tableEntries (m : Memory) (base n : Nat) : List Nat :=
  (m.filter fun e => decide (base ≤ e.1) && decide (e.1 < base + 8 * n) && (e.1 - base) % 8 == 0 && e.2.getLsbD 0).map (·.1)

/-- The leaves under a table that a walk finds: virtual address, level and entry; va is the address the table starts at. An entry out of
the partition's reach, or malformed, has no translation below it (R378, R379). -/
def leavesUnder (m : Memory) (may : Nat → Bool) (device : BitVec 12) : List Nat → Nat → Nat → List (Nat × Nat × Word)
  | [], _, _ => []
  | level :: rest, va, base =>
    (tableEntries m base (if level = 0 then 512 else 8192)).flatMap fun a =>
      let e := m.word a
      let at_ := va + (a - base) / 8 * 2 ^ (55 - 13 * level)
      if !may a || pteBad device level e then []
      else if e.getLsbD 7 then [(at_, level, e)] else leavesUnder m may device rest at_ (pteFrame e)

/-- The leaves of an ASID of a partition. -/
def Chip.leaves (c : Chip) (p : Nat) (asid : BitVec 16) : List (Nat × Nat × Word) :=
  match Table.get? (c.part p).asids asid.toNat with
  | some a => if a.root.getLsbD 0 then
      leavesUnder c.mem (fun x => (c.reach p 0 x).isNone) c.device [0, 1, 2, 3] 0 (fld a.root 12 52 * 4096) else []
  | none => []

/-! ### Reading control registers (R340, R341) -/

end Sys2Proof.Machine

namespace Sys2Proof
open Machine

/-- The level that a read needs (R341). -/
def CReg.readLevel : CReg → Level
  | .tid | .task | .prio | .partid | .cls | .winsz | .accn | .vcsr | .fflags | .time | .cycles | .mxc _ | .cel _ | .vtStall
  | .vtWonce | .vtWaits | .dupCollapse => .user
  | _ => .sup

/-- The level that a write needs: the read level where no write changes the register (R340). -/
def CReg.writeLevel : CReg → Level
  | .partIl | .partNb | .partGroups | .partCtl => .pkg
  | r => r.readLevel

/-- A pure task may read it (R340). -/
def CReg.free : CReg → Bool
  | .vcsr | .fflags => true
  | _ => false

end Sys2Proof

namespace Sys2Proof.Machine

/-- A word of fields: value and lowest bit of each. -/
def fields (fs : List (Nat × Nat)) : Word := BitVec.ofNat 64 (fs.map fun f => f.1 * 2 ^ f.2).sum

/-- STATE of PART_CTL (R399). -/
def PState.code : PState → Nat
  | .undefined => 0
  | .running => 1
  | .quiescing => 2
  | .quiesced => 3

/-- BUSY of CQ_STATUS (R371): commands of ended graphs that still drain through a queue count too (R402). -/
def Chip.cqStatus (c : Chip) (p : Nat) : Word :=
  ((c.ops ++ c.hung).filterMap fun o => match o.body with
    | .copy cmd => if o.part = p then cmd.queue else none
    | _ => none).foldl (fun w q => w ||| BitVec.twoPow 64 (q / 4)) 0

/-- The layout that a thread reads: PKG the staged copy of SEL, SUP the layout in force of its own partition (R399).
(DEDUCED, log 47) -/
def Chip.layoutOf (c : Chip) (t : Thread) : Layout :=
  if t.level = .pkg then (c.part c.sel).staged else (c.part t.part).layout

/-- The partition that PART_CTL shows a thread. (DEDUCED, log 47) -/
def Chip.ctlPart (c : Chip) (t : Thread) : Nat := if t.level = .pkg then c.sel else t.part

/-- The value of a control register for the issuing thread. (DEDUCED, log 47) -/
def Chip.ctlRead (c : Chip) (r : CReg) : Word :=
  let t := c.thread c.cur
  let k := c.core (coreOf c.cur)
  let p := c.part t.part
  let nat := fun (n : Nat) => BitVec.ofNat 64 n
  let asid := (Table.get? p.asids t.asid.toNat).getD { root := 0, gen := 0 }
  match r with
  | .tid => nat (c.tid c.cur)
  | .task => nat t.task
  | .prio => nat t.prio
  | .partid => nat t.part
  | .cls => nat (coreClass (coreOf c.cur))
  | .winsz => nat t.winSize
  | .accn => nat t.slots.length
  | .vcsr => t.vrm.setWidth 64
  | .fflags => t.fflags.setWidth 64
  | .time => p.time
  | .cycles => k.cycles
  | .mxc i => k.mxc[i]
  | .cel i => [p.celHit, p.celMiss, p.celIns, p.celDemote, p.celEvict].getD i 0
  | .vtStall => p.vtStall
  | .vtWonce => p.vtWonce
  | .vtWaits => p.vtWaits
  | .dupCollapse => p.dupCollapse
  | .trapvec => p.trapvec
  | .hearth => p.hearth
  | .trapsave => p.trapsave
  | .asid => t.asid.setWidth 64
  | .ptbase => asid.root
  | .gen => asid.gen.setWidth 64
  | .fbbase => p.fbbase
  | .fbstatus => fields [(p.faults.length, 16), (if p.fbOvf then 1 else 0, 0)]
  | .fbheld => p.fbheld
  | .pagertab => p.pagertab
  | .celkey => fields [(if p.celSweep then 1 else 0, 62), (p.celEpoch.toNat, 0)]
  | .celquota => fields [((c.cellar.filter fun e => e.part == t.part).length, 32), (p.celquota.toNat, 0)]
  | .slottab => p.slottab
  | .ptpctl => p.ptpctl ||| if p.ptpLock then BitVec.twoPow 64 63 else 0
  | .ltol => p.ltol.setWidth 64
  | .pstate => fields (c.dieState.toList.zipIdx.map fun (s, d) => (s, 4 * d))
  | .partIl => (c.layoutOf t).il
  | .partNb => (c.layoutOf t).nb
  | .partGroups => (c.layoutOf t).groups.setWidth 64
  | .partCtl =>
    let q := c.part (c.ctlPart t)
    fields [(c.ctlPart t, 56), (q.state.code, 54), (q.result, 51), (q.msrc, 40), ((c.layoutOf t).vtshare, 32)]
  | .cqStatus => c.cqStatus t.part

/-- CTLRD: the value is read at issue (R340). -/
def execCtlrd (sw : Bool) (d : Dest) (r : CReg) (s : State) :=
  s.issue fun c => c.issue { sw := sw, dest := d, push := true, level := r.readLevel } fun c =>
    if r.free then .done (c.emit d (c.ctlRead r) 0) else c.impure false fun c => .done (c.emit d (c.ctlRead r) 0)

/-! ### Layouts and partition commands (R394 to R400) -/

/-- A die or a set of a layout. -/
def Layout.dies (l : Layout) : Nat := fld l.il 0 8
/-- SLICEMASK. -/
def Layout.sliceMask (l : Layout) : Nat := fld l.il 8 16
/-- CHMASK. -/
def Layout.chMask (l : Layout) : Nat := fld l.il 24 32
/-- GRAN. -/
def Layout.gran (l : Layout) : Nat := fld l.il 56 4

/-- Slice x of the package is of the layout. -/
def Layout.hasSlice (l : Layout) (x : Nat) : Bool := l.il.getLsbD (x / 16) && l.il.getLsbD (8 + x % 16)

/-- Two layouts have a common group or channel; a die that is not live has no channels (R12). (DESIGN CHOICE, log 62) -/
def Layout.clash (live : BitVec 8) (a b : Layout) : Bool :=
  a.groups &&& b.groups != 0 || (a.dies &&& b.dies &&& live.toNat != 0 && a.chMask &&& b.chMask != 0)

/-- The other defined partitions. -/
def Chip.othersDefined (c : Chip) (ps : List Nat) : List Nat :=
  ((c.parts.filter fun e => e.2.state != .undefined).map (·.1)).filter fun p => !ps.contains p

/-- A layout of a partition is refused with 2 (R400): it takes the place of the layouts of ps. A group of a die that is not live
cannot be assigned (R394), and a die that is not live has no slices (R397). (DEDUCED, log 46) -/
def Chip.layoutBad (c : Chip) (ps : List Nat) (l : Layout) : Bool :=
  let others := (c.othersDefined ps).map fun p => (c.part p).layout
  let groupDies := (List.range 28).filter l.groups.getLsbD |>.map fun g => dieOf (firstCoreOfGroup g)
  l.dies == 0 || l.sliceMask == 0 || l.chMask == 0 || l.groups == 0 || decide (8 < l.gran)
  || others.any (l.clash c.liveDies)
  || ((List.range 128).any fun x => l.hasSlice x && c.liveDies.getLsbD (x / 16) && decide (128 < l.vtshare + ((others.filter (·.hasSlice x)).map Layout.vtshare).sum))
  || ((List.range 8).any fun d => (l.il.getLsbD d || groupDies.contains d) && !l.nb.getLsbD d)
  || groupDies.any fun d => !c.liveDies.getLsbD d

/-- The partition holds an entry, a head or a waiting store on a slice of this kind; the schedulers' loads of launch names aside
(DEDUCED, log 26). -/
def Chip.holdsOn (c : Chip) (p : Nat) (bad : Nat → Bool) : Bool :=
  (c.entries.any fun e => e.part == p && bad (c.sliceOf p e.space e.index))
  || (c.heads.any fun h => h.part == p && !c.launchOnly h && bad (c.sliceOf p h.space h.index))
  || c.reqs.any fun r => r.part == p && r.reserves && bad (c.sliceOf p r.space r.index)

/-- Saved tasks of a partition would have no core of their class under this layout. -/
def Chip.strands (c : Chip) (p : Nat) (l : Layout) : Bool :=
  c.records.any fun r => r.part == p && r.saved.isSome &&
    !(List.range 512).any fun k => c.coreLive k && l.groups.getLsbD (groupOf k) && ofClass (pClass r.place) k

/-- Virtual functions bound to a partition. -/
def Chip.vfsOf (c : Chip) (p : Nat) : List Nat := (c.vfs.filter fun e => (e.2.bound.map (·.1)) == some p).map (·.1)

/-- What a partition keeps when it becomes undefined: the staged copy (R399). -/
def Partition.cleared (q : Partition) : Partition := { Partition.empty with staged := q.staged, msrc := q.msrc, result := q.result }

/-- The partition holds something that R400 does not let go. (DEDUCED, log 46) -/
def Chip.holdsState (c : Chip) (p : Nat) : Bool :=
  c.holdsOn p (fun _ => true) || !(c.part p).saves.isEmpty || !(c.vfsOf p).isEmpty

/-- A partition is gone, with its spaces, heads, cellar, records and kept translations. (DEDUCED, log 46) -/
def Chip.removePart (c : Chip) (p : Nat) : Chip :=
  let c := c.flushCellar p
  let c := { c with
    spaces := c.spaces.filter fun s => s.part != p
    heads := c.heads.filter fun h => h.part != p
    reqs := c.reqs.filter fun r => r.part != p
    graphs := c.graphs.filter fun g => g.part != p
    records := c.records.filter fun r => r.part != p
    gangs := c.gangs.filter fun g => g.part != p
    owedStatus := c.owedStatus.filter fun x => x.part != p
    unitAsks := c.unitAsks.filter fun e => match e.2 with
      | .status x => x.part != p
      | .slots q | .put q => q != p
    unitWork := c.unitWork.filter fun x => x.part != p
    marks := c.marks.filter fun m => m.1 != p
    cores := c.cores.map fun (e : Nat × Core) => (e.1, { e.2 with tlb := e.2.tlb.filter fun x => x.1 != p }) }
  c.modPart p Partition.cleared

/-- RESULT of the last command on a partition. -/
def Chip.result (c : Chip) (p r : Nat) : Chip := c.modPart p fun q => { q with result := r }

/-- The launch space of a new partition (R104). (DEDUCED, log 24) -/
def launchSpace (p : Nat) : Space :=
  { part := p, id := 255, home := 0, die := 0, device := 0, rpart := 0, backing := 1, purity := false, rspace := 0, rmap := false,
    vquota := 8, equota := 0 }

/-- CREATE (R400): granules of its channels and of expansion memory are unclassified again (R386). (DEDUCED, log 46) -/
def Chip.create (c : Chip) (p : Nat) : Chip :=
  let l := (c.part p).staged
  if (c.part p).state != .undefined then c.result p 1
  else if c.layoutBad [p] l then c.result p 2
  else
    let own := fun (g : Nat) => decide (12 * stackBytes ≤ 65536 * g) || l.il.getLsbD (dieOfHbm (65536 * g))
      && l.il.getLsbD (24 + Config.channelOf (65536 * g) % 32)
    let c := c.modPart p fun q => { Partition.empty with
      state := .quiesced, layout := l, staged := q.staged, msrc := q.msrc, keyNo := c.draws }
    { c with draws := c.draws + 1, spaces := launchSpace p :: c.spaces, granules := c.granules.filter fun g => !own g.1 }

/-- The slices of a partition have changed: a sweep that runs takes them all once more (R295). (DEDUCED, log 46) -/
def Chip.resweep (c : Chip) (p : Nat) : Chip :=
  c.modPart p fun q => { q with sweepLeft := if q.celSweep then c.slices p else [] }

/-- COMMIT (R400). (DEDUCED, log 46) -/
def Chip.commit (c : Chip) (p : Nat) : Chip :=
  let q := c.part p
  if q.state != .quiesced then c.result p 1
  else if c.layoutBad [p] q.staged then c.result p 2
  else if c.holdsOn p (fun x => q.layout.hasSlice x && !q.staged.hasSlice x) || c.strands p q.staged then c.result p 4
  else ((c.flushCellar p).modPart p fun q => { q with layout := q.staged, result := 0 }).resweep p

/-- The layout of a merge: groups, slices and channels of MSRC join the staged layout. -/
def Layout.join (a b : Layout) : Layout :=
  { a with groups := a.groups ||| b.groups, il := a.il ||| (b.il &&& 0x00FFFFFFFFFFFFFF) }

/-- MERGE (R400). (DEDUCED, log 46) -/
def Chip.merge (c : Chip) (p : Nat) : Chip :=
  let a := c.part p
  let m := a.msrc
  let b := c.part m
  let l := a.staged.join b.layout
  let defined := fun (t : Table AsidEntry) => (t.filter fun e => e.2.root.getLsbD 0).map (·.1)
  if a.state != .quiesced || b.state != .quiesced || p == m then c.result p 1
  else if c.layoutBad [p, m] l || decide (16 < (c.vfsOf p).length + (c.vfsOf m).length)
      || (defined a.asids).any (defined b.asids).contains then c.result p 2
  else if c.cqStatus p != 0 || c.cqStatus m != 0 then c.result p 3
  else if c.holdsState m || c.holdsOn p (fun x => a.layout.hasSlice x && !l.hasSlice x) || c.strands p l then c.result p 4
  else
    let asids := b.asids.foldl (fun t e => if e.2.root.getLsbD 0 then Table.put t e.1 e.2 else t) a.asids
    let c := (((c.flushCellar p).removePart m).modPart p fun q => { q with
      layout := l, staged := l, asids := asids, frames := q.frames ++ b.frames, result := 0 }).resweep p
    { c with vfs := c.vfs.map fun (e : Nat × VirtFn) => match e.2.bound with
        | some (x, asid) => if x = m then (e.1, { e.2 with bound := some (p, asid) }) else e
        | none => e }

/-- DESTROY (R400). (DEDUCED, log 46) -/
def Chip.destroy (c : Chip) (p : Nat) : Chip :=
  if (c.part p).state != .quiesced then c.result p 1
  else if c.holdsState p then c.result p 4
  else (c.removePart p).result p 0

/-- The command of CMD on the partition SEL. (DEDUCED, log 46) -/
def Chip.partCommand (c : Chip) (cmd : Nat) : Chip :=
  match cmd with
  | 1 => c.create c.sel
  | 2 => c.commit c.sel
  | 3 => c.merge c.sel
  | 4 => c.destroy c.sel
  | _ => c

/-! ### Writing control registers (R340, R341) -/

/-- A CTLWR whose value the register does not take. -/
def Chip.ctlBad (c : Chip) (r : CReg) (v : Word) : Bool :=
  let t := c.thread c.cur
  let p := c.part t.part
  match r with
  | .vcsr => decide (4 < fld v 0 3)
  | .fflags => decide (4 < fld v 5 3)
  | .trapvec => fld v 0 2 != 0
  | .hearth => if v.getLsbD 21 then fld v 0 12 == c.device.toNat else fld v 0 21 != 0
  | .trapsave => decide (fld v 0 6 < 20) || decide (40 < fld v 0 6) || !p.saves.isEmpty
  | .asid => !((Table.get? p.asids (fld v 0 16)).map fun a => a.root.getLsbD 0).getD false
  | .ptbase => !frameInRange 0 (fld v 12 52 * 4096) 12
  | .pagertab => decide (64 < fld v 0 7)
  | .celquota => decide (131072 < fld v 0 18)
  | .ptpctl => fld v 0 2 == 3 && (fld v 2 12 == c.device.toNat || fld v 2 12 == 0 || decide (0x900 < fld v 2 12))
  | .partCtl => decide (19 < fld v 56 5) || decide (4 < fld v 0 3)
  | _ => false

/-- No slot of a partition is armed. -/
def Partition.disarm (q : Partition) : Partition :=
  { q with tslots := q.tslots.map fun (e : Nat × TSlot) => (e.1, { e.2 with armed := false, pending := none }) }

/-- No slot is armed until the new table has been read; held starts stay. -/
def Partition.unarmed (q : Partition) : Partition :=
  { q with tslots := q.tslots.map fun (e : Nat × TSlot) => (e.1, { e.2 with armed := false }) }

/-- The access reads a table of slots. -/
def UnitJob.isSlots : UnitJob → Bool
  | .slots _ => true
  | _ => false

/-- SLOTTAB written: the table is read, on another device by a request (R266, R406). (DESIGN CHOICE, log 16) (DEDUCED, log 52) -/
def Chip.setSlottab (c : Chip) (p : Nat) (asid : BitVec 16) (v : Word) : Chip :=
  let w := v &&& 0xFFFFFFFFFFFFF001
  let c := { c with
    unitAsks := c.unitAsks.filter fun e => e.2 != UnitAsk.slots p
    unitWork := c.unitWork.filter fun x => !(x.part == p && x.job.isSlots) }
  if v.getLsbD 0 then
    Chip.unitRun (c.modPart p fun q => { q.unarmed with slottab := w, slotAsid := asid })
      { part := p, asid := asid, job := .slots (slotVa w 0) }
  else c.modPart p fun q => { q.disarm with slottab := w }

/-- The staged layout of SEL changed. (DEDUCED, log 47) -/
def Chip.stage (c : Chip) (f : Layout → Layout) : Chip := c.modPart c.sel fun q => { q with staged := f q.staged }

/-- PTPCTL written: another source, or none, has given no sample yet, so nothing is slewed and TIME is not locked (R413).
(DESIGN CHOICE, log 42) -/
def Partition.setPtp (q : Partition) (v : Word) : Partition :=
  let w := v &&& 0x0000FFFF00003FFF
  if fld w 0 2 != 0 && fld w 0 2 == fld q.ptpctl 0 2 && (fld w 0 2 != 3 || fld w 2 12 == fld q.ptpctl 2 12) then { q with ptpctl := w }
  else { q with ptpctl := w, slew := 0, slewIn := 0, ptpLock := false }

/-- A control register written with a value it takes; reserved and read-only fields keep theirs (R4, R340). (DEDUCED, log 50) -/
def Chip.ctlSet (c : Chip) (r : CReg) (v : Word) : Chip :=
  let t := c.thread c.cur
  let p := fun (f : Partition → Partition) => c.modPart t.part f
  match r with
  | .vcsr => c.modThread c.cur fun t => { t with vrm := v.extractLsb' 0 3 }
  | .fflags => c.modThread c.cur fun t => { t with fflags := v.extractLsb' 0 8 }
  | .trapvec => p fun q => { q with trapvec := v }
  | .hearth => p fun q => { q with hearth := v &&& 0x3FFFFF }
  | .trapsave => (p fun q => { q with trapsave := v &&& 0xFFFFFFFFFFF0003F, areaAsid := t.asid }).areaHeader t.part
  | .asid => c.modThread c.cur fun t => { t with asid := v.extractLsb' 0 16 }
  | .ptbase => p fun q =>
    let old := (Table.get? q.asids t.asid.toNat).getD { root := 0, gen := 0 }
    { q with asids := Table.put q.asids t.asid.toNat { old with root := v &&& 0xFFFFFFFFFFFFF001 } }
  | .fbbase => p fun q => { q with fbbase := v &&& 0xFFFFFFFFFFFF0000 }
  | .fbstatus => p fun q => { q with fbOvf := q.fbOvf && !v.getLsbD 0 }
  | .pagertab => p fun q => { q with pagertab := v &&& 0xFFFFFFFFFFFFF07F, pagerAsid := t.asid }
  | .celkey => if v.getLsbD 63 then c.rotateKey t.part else c
  | .celquota => p fun q => { q with celquota := v.extractLsb' 0 18 }
  | .slottab => c.setSlottab t.part t.asid v
  | .ptpctl => p fun q => q.setPtp v
  | .ltol => p fun q => { q with ltol := v.extractLsb' 0 32 }
  | .partIl => c.stage fun l => { l with il := v &&& 0x0FFFFFFFFFFFFFFF }
  | .partNb => c.stage fun l => { l with nb := v &&& 0x3FF }
  | .partGroups => c.stage fun l => { l with groups := v.extractLsb' 0 28 }
  | .partCtl =>
    let c := Chip.stage { c with sel := fld v 56 5 } fun l => { l with vtshare := fld v 32 8 }
    (c.modPart c.sel fun q => { q with msrc := fld v 40 5 }).partCommand (fld v 0 3)
  | _ => c

/-- CTLWR (R340). -/
def execCtlwr (sw : Bool) (a : Src) (r : CReg) (s : State) :=
  s.issue fun c => c.issue { sw := sw, pair := [a], level := r.writeLevel } fun c =>
    if c.ctlBad r (c.src a) then .trap .illegalOperand 0 else c.impure false fun c => .done (c.ctlSet r (c.src a))

/-- A register write of the issuing thread, with its limits. (DEDUCED, log 51) -/
def Chip.ctlWrite (c : Chip) (r : CReg) (v : Word) : Chip :=
  if c.ctlBad r v then c.raise .illegalOperand 0 v 0 0 false none false else c.ctlSet r v

/-- SLOTTAB_WRITE. (DEDUCED, log 51) -/
def execSlottabWrite (v : Word) (s : State) := s.issue fun c => c.ctlWrite .slottab v
/-- PTBASE_WRITE. (DEDUCED, log 51) -/
def execPtbaseWrite (v : Word) (s : State) := s.issue fun c => c.ctlWrite .ptbase v
/-- ASID_WRITE. (DEDUCED, log 51) -/
def execAsidWrite (v : Word) (s : State) := s.issue fun c => c.ctlWrite .asid v
/-- TRAPSAVE_WRITE. -/
def execTrapsaveWrite (v : Word) (s : State) := s.issue fun c => c.ctlWrite .trapsave v
/-- HEARTH_WRITE. -/
def execHearthWrite (v : Word) (s : State) := s.issue fun c => c.ctlWrite .hearth v
/-- TRAPVEC_WRITE. -/
def execTrapvecWrite (v : Word) (s : State) := s.issue fun c => c.ctlWrite .trapvec v
/-- PAGERTAB_WRITE. -/
def execPagertabWrite (v : Word) (s : State) := s.issue fun c => c.ctlWrite .pagertab v
/-- FBSTATUS_WRITE. -/
def execFbstatusWrite (v : Word) (s : State) := s.issue fun c => c.ctlWrite .fbstatus v
/-- CELQUOTA_WRITE. -/
def execCelquotaWrite (v : Word) (s : State) := s.issue fun c => c.ctlWrite .celquota v
/-- PTPCTL_WRITE. -/
def execPtpctlWrite (v : Word) (s : State) := s.issue fun c => c.ctlWrite .ptpctl v
/-- FFLAGS_WRITE. (DEDUCED, log 51) -/
def execFflagsWrite (v : Word) (s : State) := s.issue fun c => c.ctlWrite .fflags v
/-- VCSR_WRITE. (DEDUCED, log 51) -/
def execVcsrWrite (v : Word) (s : State) := s.issue fun c => c.ctlWrite .vcsr v
/-- PART_CTL_SEL_WRITE. -/
def execPartCtlSelWrite (v : Word) (s : State) := s.issue fun c => c.ctlWrite .partCtl v
/-- CREATE. -/
def execCreate (s : State) := s.on fun c => c.create c.sel
/-- COMMIT. -/
def execCommit (s : State) := s.on fun c => c.commit c.sel
/-- MERGE. -/
def execMerge (s : State) := s.on fun c => c.merge c.sel
/-- DESTROY. -/
def execDestroy (s : State) := s.on fun c => c.destroy c.sel

/-! ### GENBUMP (R335, R382, R401) -/

/-- GENBUMP: a PKG thread acts on the partition SEL. (DEDUCED, log 48) -/
def execGenbump (sw : Bool) (d : Dest) (a : Src) (s : State) :=
  s.issue fun c => c.issue { sw := sw, pair := [a], dest := d, push := true, level := .sup } fun c =>
    let p := c.ctlPart (c.thread c.cur)
    let x := c.src a
    let known := ((Table.get? (c.part p).asids (fld x 0 16)).map fun e => e.root.getLsbD 0).getD false
    if fld x 16 48 != 0 || !known then .trap .illegalOperand 0
    else .done (c.start { push := true, named := d, opA := x } (.genbump p (x.extractLsb' 0 16) 0 []))

/-- A kept translation of an ASID. -/
def ofAsid (p : Nat) (asid : BitVec 16) (x : Nat × BitVec 16 × Nat × Nat × Word) : Bool := x.1 == p && x.2.1 == asid

/-- Core k drops its translations of an ASID. -/
def Chip.dropXlat (c : Chip) (p : Nat) (asid : BitVec 16) (k : Nat) : Chip :=
  c.modCore k fun q => { q with tlb := q.tlb.filter fun x => !ofAsid p asid x }

/-- The new generation is applied and broadcast (R335); pages that the ASID maps make copies again (R385). (DEDUCED, log 48) -/
def Chip.applyGen (c : Chip) (o : Op) (p : Nat) (asid : BitVec 16) : Chip :=
  let old := (Table.get? (c.part p).asids asid.toNat).getD { root := 0, gen := 0 }
  let g := old.gen + 1
  let mapped := ((c.leaves p asid).filter fun e => decide (fld e.2.2 10 2 < 2)).map fun e => pteFrame e.2.2
  let c := c.releaseWide.modPart p fun q => { q with asids := Table.put q.asids asid.toNat { old with gen := g } }
  let c := { c with collapsed := c.collapsed.filter fun e => !mapped.contains e.1 }
  let c := if g = 0 then { c with cores := c.cores.map fun (e : Nat × Core) => (e.1, { e.2 with tlb := e.2.tlb.filter fun x => !ofAsid p asid x }) } else c
  c.modOp o.id fun q => { q with ready := true, body := .genbump p asid g (c.partCores p) }

/-- A read on the instruction path. -/
def OpBody.readsCode : OpBody → Bool
  | .load _ _ _ code => code
  | _ => false

/-- Every earlier access of the thread is performed, to local memory and on the instruction path too, its tile requests are registered,
and no earlier GENBUMP of the ASID stands (R335, R382). (DEDUCED, log 48) -/
def Chip.genMay (c : Chip) (o : Op) (p : Nat) (asid : BitVec 16) : Bool :=
  !(c.earlier o).any (fun q => q.body.accesses || q.body.readsCode || (q.body.isTile && c.awaited q.id))
  && !c.ops.any fun q => match q.body with
    | .genbump x a _ _ => decide (q.id < o.id) && x == p && a == asid
    | _ => false

/-- A request of a unit of the partition to a peer is not answered. -/
def Chip.unitsAsk (c : Chip) (p : Nat) : Bool :=
  c.unitAsks.any fun e => match e.2 with
    | .status x => x.part == p
    | .slots q | .put q => q == p

/-- No access of core k that was translated under the older generation stands unperformed, a write that waits for a collapse among them,
nor one of the units that save and write
for the partition. (DEDUCED, log 48) -/
def Chip.genDrained (c : Chip) (p : Nat) (asid : BitVec 16) (k : Nat) : Bool :=
  !c.unitsAsk p && !c.ops.any fun q => q.part == p && q.asid == asid && coreOf q.tid == k && (q.asked || q.moving.isSome || !q.held.isEmpty)

/-- A core confirms the generation of a GENBUMP, which is applied before (R382). (DEDUCED, log 48) -/
def Chip.confirm (c : Chip) (id k : Nat) : Chip :=
  match c.op? id with
  | none => c
  | some o =>
    match o.body with
    | .genbump p asid _ _ =>
      let c := if !o.ready && c.genMay o p asid then c.applyGen o p asid else c
      match (c.op? id).map Op.body with
      | some (.genbump _ _ g waits) =>
        if waits.contains k && c.genDrained p asid k then
          (c.dropXlat p asid k).modOp id fun q => { q with body := .genbump p asid g (waits.filter (· != k)) }
        else c
      | _ => c
    | _ => c

/-- A GENBUMP that every core has confirmed returns its generation and acquires (R335, R382). -/
def Chip.doGenbump (c : Chip) (o : Op) (g : BitVec 32) (waits : List Nat) : Chip :=
  if o.ready && waits.isEmpty then (c.acquire (coreOf o.tid) .package).finish o (g.setWidth 64) 0 else c

/-- GEN_CONFIRM. -/
def execGenConfirm (id core : Nat) (s : State) := s.on fun c => c.confirm id core

/-! ### Quiescing (R337) -/

/-- A task of the partition runs; one whose save has begun does not (R337). (DEDUCED, log 17) -/
def Chip.partRuns (c : Chip) (p : Nat) : Bool :=
  c.threads.any fun e => e.2.live && e.2.part == p && e.2.graph != 0 && !e.2.isSaving

/-- PQUI. (DEDUCED, log 49) -/
def execPqui (sw : Bool) (d : Dest) (a b : Src) (s : State) :=
  s.issue fun c => c.issue { sw := sw, pair := [a, b], dest := d, push := true, level := .pkg } fun c =>
    let p := (c.src a).toNat
    if 19 < p ∨ (c.part p).state = .undefined then .done (c.emit d 2 0)
    else if (c.part p).state = .quiesced then .done (c.emit d 1 0)
    else
      let now := (c.part (c.thread c.cur).part).time
      let limit := if c.src b = 0 then none else some (BitVec.ofNat 64 (min (2 ^ 64 - 1) (now.toNat + (c.src b).toNat)))
      .done ((c.modPart p fun q => { q with state := .quiescing }).start { push := true, named := d, opA := c.src a, opB := c.src b }
        (.pqui p limit))

/-- PRES. (DEDUCED, log 49) -/
def execPres (sw : Bool) (d : Dest) (a : Src) (s : State) :=
  s.issue fun c => c.issue { sw := sw, pair := [a], dest := d, push := true, level := .pkg } fun c =>
    let p := (c.src a).toNat
    if 19 < p then .done (c.emit d 2 0)
    else match (c.part p).state with
    | .undefined => .done (c.emit d 2 0)
    | .running => .done (c.emit d 1 0)
    | _ => .done ((((c.modPart p fun q => { q with state := .running }).armLaunches p).emit d 0 0).fill p 0)

/-- The limit of a PQUI has passed. -/
def Chip.pastLimit (c : Chip) (o : Op) : Bool :=
  match o.body with
  | .pqui _ (some limit) => limit.ule (c.part o.part).time
  | _ => false

/-- A quiescing partition whose tasks have all ended is quiesced, and its PQUIs return 0, or 3 where their limit passed while tasks
ran: TIME takes no step before this (Chip.clock). (DEDUCED, log 49) -/
def Chip.quiesced (c : Chip) (p : Nat) : Chip :=
  if (c.part p).state != .quiescing || c.partRuns p then c
  else
    let c := c.modPart p fun q => { q with state := .quiesced }
    (c.ops.filter fun o => match o.body with
      | .pqui x _ => x == p
      | _ => false).foldl (fun c o => c.finish o (if c.pastLimit o then 3 else 0) 0) c

/-- Every partition that has drained is quiesced. -/
def Chip.quiescedAll (c : Chip) : Chip := (c.parts.map (·.1)).foldl Chip.quiesced c

/-- The limit of a PQUI passes. (DEDUCED, log 49) -/
def Chip.pquiLate (c : Chip) (id : Nat) : Chip :=
  match c.op? id with
  | none => c
  | some o =>
    match o.body with
    | .pqui p _ => if c.pastLimit o && c.partRuns p then c.finish o 3 0 else c
    | _ => c

/-- PARTITION_QUIESCED. -/
def execPartitionQuiesced (part : Nat) (s : State) := s.on fun c => c.quiesced part
/-- PQUI_TIMEOUT. -/
def execPquiTimeout (id : Nat) (s : State) := s.on fun c => c.pquiLate id

/-! ### CFLUSH and CELFL (R338, R339) -/

/-- CFLUSH needs no permission of a page but U at USER; where it has none, the request is dropped (R380). -/
def Chip.mayFlush (c : Chip) (t : Thread) (va : Nat) (e : Word) (level : Nat) : Bool :=
  match c.applyLeaf t.part t.level { r := false, w := false, x := false } (BitVec.ofNat 64 va) e level with
  | .ok .. => true
  | _ => false

/-- The line of a key lies in [a, a + n) of the ASID of thread t, on this device, where it may flush; faults aside. -/
def Chip.lineIn (c : Chip) (t : Thread) (ls : List (Nat × Nat × Word)) (a n : Nat) (line : Nat) : Bool :=
  ls.any fun (va, level, e) =>
    let key := memKey (fld e 10 2) (pteFrame e)
    let at_ := va + (64 * line - key)
    fld e 10 2 != 3 && !pteBad c.device level e && decide (key ≤ 64 * line) && decide (64 * line < key + 2 ^ pageBits level)
    && decide (at_ < a + n) && decide (a < at_ + 64) && c.mayFlush t at_ e level

/-- The lines of the range leave the issuing core's L1 and go back to their memory; every byte stands at its home already. -/
def Chip.flushLines (c : Chip) (a n : Nat) : Chip :=
  let t := c.thread c.cur
  let hit := c.lineIn t (c.leaves t.part t.asid) a n
  let c := c.modCore (coreOf c.cur) fun q => { q with l1 := q.l1.filter fun l => !hit l, stale := q.stale.filter fun e => !hit e.1 }
  { c with
    devLines := c.devLines.filter fun e => !hit e.1
    sent := c.sent ++ (c.devLines.filter fun e => hit e.1).map fun e => .d2h (if e.2 then .dirtyEvict else .cleanEvict) (e.1 - 2 ^ 46) }

/-- CFLUSH (R338): a NOP in a pure task. -/
def execCflush (sw : Bool) (a b : Src) (s : State) :=
  s.issue fun c => c.issue { sw := sw, pair := [a, b] } fun c =>
    let x := (c.src a).toNat
    let n := (c.src b).toNat
    if c.inPure then .done c
    else if 2 ^ 64 < x + n then .trap .illegalOperand 0
    else if n = 0 then .done c
    else
      let own := (c.ops.filter fun o => o.tid == c.cur && o.body.writes && o.body.touches.any fun r => meets r (c.src a, n)).map Op.id
      if own.isEmpty then .done (c.flushLines x n) else .hold (.gone own)

/-- CELFL (R339). -/
def execCelfl (sw : Bool) (s : State) :=
  s.issue fun c => c.issue { sw := sw, level := .sup } fun c => .done (c.flushCellar (c.thread c.cur).part)

/-! ### Read-duplicated pages and granules (R385, R386) -/

/-- A page is collapsed already. -/
def Chip.isCollapsed (c : Chip) (page : Nat) : Bool := c.collapsed.any fun e => e.1 == page

/-- The page of a piece that is read-duplicated and not collapsed. -/
def Chip.dupPage (c : Chip) : Piece → Option (Nat × Nat)
  | .here _ (some page) => if c.isCollapsed page.1 then none else some page
  | _ => none

/-- The read-duplicated pages whose collapse a write of the operation waits for: the write stands at the writer (R385). -/
def Chip.dupWaits (c : Chip) (o : Op) : List (Nat × Nat) :=
  (o.held.filterMap fun e => e.2.2.bind fun page => if c.isCollapsed page.1 then none else some page) ++
  match o.moving with
  | some m => if m.wr then (match m.now with
      | some rs => m.piecesOf rs
      | none => m.ps).filterMap c.dupPage else []
  | none => []

/-- The first write to a read-duplicated page collapses it; die is the writer's, where the page is then homed. The count rises in
the partition of the first write of that die that waits for it (R385). -/
def Chip.collapse (c : Chip) (page die : Nat) : Chip :=
  match c.ops.findSome? fun o => if dieOf (coreOf o.tid) = die then ((c.dupWaits o).find? fun x => x.1 == page).map fun x => (o.part, x.2) else none with
  | none => c
  | some (p, size) =>
    Chip.modPart { c with collapsed := (page, die, size) :: c.collapsed } p fun q => { q with dupCollapse := q.dupCollapse + 1 }

/-- DUP_COLLAPSE. -/
def execDupCollapse (page die : Nat) (s : State) := s.on fun c => c.collapse page die

/-- The private granules that an access in flight is about to reach from outside their core, or at their home (R386, R387).
(DEDUCED, log 53) -/
def Chip.outsideGranules (c : Chip) (o : Op) : List Nat :=
  let home := match o.body with
    | .atomic .. | .mwait .. => true
    | _ => false
  let vas := if o.fault.isSome then [] else match o.body with
    | .vec .. => []
    | b => b.touches.map (·.1)
  (vas.filterMap fun va => (c.peek o va).bind fun x => match Table.get? c.granules (x.2.2 / 65536) with
    | some (.priv k) => if decide (x.1 < 2) && (k != coreOf o.tid || home) then some (x.2.2 / 65536) else none
    | _ => none).dedup

/-- GRANULE_RECALL. (DEDUCED, log 53) -/
def execGranuleRecall (granule : Nat) (s : State) := s.on fun c => c.recall granule

end Sys2Proof.Machine
end

