-- ==== Sys2Proof/Machine/Ports.lean ====
section
/-!
DEFINITION. The world outside: hosts and virtual functions, CXL ports, Foldemund links, time, power, boot and evidence:
R102, R115, R361, R388 to R392, R403 to R419.
-/

namespace Sys2Proof.Machine

/-! ### Virtual functions (R403 to R405, R414) -/

/-- A virtual function changed, if it is bound; else the write is dropped (R403). -/
def Chip.modVf (c : Chip) (vf : Nat) (f : VirtFn → VirtFn) : Chip :=
  match Table.get? c.vfs vf with
  | some x => if x.bound.isSome then { c with vfs := Table.put c.vfs vf (f x) } else c
  | none => c

/-- A host write of PUB: a tile store of the LTILE bytes into the launch space (R405). -/
def Chip.pub (c : Chip) (vf : Nat) (v : Word) : Chip :=
  match Table.get? c.vfs vf with
  | none => c
  | some x =>
    match x.bound with
    | none => c
    | some (p, asid) =>
      if x.busy || fld v 4 12 != 0 || fld v 32 32 != 0 then c.modVf vf fun x => { x with stat := 3 }
      else
        let r : Req := { id := c.nextId, part := p, space := 255, index := fld v 0 4, version := v.extractLsb' 16 16,
                         header := launchHeader, body := .store 1 (x.ltile.bytes 0 512), origin := .vf vf, tid := 2 ^ 20 + vf,
                         graph := 0, asid := asid, phase := .travelling, counted := false, target := 0 }
        Chip.modVf { c with reqs := c.reqs ++ [r], nextId := c.nextId + 1 } vf fun x => { x with busy := true }

/-- The LTILE bytes that the host wrote. -/
def VirtFn.write (x : VirtFn) (ws : List (Nat × Byte)) : VirtFn :=
  { x with ltile := x.ltile.setAt (ws.map (·.1)) (ws.map (·.2)) }

/-- PUB. -/
def execPub (vf : Nat) (v : Word) (ltile : List (Nat × Byte)) (s : State) :=
  s.on fun c => (c.modVf vf fun x => x.write ltile).pub vf v

/-- A word of the register block of a virtual function, as the host reads it (R403, R404): zero where it is not bound. -/
def Chip.vfWord (c : Chip) (vf off : Nat) : Word :=
  match (Table.get? c.vfs vf).bind fun x => x.bound.map fun b => (x, b) with
  | none => 0
  | some (x, p, asid) =>
    if off = 0 then fields [(vf, 0), (p, 8), (asid.toNat, 16)]
    else if off = 8 then x.ltol.setWidth 64
    else if off = 0x18 then fields [(x.stat, 0), (if x.busy then 1 else 0, 63)]
    else if 0x1000 ≤ off ∧ off < 0x1200 then x.ltile.word (off - 0x1000)
    else 0

/-- The host reads a word of a register block. -/
def Chip.vfRead (c : Chip) (vf off : Nat) : Chip := { c with sent := c.sent ++ [.vfData vf off (c.vfWord vf off)] }

/-- VF_LTOL_WRITE. -/
def execVfLtolWrite (vf : Nat) (v : Word) (s : State) := s.on fun c => c.modVf vf fun x => { x with ltol := v.extractLsb' 0 32 }

/-! ### The host port (R389, R390, R392) -/

/-- The line of Chip.mem that holds a line of host memory. -/
def hostLine (line : Nat) : Nat := 2 ^ 46 + line

/-- The bytes of a line. -/
def lineKeys (line : Nat) : List Nat := (List.range 64).map (64 * line + ·)

/-- The home answers a snoop of the host, with the line's data where it owns the line; else the host's memory is current (R389).
(DEDUCED, log 9) -/
def Chip.snoopAnswer (c : Chip) (line : Nat) : Chip :=
  let data := if Table.get? c.devLines (hostLine line) = some true then some (c.mem.bytes (64 * hostLine line) 64) else none
  { c with sent := c.sent ++ [.snpRsp line data] }

/-- The host port takes CXL.cache and CXL.mem traffic once package firmware has opened it; before, and in recovery, it is CXL.io alone
(R417). -/
def State.onHostPort (s : State) (f : Chip → Chip) : Host.Outcome State Fault Refusal := s.on fun c => if s.trust.cxlOpen then f c else c

/-- SNP_DATA: the L1 copies are recalled, the line goes to the host, and the device keeps it clean. -/
def execSnpData (line : Nat) (s : State) :=
  s.onHostPort fun c => match Table.get? c.devLines (hostLine line) with
    | some _ => { (c.recallLine (hostLine line)).snoopAnswer line with devLines := Table.put c.devLines (hostLine line) false }
    | none => c.snoopAnswer line

/-- SNP_INV: the L1 copies are recalled, and the line leaves the device for the host. (DEDUCED, log 9) -/
def execSnpInv (line : Nat) (s : State) :=
  s.onHostPort fun c => { (c.recallLine (hostLine line)).snoopAnswer line with devLines := Table.erase c.devLines (hostLine line) }

/-- SNP_CUR: the current data goes to the host, and nothing else changes. -/
def execSnpCur (line : Nat) (s : State) := s.onHostPort fun c => c.snoopAnswer line

/-- A committed decoder covers a line of HBM of a live die (R12). (DESIGN CHOICE, log 40) -/
def Chip.exposed (c : Chip) (line : Nat) : Bool :=
  c.liveDies.getLsbD (dieOfHbm (64 * line)) &&
  c.decoders.any fun e => decide (e.2.base ≤ 64 * line) && decide (64 * line < e.2.base + e.2.size)

/-- The page read-duplicated in some table of this package that holds a byte, and its size, with its partition (R385). -/
def Chip.dupFrame (c : Chip) (key : Nat) : Option (Nat × Nat × Nat) :=
  c.parts.findSome? fun q => q.2.asids.findSome? fun a => (c.leaves q.1 (BitVec.ofNat 16 a.1)).findSome? fun x =>
    let f := memKey (fld x.2.2 10 2) (pteFrame x.2.2)
    if x.2.2.getLsbD 9 && decide (f ≤ key) && decide (key < f + 2 ^ pageBits x.2.1) then some (q.1, pteFrame x.2.2, 2 ^ pageBits x.2.1) else none

/-- A write from outside the package at its home, for which a read-duplicated page collapses first, to its home die (R385). -/
def Chip.performOutside (c : Chip) (a : Agent) (keys : List Nat) (bs : List Byte) : Chip :=
  (match keys.head?.bind c.dupFrame with
    | some (p, page) => c.collapseFor p (dieOfHbm page.1) (some page)
    | none => c).perform a keys bs

/-- What becomes of a request from outside: done, or it comes up again later; or it stands at its home and is looked at again. -/
inductive Peer
  | done (c : Chip)
  | wait (c : Chip)
  | stand (c : Chip)

/-- The flits of one class from one device, which arrive in the order sent (R410). (DEDUCED, log 39) -/
def Input.stream : Input → Option (BitVec 12 × Nat)
  | .linkReq src .. => some (src, 0)
  | .linkAtom src .. => some (src, 3)
  | .linkFence src .. => some (src, 4)
  | .linkMgmt src _ => some (src, 5)
  | _ => none

/-- The happening is done, or comes up again later and keeps its place before the later flits of its class and device (R410).
(DEDUCED, log 39) -/
def State.peer (s : State) (again : Input) (r : Peer) : Host.Outcome State Fault Refusal :=
  let behind := fun (x : Input) => again.stream.isSome && x.stream == again.stream
  match r with
  | .done c => .next { s with chip := c }
  | .wait c => .next { s with chip := c, inputs := (s.inputs.filter fun x => !behind x) ++ again :: s.inputs.filter behind }
  | .stand c => .next { s with chip := c, inputs := s.inputs ++ [again] }

/-- The home of a line that lies in channels of a defined partition. -/
def Chip.hostSlice (c : Chip) (line : Nat) : Nat :=
  c.lineHome (((c.othersDefined []).find? fun p => (c.reach p 0 (64 * line)).isNone).getD 0) (64 * line)

/-- The oldest line of the slice's record that the home asks back to make room for another, if the record is full: how many lines
it holds is free (R390; DESIGN CHOICE, log 4). (DESIGN CHOICE, log 40) -/
def Chip.recordFull (c : Chip) (line : Nat) : Option Nat :=
  if Config.coin c.draws then c.hostOrder.find? fun l => l != line && c.hostSlice l == c.hostSlice line else none

/-- A read of the host brings the line's data, or that they are bad (R76, R390). -/
def Chip.hostRead (c : Chip) (line : Nat) : Chip :=
  let c := c.touch none (lineKeys line)
  { c with sent := c.sent ++ [.memData line (if c.poisoned (lineKeys line) then none else some (c.mem.bytes (64 * line) 64))] }

/-- A host request at the line's home; with keeps the host holds the line after it, exclusive or not (log 4). Units that waited for the
line go on. (DESIGN CHOICE, log 40) -/
def Chip.hostRequest (c : Chip) (line : Nat) (data : Option (List Byte)) (keeps : Bool) : Chip :=
  let c := match data with
    | some bs => c.performOutside .host (lineKeys line) (bs.take 64)
    | none => c.hostRead line
  let others := c.hostOrder.filter (· != line)
  let snooped := Table.erase c.snooped line
  Chip.unitsGo (if keeps then { c with hostLines := Table.put c.hostLines line (Config.coin c.draws), snooped := snooped
                                       hostOrder := if c.hostOrder.contains line then c.hostOrder else others ++ [line] }
    else { c with hostLines := Table.erase c.hostLines line, hostOrder := others, snooped := snooped })

/-- HOST_MEM_REQUEST: a read or a write at the line's home; one that a full record has no room for waits until the oldest line has come
back (R390). (DESIGN CHOICE, log 40) -/
def execHostMemRequest (line : Nat) (data : Option (List Byte)) (keeps : Bool) (s : State) :=
  let c := s.chip
  let next := fun (c : Chip) => { c with draws := c.draws + 1 }
  if !c.exposed line || !s.trust.cxlOpen then s.on id
  else match if keeps && !c.hostOrder.contains line then c.recordFull line else none with
    | some old => s.peer (.hostMem line data keeps) (.wait (next (c.snoop (lineKeys old) true)))
    | none => s.on fun c => next (c.hostRequest line data keeps)

/-- BIRSP: the host answers what the home asked, with its data if it held the line dirty: it gives the line up, or keeps a clean
copy where the home asked for the data alone (R390); units that waited for the line go on. (DESIGN CHOICE, log 40) -/
def execBirsp (line : Nat) (data : Option (List Byte)) (s : State) :=
  s.onHostPort fun c =>
    match Table.get? c.snooped line with
    | none => c
    | some inv =>
      let c := { c with
        snooped := Table.erase c.snooped line
        hostLines := if inv then Table.erase c.hostLines line else Table.put c.hostLines line false
        hostOrder := if inv then c.hostOrder.filter (· != line) else c.hostOrder }
      (match data with
        | some bs => c.performOutside .host (lineKeys line) (bs.take 64)
        | none => c).unitsGo

/-- Every frame of a range lies in channels of one defined partition, on live dies (R12, R390). (DESIGN CHOICE, log 6) -/
def Chip.oneOwner (c : Chip) (base size : Nat) : Bool :=
  (c.othersDefined []).any fun p =>
    let l := (c.part p).layout
    (List.range (size / 65536)).all fun i =>
      let pa := base + 65536 * i
      c.liveDies.getLsbD (dieOfHbm pa) && l.il.getLsbD (dieOfHbm pa) && l.il.getLsbD (24 + Config.channelOf pa % 32)

/-- HDM_DECODER_COMMIT. -/
def execHdmDecoderCommit (dec base size : Nat) (s : State) :=
  s.on fun c =>
    if decide (3 < dec) || base % 2 ^ 28 != 0 || size % 2 ^ 28 != 0 || size == 0 || decide (12 * stackBytes < base + size)
        || !c.oneOwner base size then c
    else { c with decoders := Table.put c.decoders dec { base := base, size := size } }

/-- CXL_LINK_DOWN: port 0 is the host port, 1 and 2 are the expansion ports. -/
def execCxlLinkDown (port : Nat) (s : State) :=
  s.on fun c => if h : port < 3 then { c with portUp := c.portUp.set port false } else c

/-! ### Requests from peers (R81, R102, R361, R398) -/

/-- A peer's request is refused. (DEDUCED, log 39) -/
def Chip.denyPeer (c : Chip) (src : Nat) (tag : Nat) (cause : Cause) : Chip :=
  { c with sent := c.sent ++ [.rsp src tag (.refused cause)] }

/-- A peer's request is answered. -/
def Chip.replyPeer (c : Chip) (src : Nat) (tag : Nat) (r : LinkRsp) : Chip := { c with sent := c.sent ++ [.rsp src tag r] }

/-- The memory class of an address of this device that a peer names. (DESIGN CHOICE, log 38) -/
def classOfPa (pa : Nat) : Nat := if pa < 12 * stackBytes then 0 else 1

/-- Access n bytes at an address for a partition, as the owning device (R361, R387). (DESIGN CHOICE, log 38) (DEDUCED, log 39) -/
def Chip.peerAccess (c : Chip) (src p tag pa n : Nat) (dirtyOnly reads : Bool) (k : Chip → List Nat → Chip) : Peer :=
  let cls := classOfPa pa
  let keys := (List.range n).map (pa + ·)
  if (c.part p).state = .undefined || !(c.part p).layout.nb.getLsbD 8 then .done (c.denyPeer src tag .linkLost)
  else if !frameInRange cls pa 0 then .done (c.denyPeer src tag .protection)
  else match c.reach p cls pa with
  | some cause => .done (c.denyPeer src tag cause)
  | none =>
    if reads && c.poisoned keys then .done (c.denyPeer src tag .memUncorrectable)
    else if c.hostHolds keys dirtyOnly then .wait (c.snoop keys !dirtyOnly)
    else .done (k ((c.fetchHost keys).touch none keys) keys)

/-- The request of a peer that stands at its home under this tag. -/
def Chip.peerReq? (c : Chip) (src tag : Nat) : Option Req := c.reqs.find? fun r => r.origin == .peer src tag

/-- The bytes of a peer's TIMP arrive at its reserved version: the store goes on for room, or once it has its head (R134).
(DEDUCED, log 39) -/
def Chip.peerGathered (c : Chip) (r : Req) (body : TileBody) : Chip :=
  let q := { r with body := body }
  let c := c.modReq r.id fun _ => q
  match r.phase, (c.space? r.part r.space).filter fun s => s.home != 2 with
  | .gathering, some s => c.homePlace s q
  | _, _ => c

/-- A tile request of a peer, at its home (R102): it registers, behind those of its device to the name that have come before; a digest
waits for the sweep of its slice first (R20, R295, R410). (DESIGN CHOICE, log 38) (DEDUCED, log 39) -/
def Chip.peerTile (c : Chip) (src p tag : Nat) (h : Word) (body : TileBody) : Peer :=
  if (c.part p).state = .undefined then .done (c.denyPeer src tag .spaceUndef)
  else if !(c.part p).layout.nb.getLsbD 8 then .done (c.denyPeer src tag .linkLost)
  else
    let g := match body with
      | .talias x _ => x
      | _ => h
    let r : Req := { id := c.nextId, part := p, space := hSpace g, index := hIndex g, version := hVersion g, header := hHeader g,
                     body := body, origin := .peer src tag, tid := 2 ^ 21 + src, graph := 0, asid := 0, phase := .travelling,
                     counted := false, target := h }
    match c.peerReq? src tag, body with
    | some q, .store .. => .done (c.peerGathered q body)
    | _, .aliasOf .. => .done (c.denyPeer src tag .illegalOperand)
    | _, _ => .done (Chip.register { c with reqs := c.reqs ++ [r], nextId := c.nextId + 1 } r.id fun _ => true)

/-- A REQ flit (R102, R361). A watch answers once the value is at least the bound (R87). (DESIGN CHOICE, log 38) -/
def Chip.peerReq (c : Chip) (src p tag : Nat) (body : LinkReq) : Peer :=
  match body with
  | .tile h b => c.peerTile src p tag h b
  | .leave => .done (match c.peerReq? src tag with
    | some r => c.leaveReq r
    | none => c)
  | .read pa n => c.peerAccess src p tag pa n true true fun c keys => c.replyPeer src tag (.data (keys.map c.mem.byte))
  | .write pa bs => c.peerAccess src p tag pa bs.length false false fun c keys =>
      (c.performOutside (.peer src) keys bs).replyPeer src tag .done
  | .watch pa bound =>
    match c.peerAccess src p tag pa 8 true true fun c _ => c with
    | .done c' =>
      if c'.sent.length != c.sent.length then .done c'
      else
        let bs := c'.mem.bytes pa 8
        if (wordOfBytes64 bs).slt bound then .stand c' else .done (c'.replyPeer src tag (.data bs))
    | .wait c' | .stand c' => .stand c'

/-- An ATOM flit: performed at the home (R81); a CAS whose compare fails writes nothing (R80). -/
def Chip.peerAtom (c : Chip) (src p tag : Nat) (a : LinkAtom) : Peer :=
  let n := a.width.bytes
  c.peerAccess src p tag a.pa n false true fun c keys =>
    let old := keys.map c.mem.byte
    (if a.op.writes n old a.expected then c.performOutside (.peer src) keys (a.op.newBytes n old a.operand a.expected) else c).replyPeer src tag (.data old)

/-- LINK_REQ_RECEIVE. -/
def execLinkReqReceive (src : BitVec 12) (part tag : Nat) (body : LinkReq) (s : State) :=
  s.peer (.linkReq src part tag body) (s.chip.peerReq src.toNat part tag body)

/-- LINK_ATOM_RECEIVE. -/
def execLinkAtomReceive (src : BitVec 12) (part tag : Nat) (body : LinkAtom) (s : State) :=
  s.peer (.linkAtom src part tag body) (s.chip.peerAtom src.toNat part tag body)

/-- A happening is an access of this peer that has not been performed. -/
def Input.peerAccessOf (src : BitVec 12) : Input → Bool
  | .linkReq s .. | .linkAtom s .. => s == src
  | _ => false

/-- LINK_FENCE_RECEIVE: it is answered once every access of the peer that arrived before is performed (R361), and refused for a
partition that takes no traffic of peers (R398). (DEDUCED, log 39) -/
def execLinkFenceReceive (src : BitVec 12) (part tag : Nat) (s : State) :=
  s.peer (.linkFence src part tag)
    (if !(s.chip.part part).layout.nb.getLsbD 8 then .done (s.chip.denyPeer src.toNat tag .linkLost)
    else if s.inputs.any (Input.peerAccessOf src) then .wait s.chip else .done (s.chip.replyPeer src.toNat tag .done))

/-! ### Answers from peers (R102, R115) -/

end Sys2Proof.Machine

namespace Sys2Proof
open Machine

/-- The body asks for a word that the home computes. -/
def TileBody.asksWord : TileBody → Bool
  | .change .. | .probe | .look (.digest _) | .look .info => true
  | _ => false

/-- The body asks for bytes. -/
def TileBody.asksBytes : TileBody → Bool
  | .load _ | .look .bytes => true
  | _ => false

end Sys2Proof

namespace Sys2Proof.Machine

/-- A tile request answered from its remote home: registered there, refused or served; a TIMP gathers its bytes once the home has
reserved its version (R20, R134). (DESIGN CHOICE, log 22) -/
def Chip.tileAnswer (c : Chip) (r : Req) (body : LinkRsp) : Chip :=
  match body with
  | .done => if r.phase = .away then c.modReq r.id fun q => { q with phase := .remote } else c
  | .begin => match r.body with
    | .gather _ => c.modReq r.id fun q => { q with phase := .gathering }
    | _ => c
  | .refused cause => c.refuseReq r cause
  | .served v bs =>
    if r.body.asksBytes then
      let x : Extent := { bytes := bs, gran := 0, refs := 1, back := 0, slice := 0, frame := 0, bad := false }
      Chip.modReq { c with extents := Table.put c.extents c.nextId x, nextId := c.nextId + 1 } r.id
        fun q => { q with phase := .served c.nextId }
    else if r.body == .look .key then c.takeDigest r (BitVec.ofNat 128 (natOfBytes bs))
    else c.answer r (match r.origin with
      | .op id => if r.body.asksWord then v else ((c.op? id).map Op.result).getD v
      | _ => v)
  | _ => c

/-- An operation's request to a peer is answered. -/
def Chip.opAnswer (c : Chip) (o : Op) (i : Nat) (body : LinkRsp) : Chip :=
  let put := fun (bs : List Byte) => c.modOp o.id fun q => { q with replies := Table.put q.replies i bs }
  match body with
  | .data bs => put bs
  | .done => put []
  | .refused cause => match o.body with
    | .pgdone .. => c.finish o 2 0
    | b => c.refuse o cause ((b.touches.map (·.1)).headD o.opA) b.token
  | .served .. | .begin => c

/-- The request is with a home on another package. -/
def Req.abroad (r : Req) : Bool := r.phase == .away || r.phase == .remote || (r.phase == .gathering && r.sentTo.isSome)

/-- A unit's request to a peer is answered (R265, R266). (DESIGN CHOICE, log 16) -/
def Chip.unitAnswer (c : Chip) (id : Nat) (ask : UnitAsk) (body : LinkRsp) : Chip :=
  let c := { c with unitAsks := Table.erase c.unitAsks id }
  match ask, body with
  | .status x, .refused cause => c.dropStatus x cause
  | .slots p, .data bs => c.armSlots p bs
  | _, _ => c

/-- A flit brings the answer to a request of this package: a tile request, an operation or a unit. -/
def Chip.linkAnswer (c : Chip) (tag : Nat) (body : LinkRsp) : Chip :=
  let id := tag / 8192
  if tag % 8192 = 8191 then
    match c.req? id with
    | some r => if r.abroad then c.tileAnswer r body else c
    | none => c
  else match c.op? id, Table.get? c.unitAsks id with
    | some o, _ => if o.asked && (Table.get? o.replies (tag % 8192)).isNone then c.opAnswer o (tag % 8192) body else c
    | none, some x => c.unitAnswer id x body
    | none, none => c

/-- LINK_RSP_RECEIVE. -/
def execLinkRspReceive (tag : Nat) (body : LinkRsp) (s : State) := s.on fun c => c.linkAnswer tag body
/-- ARRIVAL_NOTICE. -/
def execArrivalNotice (tag : Nat) (body : LinkRsp) (s : State) := s.on fun c => c.linkAnswer tag body

/-! ### Links (R408, R411, R412) -/

/-- A link changed. -/
def Chip.modLink (c : Chip) (k : Nat) (f : Link → Link) : Chip :=
  { c with links := Table.put c.links k (f ((Table.get? c.links k).getD .empty)) }

/-- No link reaches the device any more. -/
def Chip.lost (c before : Chip) (dev : Nat) : Bool := before.linksUp dev && !c.linksUp dev

/-- Flits of a request had not been acknowledged when the last link to its device went down, which is not known here (R411; DESIGN
CHOICE, log 4); then the request is LINK_LOST. (DEDUCED, log 39) -/
def Chip.unlessAcked (c : Chip) (f : Chip → Chip) : Chip :=
  let c' := { c with draws := c.draws + 1 }
  if Config.coin c.draws then f c' else c'

/-- The device of a unit's request. -/
def Chip.unitDevice (c : Chip) (id : Nat) : Option Nat :=
  c.sent.reverse.findSome? fun m => match m with
    | .req d _ tag _ | .atom d _ tag _ => if tag = tagOf id 0 then some d else none
    | _ => none

/-- The first request of an operation that a lost device has not answered. -/
def Chip.lostRequest (c before : Chip) (o : Op) : Option Nat :=
  if o.asked then (o.peers.find? fun e => (Table.get? o.replies e.1).isNone && c.lost before e.2).map (·.1) else none

/-- A tile request of which a flit may be on its way to a lost device: it is not reported as registered, or its bytes have followed. -/
def Chip.lostTile (c before : Chip) (r : Req) : Bool :=
  r.sentTo.any (fun d => c.lost before d.1) && (r.phase == .away || (r.phase == .remote && (c.op? r.id).any fun o => match o.body with
    | .gather .. => true
    | _ => false))

/-- A load of which the home stands on a lost device: its answer cannot come (R118). (DESIGN CHOICE, log 94) -/
def Chip.lostLoad (c before : Chip) (r : Req) : Bool :=
  r.sentTo.any (fun d => c.lost before d.1) && r.phase == .remote && r.body.isLoad

/-- Devices that no link reaches any more: of the requests to them those with a flit that was not acknowledged are LINK_LOST, as is every
load registered there (R118), and the graphs of threads whose hearth such a device is end so (R307, R411). (DEDUCED, log 39) (DESIGN CHOICE, log 94) -/
def Chip.cutOff (c before : Chip) : Chip :=
  let c := (c.reqs.filter (c.lostTile before)).foldl (fun c r => c.unlessAcked fun c => c.refuseReq r .linkLost) c
  let c := (c.reqs.filter (c.lostLoad before)).foldl (fun c r => c.refuseReq r .linkLost) c
  let c := (c.unitAsks.filter fun e => (c.unitDevice e.1).any (c.lost before)).foldl
    (fun c e => c.unlessAcked fun c => c.unitAnswer e.1 e.2 (.refused .linkLost)) c
  let c := c.ops.foldl (fun c o => match c.lostRequest before o with
    | some i => c.unlessAcked fun c => c.opAnswer o i (.refused .linkLost)
    | none => c) c
  (c.threads.filter fun e => e.2.live && remoteHearth (c.part e.2.part).hearth && c.lost before (fld (c.part e.2.part).hearth 0 12)).foldl
    (fun c e => match e.2.posted with
      | some r => c.trapEnds e.1 r .linkLost true
      | none => c) c

/-- LINK_DOWN: its paths are hashed anew over the links that are left, and what was sent on it and not acknowledged is sent on
them (R411). (DESIGN CHOICE, log 41) -/
def execLinkDown (link : Nat) (s : State) := s.on fun c => (c.modLink link fun l => { l with up := false }).cutOff c

/-- LANE_FAILURE: the next narrower width, or down below 2 lanes. (DESIGN CHOICE, log 41) -/
def execLaneFailure (link : Nat) (s : State) :=
  s.on fun c => (c.modLink link fun l => if l.lanes ≤ 2 then { l with up := false }
    else { l with lanes := if l.lanes = 8 then 4 else 2, retrains := l.retrains + 1 }).cutOff c

/-- A frequency change retrains the link (R412). (DESIGN CHOICE, log 41) -/
def Link.setFreq (l : Link) (freq cycle : Nat) : Link :=
  if l.up then { l with freq := freq, retrains := l.retrains + 1, freqAt := some cycle } else l

/-- A width request retrains the link; one that came in the cycle of a frequency change only if it holds at the new frequency (R412;
DESIGN CHOICE, log 41). -/
def Link.setWidth (l : Link) (link lanes cycle : Nat) : Link :=
  if l.up && (lanes == 8 || lanes == 4 || lanes == 2) && (l.freqAt != some cycle || Config.widthHolds link lanes l.freq) then
    { l with lanes := lanes, retrains := l.retrains + 1 }
  else l

/-- A frequency change of this link in this cycle. -/
def Input.freqOf (link cycle : Nat) : Input → Option Nat
  | .freqChange k f n => if k = link ∧ n = cycle then some f else none
  | _ => none

/-- LINK_WIDTH_REQUEST: the arbiter takes the frequency changes of its cycle first (R412). (DESIGN CHOICE, log 41) -/
def execLinkWidthRequest (link lanes cycle : Nat) (s : State) : Host.Outcome State Fault Refusal :=
  let first := s.inputs.filterMap (Input.freqOf link cycle)
  .next { s with
    chip := s.chip.modLink link fun l => (first.foldl (fun l f => l.setFreq f cycle) l).setWidth link lanes cycle
    inputs := s.inputs.filter fun x => (x.freqOf link cycle).isNone }

/-- LINK_FREQ_CHANGE. (DESIGN CHOICE, log 41) -/
def execLinkFreqChange (link : Nat) (change : FreqChange) (s : State) :=
  s.on fun c => c.modLink link fun l => l.setFreq change.freq change.cycle

/-! ### Time (R413) -/

/-- STEP in ns. (DESIGN CHOICE, log 42) -/
def stepNs (w : Word) : Nat := 1000 * max 1 (fld w 32 16)

/-- A sample of the source: a step, or an offset to be slewed; a free-running clock takes none. (DESIGN CHOICE, log 42) -/
def Chip.timeSample (c : Chip) (p : Nat) (sample : Word) : Chip :=
  if fld (c.part p).ptpctl 0 2 = 0 then c
  else
  let c := c.quiescedAll
  let q := c.part p
  let off : Int := (sample.toNat : Int) - q.time.toNat
  if stepNs q.ptpctl < off.natAbs then c.modPart p fun q => { q with time := sample, slew := 0, ptpLock := true }
  else c.modPart p fun q => { q with slew := off, ptpLock := decide (off.natAbs ≤ 100) }

/-- PTP_UPDATE: a sample of X0's input or of the host. -/
def execPtpUpdate (part : Nat) (sample : Word) (s : State) :=
  s.on fun c => if fld (c.part part).ptpctl 0 2 = 3 then c else c.timeSample part sample

/-! ### Evidence and firmware (R418, R419) -/

/-- A measurement register extended with data. (PRESUMED, log 74) -/
def extendMeas (m : BitVec 512) (data : List Byte) : BitVec 512 :=
  BitVec.ofNat 512 (natOfBytes (sha512 (bytesOfNat 64 m.toNat ++ sha512 data)))

/-- MEAS k extended; only MEAS0 to MEAS4 are. -/
def Trust.extend (t : Trust) (k : Fin 5) (data : List Byte) : Trust :=
  let i : Fin 8 := k.castLE (by omega)
  { t with meas := t.meas.set i (extendMeas t.meas[i] data) }

/-- The evidence body. -/
def State.evidenceBody (s : State) (nonce : BitVec 256) (mask : BitVec 8) : List Byte :=
  bytesOfNat 8 (1 + 2 ^ 16 * s.chip.device.toNat) ++ bytesOfNat 8 (s.chip.part 0).time.toNat ++ bytesOfNat 32 nonce.toNat ++
  bytesOfNat 8 mask.toNat ++
  (s.trust.meas.toList.zipIdx.filter fun e => mask.getLsbD e.2).flatMap fun e => bytesOfNat 64 e.1.toNat

/-- The body with both signatures, of 64 and 3,309 bytes, by keys that MEAS0 and MEAS1 determine. (DESIGN CHOICE, log 8) -/
def State.signed (s : State) (body : List Byte) : List Byte :=
  let id := (s.trust.meas.toList.take 2).flatMap fun m => bytesOfNat 64 m.toNat
  body ++ bytesOfNat 64 (Config.ed25519Sign id body).toNat ++ bytesOfNat 3309 (Config.mldsaSign id body).toNat

/-- Evidence is given by running firmware, in the mailbox of the PF. -/
def State.giveEvidence (s : State) (nonce : BitVec 256) (mask : BitVec 8) : State :=
  if s.trust.recovery then s
  else { s with trust := { s.trust with evidence := s.trust.evidence ++ [s.signed (s.evidenceBody nonce mask)] } }

/-- EVIDENCE_REQUEST. (DEDUCED, log 43) -/
def execEvidenceRequest (nonce : BitVec 256) (mask : BitVec 8) (s : State) : Host.Outcome State Fault Refusal :=
  .next (s.giveEvidence nonce mask)

/-- FIRMWARE_STAGE: it takes effect at the next package reset. -/
def execFirmwareStage (image : List Byte) (s : State) : Host.Outcome State Fault Refusal :=
  .next { s with trust := { s.trust with staged := some image } }

/-! ### Management messages (R307, R413, R419) -/

/-- The defined partition that a core belongs to. -/
def Chip.ownerOf (c : Chip) (k : Nat) : Option Nat :=
  (c.othersDefined []).find? fun p => (c.partCores p).contains k

/-- A trap record of a peer joins the queue of the partition of its core (R307, R308); one that no queue can take is answered
with its own cause (R311). (DEDUCED, log 54) -/
def Chip.peerTrap (c : Chip) (core : Nat) (asid : BitVec 16) (ws : List Word) : Peer :=
  let q : QueuedTrap := { tid := fld (ws.headD 0) 32 32, seq := 0, own := fld (ws.getD 3 0) 32 32, asid := asid,
                          cause := fld (ws.headD 0) 0 8, task := (ws.getD 1 0).toNat, core := core, words := ws }
  match c.ownerOf core with
  | none => .done (c.sendAnswer q 2 none)
  | some p =>
    if !c.areaOk p then .done (c.sendAnswer q 2 none)
    else if 256 ≤ c.queueUsed p then .wait c
    else .done (c.queueTrap p core q.tid asid ws)

/-- A peer's answer to a record that this package posted (R309 to R311): it ends the graph with the cause that it names, or with
the trap's own. (DEDUCED, log 54) -/
def Chip.trapAnswer (c : Chip) (tid seq task action : Nat) (cause : Option Cause) : Chip :=
  match c.localTid tid with
  | none => c
  | some t =>
    if !c.awaits t seq task then c
    else match if action ≥ 2 then cause else none, (c.thread t).posted with
      | some x, some r => c.trapEnds t r x true
      | _, _ => c.answerTrap t action

/-- LINK_MGMT_RECEIVE. -/
def execLinkMgmtReceive (src : BitVec 12) (body : LinkMgmt) (s : State) : Host.Outcome State Fault Refusal :=
  match body with
  | .trapRecord core asid record => s.peer (.linkMgmt src body) (s.chip.peerTrap core asid record)
  | .trapAnswer thread seq task action cause => s.on fun c => c.trapAnswer thread seq task action cause
  | .time part sample =>
    s.on fun c => let w := (c.part part).ptpctl
      if fld w 0 2 = 3 ∧ fld w 2 12 = src.toNat then c.timeSample part sample else c
  | .evidence nonce mask =>
    if s.trust.recovery then .next s
    else
      let e := s.signed (s.evidenceBody nonce mask)
      .next { s with chip := { s.chip with sent := s.chip.sent ++ [.evidence src.toNat e] } }

/-! ### Power (R414, R415) -/

/-- The latency tolerance of a partition: the least of its LTOL and that of each bound VF. -/
def Chip.tolerance (c : Chip) (p : Nat) : Nat :=
  ((c.vfsOf p).map fun v => ((Table.get? c.vfs v).map fun x => x.ltol.toNat).getD 0).foldl min (c.part p).ltol.toNat

/-- Partitions with groups or slices on a die. -/
def Chip.partsOnDie (c : Chip) (d : Nat) : List Nat :=
  (c.othersDefined []).filter fun p => (c.part p).layout.il.getLsbD d
    || (List.range 28).any fun g => (c.part p).layout.groups.getLsbD g && dieOf (firstCoreOfGroup g) == d

/-- ns until the next start of a slot of a partition; none without one. -/
def Chip.nextStart (c : Chip) (p : Nat) : Option Nat :=
  let q := c.part p
  if !q.slottab.getLsbD 0 then none
  else ((q.tslots.filter fun e => e.2.armed && (e.2.period != 0 || e.2.nextK == 0)).map fun e =>
    e.2.start.toNat + e.2.nextK * e.2.period.toNat - q.time.toNat).min?

/-- A launch version that has not been taken up stands at a slice of the die: the next of its name, or a later one. (DEDUCED, log 45) -/
def Chip.launchPending (c : Chip) (d : Nat) : Bool :=
  (c.reqs.any fun r => r.origin == .launch && !r.standing && c.sliceOf r.part 255 r.index / 16 == d) || c.entries.any fun e => e.space == 255 && decide (e.index < 16) && e.state == .published && c.sliceOf e.part 255 e.index / 16 == d
    && decide ((e.version - BitVec.ofNat 16 ((Table.get? (c.part e.part).launch e.index).getD 0)).toNat < 2 ^ 15)

/-- A record waits for a die: for its pool's, and a gang's for a die with a core that its placement allows. (DEDUCED, log 45) -/
def Chip.waitsFor (c : Chip) (r : Record) (d : Nat) : Bool :=
  match r.pool with
  | .deque k => dieOf k == d
  | .die e => e == d
  | .gang _ => (c.partCores r.part).any fun k => dieOf k == d && c.eligible r.part r.place r.saved.isSome k
  | .blocked => false

/-- Nothing keeps a die from sleeping. (DEDUCED, log 45) -/
def Chip.dieIdle (c : Chip) (d : Nat) : Bool :=
  !(c.threads.any fun e => e.2.live && dieOf (coreOf e.1) == d) && !(c.records.any fun r => c.waitsFor r d) && !c.launchPending d

/-- Typical exits of C1 to C4 in ns. (DEDUCED, log 45) -/
def stateExits : List Nat := [300, 10000, 150000, 2500000]

/-- The deepest state that a die may enter; 0 for none. (DEDUCED, log 45) (DESIGN CHOICE, log 83) -/
def Chip.deepest (c : Chip) (d : Nat) : Nat :=
  let ps := c.partsOnDie d
  (stateExits.filter fun x => ps.all fun p => (decide (x ≤ c.tolerance p) || c.tolerance p == 0xFFFFFFFF)
    && match c.nextStart p with
      | some n => decide (x ≤ n)
      | none => true).length

/-- DIE_STATE_ENTRY: a die that is not live, which stays at 0 after boot, enters the states as an idle live die does (R12; DESIGN CHOICE,
log 83). (DEDUCED, log 45) -/
def execDieStateEntry (die : Nat) (s : State) :=
  s.on fun c => if h : die < 8 then
      if c.dieIdle die then { c with dieState := c.dieState.set die (max c.dieState[die] (c.deepest die)) } else c
    else c

/-- DIE_WAKE. (DEDUCED, log 45) -/
def execDieWake (die : Nat) (s : State) := s.on fun c => if h : die < 8 then { c with dieState := c.dieState.set die 0 } else c

/-! ### Package reset (R12, R399, R417, R418) -/

/-- A thread of the supervisor, as package firmware starts it. (DESIGN CHOICE, log 10) (DEDUCED, log 17) (DESIGN CHOICE, log 44)
(DESIGN CHOICE, log 55) -/
def bootThread (x : PartSpec) (tick : Nat) : Thread := { Thread.empty with
  live := true, part := x.id, level := .sup, asid := x.asid, pc := x.entry, readySince := tick, placedAt := tick }

/-- Firmware creates one partition of the signed configuration, loads its supervisor and starts it. (DESIGN CHOICE, log 10)
(DESIGN CHOICE, log 44) -/
def Chip.bootPart (c : Chip) (x : PartSpec) : Chip :=
  let c := c.modPart x.id fun q => { q with staged := { groups := x.groups, il := x.il, nb := x.nb, vtshare := x.vtshare } }
  let c := c.create x.id
  if (c.part x.id).result ≠ 0 then c
  else
    let c := c.modPart x.id fun q => { q with
      hearth := x.hearth, frames := x.frames, asids := [(x.asid.toNat, { root := x.root, gen := 0 })], state := .running }
    let c := { c with
      mem := c.mem.setBytes x.loadAt x.supervisor
      vfs := ((x.vfs.filter fun (v : Nat × BitVec 16) => v.1 < 128).take 16).foldl (fun (t : Table VirtFn) (v : Nat × BitVec 16) =>
        Table.put t v.1 { VirtFn.empty with bound := some (x.id, v.2) }) c.vfs }
    (c.armLaunches x.id).modThread (c.supervisor x.id) fun _ => bootThread x c.tick

/-- Both signatures verify (R8). (DESIGN CHOICE, log 8) -/
def bothOk (data ed ml : List Byte) : Bool := Config.ed25519Ok data ed && Config.mldsaOk data ml

/-- The chip right after a package reset; host memory is not of the package, and the free values go on. An id that is never assigned
leaves the package the one it had (R408; DESIGN CHOICE, log 41). (DEDUCED, log 43) -/
def Chip.restart (c : Chip) (b : BootInput) : Chip :=
  { Chip.reset with
    device := if 1 ≤ b.device.toNat ∧ b.device.toNat ≤ 0x900 then b.device else c.device
    liveDies := b.live, portSize := Vector.ofFn fun i => min (b.ports.getD i.val 0) (2 ^ 42)
    links := b.fabric.foldl (fun t e => Table.put t e.1 { Link.empty with cut := e.2 }) []
    sent := c.sent, draws := c.draws, tick := c.tick }

/-- A context of the firmware starts at PKG, on a core of its partition that has it free (R332, R417). (DESIGN CHOICE, log 55) -/
def Chip.bootFirmware (c : Chip) (x : FwSpec) : Chip :=
  if (c.part x.part).state = .running && (c.partCores x.part).contains (coreOf x.context) && !(c.thread x.context).live then
    c.modThread x.context fun _ => { Thread.empty with
      live := true, part := x.part, level := .pkg, asid := x.asid, pc := x.entry, readySince := c.tick, placedAt := c.tick }
  else c

/-- The firmware runs: it measures, marks the live dies, creates the partitions of a configuration that verifies, in their order (R418),
and goes on in its own contexts. (DEDUCED, log 43) -/
def State.firmware (s : State) (b : BootInput) (image : List Byte) : State :=
  let t := (((Trust.reset.extend 0 b.rom).extend 1 image).extend 2 (BitVec.ofNat 8 b.live.toNat :: b.found ++ b.ports.flatMap (bytesOfNat 8)))
  let t := { t with image := image, evidence := s.trust.evidence }
  let c := s.chip.restart b
  if !bothOk b.config b.configEd b.configMl then { s with chip := c, trust := { t with recovery := true } }
  else
    let ps := (List.range 20).flatMap fun i => b.parts.filter fun x => x.id == i
    let t := ps.foldl (fun (t : Trust) x => t.extend 4 x.supervisor) (t.extend 3 b.config)
    { s with chip := b.firmware.foldl Chip.bootFirmware (ps.foldl Chip.bootPart c), trust := { t with recovery := false, cxlOpen := true } }

/-- PACKAGE_RESET: a staged image is the one found. (DESIGN CHOICE, log 10) (DEDUCED, log 43) -/
def execPackageReset (boot : BootInput) (s : State) : Host.Outcome State Fault Refusal :=
  let image := s.trust.staged.getD boot.image
  let s := { s with issuing := none, inputs := [] }
  if bothOk image boot.imageEd boot.imageMl && decide (Config.minVersion ≤ boot.version) then .next (s.firmware boot image)
  else .next { s with chip := s.chip.restart boot, trust := { Trust.reset with evidence := s.trust.evidence } }

end Sys2Proof.Machine
end

