-- ==== Sys2Proof/Machine/Events.lean ====
section
/-!
DEFINITION. Operations in flight going on to their ends, the barrel, and the fetch: R32, R39, R42, R84, R87, R90, R258, R413.
-/

namespace Sys2Proof.Machine

/-! ### Operations in flight -/

/-- The bytes of pieces: those here in this order, those on other devices as they answered. -/
def mergePieces (o : Op) : List (Piece × Nat) → List Byte → List Byte
  | [], _ => []
  | (.here ks _, _) :: ps, bs => bs.take ks.length ++ mergePieces o ps (bs.drop ks.length)
  | (.there .., i) :: ps, bs => (Table.get? o.replies i).getD [] ++ mergePieces o ps bs

/-- The bytes of an early read, once peers have answered for theirs. (DEDUCED, log 57) -/
def Chip.earlyRead (c : Chip) (o : Op) (va : Word) (code : Bool) (ps : List Piece) : Chip :=
  let k := coreOf o.tid
  let keys := hereKeys ps
  if c.portDown keys then c.refuseUnit o .linkLost va 0
  else if c.poisoned keys then c.refuseUnit o .memUncorrectable va 0
  else if c.hostHolds keys true then c.snoop keys false
  else
    let c := (c.wakeFor o.part keys).fetchHost keys
    let (bs, c) := if code then (keys.map c.mem.byte, c.touchCode k keys) else ((c.touch (some k) keys).noteRead o.tid keys).readL1 k keys
    let bs := mergePieces o ps.zipIdx bs
    (c.dropOp o.id).modThread o.tid fun t =>
      if code then { t with fetched := some (BitVec.ofNat 32 (natOfBytes bs)) } else { t with entryRec := bs }

/-- A read that an instruction's issue waits for: a word of code, or an entry record, whose bytes stand on other devices, some or all
of them (R246). (DEDUCED, log 57) -/
def Chip.doEarly (c : Chip) (o : Op) (va : Word) (n : Nat) (code : Bool) : Chip :=
  match o.moving with
  | some m => if answered o m.ps then c.earlyRead o va code m.ps else c
  | none =>
    if !code && !c.mayAccess o [(va, n)] then c
    else match c.runs o (if code then .fetch else .read) (cutRun (va, n)) with
    | .fault w => c.waitPage o w
    | .refuse cause at_ => c.refuse o cause at_ 0
    | .ok ps =>
      if (hereKeys ps).length = n then c.dropOp o.id
      else
        Chip.ask (c.modOp o.id fun q => { q with moving := some { wr := false, ps := ps, left := [], now := none, buf := [] } }) o va 0
          (askPieces o ps fun _ pa n => .read pa n)

/-- A JOIN returns once its task has quit, or no graph holds it, and joins its accesses (R249, R275, R353). -/
def Chip.doJoin (c : Chip) (o : Op) (graph idx : Nat) : Chip :=
  match (c.graph? o.part graph).bind fun g => g.tasks.find? fun t => t.idx == idx with
  | some t => if t.quit then (c.acquire (coreOf o.tid) .domain).finish o 0 0 else c
  | none => (c.acquire (coreOf o.tid) .domain).finish o 0 0

/-- An operation goes on as far as it can in one step. (DESIGN CHOICE, log 12) -/
def Chip.advanceOp (c : Chip) (o : Op) : Chip :=
  if o.fault.isSome then c
  else match o.body with
  | .value v fl => c.finish o v fl
  | .load va n sg code => c.doLoad o va n sg code
  | .lload p n sg => c.doLocalLoad o p n sg
  | .store va bs => c.doStore o va bs
  | .lstore p bs => c.doLocalStore o p bs
  | .atomic va op n x e acq rel sc => c.doAtomic o va op n x e acq rel sc
  | .mwait va bound => c.doMwait o va bound
  | .tileLocal _ | .tileVec _ | .tileMem .. => c.endTile o true
  | .tile acq => c.endTile o acq
  | .gather .. => c.endTile o false
  | .tspace remove id bs => c.doTspace o remove id bs
  | .mldb .. => if o.ready then c.finish o o.result 0 else c
  | .mmul .. => c
  | .mx cmd => c.doMx o cmd
  | .copy _ => c
  | .vec i x rm => c.doVec o i x rm
  | .vget v w sp lanes done => c.doVget o v w sp lanes done
  | .vput w sp lanes data done => c.doVput o w sp lanes data done
  | .genbump _ _ g waits => c.doGenbump o g waits
  | .pgdone rid loc src va => c.doPgdone o rid loc src va
  | .pqui .. => c
  | .join g i => c.doJoin o g i
  | .spawnp s => c.hitOver o s
  | .early va n code => c.doEarly o va n code

/-- How an operation ends: its result returns, an engine command completes, an MWAIT is woken, or a write is performed. -/
inductive Ending
  | result | engine | mwait | write
  deriving DecidableEq, Repr

/-- The ending of an operation. (DEDUCED, log 14) -/
def Op.ending (o : Op) : Ending :=
  match o.body with
  | .mwait .. => .mwait
  | _ => if o.push then .result else if o.eng then .engine else .write

/-- The runs of bytes that an operation of a thread is to translate. -/
def OpBody.walks : OpBody → List (Word × Nat)
  | .vec .. => []
  | .load va n _ true => [(va, n)]
  | .early va n true => [(va, n)]
  | b => b.touches

/-- An operation with this ending goes on, once the host has given back the table lines on its walks (R390) and the cores to which their
granules are private have been recalled (R386); one that has asked a peer walks no more. (DEDUCED, log 14) -/
def Chip.proceed (c : Chip) (e : Ending) (id : Nat) : Chip :=
  match c.op? id with
  | some o =>
    if o.ending = e then
      if o.asked || o.moving.isSome then c.advanceOp o
      else match c.askTables o o.body.walks with
      | some c => c
      | none => (c.walked (coreOf o.tid) o.part o.asid o.body.walks).advanceOp o
    else c
  | none => c

/-- RESULT_RETURN. -/
def execResultReturn (id : Nat) (s : State) := s.on fun c => c.proceed .result id
/-- ENGINE_COMPLETION. -/
def execEngineCompletion (id : Nat) (s : State) := s.on fun c => c.proceed .engine id
/-- MWAIT_WAKE. -/
def execMwaitWake (id : Nat) (s : State) := s.on fun c => c.proceed .mwait id
/-- WRITE_PERFORMED. -/
def execWritePerformed (id : Nat) (s : State) := s.on fun c => c.proceed .write id

/-! ### Time (R341, R413) -/

/-- One ns of a partition's TIME, and a ns slewed at no more than 100 ppm; LOCK rises as what is left to slew comes within 100 ns.
(DESIGN CHOICE, log 4) (DESIGN CHOICE, log 42) -/
def Partition.tickNs (q : Partition) (slews : Bool) : Partition :=
  let q := { q with time := q.time + 1, slewIn := q.slewIn + 1 }
  if slews && q.slew != 0 && decide (10000 ≤ q.slewIn) then
    let left := if 0 < q.slew then q.slew - 1 else q.slew + 1
    { q with time := if 0 < q.slew then q.time + 1 else q.time - 1
             slew := left, slewIn := 0, ptpLock := q.ptpLock || decide (left.natAbs ≤ 100) }
  else q

/-- One cycle of the arithmetic clock, 10/13 ns (R18). (DESIGN CHOICE, log 42) -/
def Partition.cycle (q : Partition) (slews : Bool) : Partition :=
  if 13 ≤ q.sub + 10 then { q.tickNs slews with sub := q.sub + 10 - 13 } else { q with sub := q.sub + 10 }

/-- The TIME of the partition whose first core is k goes on; partitions that have drained are quiesced before it does (R337).
(DESIGN CHOICE, log 42) (DEDUCED, log 49) -/
def Chip.clock (c : Chip) (k : Nat) : Chip :=
  let c := c.quiescedAll
  match (c.othersDefined []).find? fun p => (c.partCores p).head? == some k with
  | none => c
  | some p => Chip.modPart { c with draws := c.draws + 1 } p fun q => q.cycle (Config.coin c.draws)

/-! ### The barrel (R258) -/

/-- The thread of R that has waited longest; the lowest context number wins a tie. -/
def Chip.longest (c : Chip) (ts : List Nat) : Option Nat :=
  ts.find? fun t => ts.all fun u => decide ((c.thread t).readySince ≤ (c.thread u).readySince)

/-- The first of these threads after context last, in context order, wrapping. -/
def afterLast (last : Nat) (ts : List Nat) : Option Nat :=
  (ts.find? fun t => decide (last < t % 16)).or ts.head?

/-- The thread that core k picks in the cycle that its slot count has reached. -/
def Chip.pickThread (c : Chip) (k : Nat) : Option Nat :=
  let r := c.readyThreads k
  match (r.map fun t => (c.thread t).prio).min? with
  | none => none
  | some top =>
    let below := r.filter fun t => decide (top < (c.thread t).prio)
    if (c.core k).slot % 16 = 0 && !below.isEmpty then c.longest below
    else afterLast ((c.core k).last.toList.getD top 15) (r.filter fun t => (c.thread t).prio == top)

/-- A thread picked goes on from its wait; a fence that acquires does so (R84), as does a task whose spawner's accesses are performed
(R283, R353). -/
def Chip.resumed (c : Chip) (t : Nat) : Chip :=
  let c := match (c.thread t).park with
    | .fence full s _ => c.fenceEnds t full s
    | .forked _ => c.releaseWide.acquire (coreOf t) .domain
    | _ => c
  c.modThread t fun th => { th with park := .run, marker := false, readySince := c.tick }

/-- YIELD waits no more for threads that issue, that are not ready, or that have left their context (R276). -/
def Park.trim (p : Park) (still : Nat × Nat → Bool) : Park :=
  match p with
  | .yielded us => .yielded (us.filter still)
  | p => p

/-- Threads of the core that are not ready, and those that YIELD waits for no more, though a trap is posted meanwhile (R276). (DESIGN CHOICE, log 90) -/
def Chip.noteIssue (c : Chip) (k : Nat) (t : Option Nat) : Chip :=
  let ready := c.readyThreads k
  let still := fun (u : Nat × Nat) => some u.1 != t && ready.contains u.1 && (c.thread u.1).placedAt == u.2
  { c with threads := c.threads.map fun (e : Nat × Thread) =>
      if coreOf e.1 != k then e
      else
        let th := { e.2 with readySince := if ready.contains e.1 then e.2.readySince else c.tick }
        (e.1, { th with park := th.park.trim still, under := th.under.trim still }) }

/-- A cycle of core k: its slot count, its clock and its pick. A die that sleeps issues nothing (R415). -/
def Chip.barrel (c : Chip) (k : Nat) : Chip × Option Nat :=
  let c := (c.modCore k fun q => { q with slot := q.slot + 1, cycles := q.cycles + 1 }).clock k
  let awake := c.dieState.toList.getD (dieOf k) 0 == 0
  match if awake then c.pickThread k else none with
  | none => (c.noteIssue k none, none)
  | some t =>
    let p := (c.thread t).prio
    let c := (c.noteIssue k (some t)).modCore k fun q => { q with
      last := Vector.ofFn fun i => if i.val = p then t % 16 else q.last[i] }
    (c.resumed t, some t)

/-- BARREL_ISSUE_SLOT. -/
def execBarrelIssueSlot (core : Nat) (s : State) : Host.Outcome State Fault Refusal :=
  .next { s with chip := (s.chip.barrel core).1, issuing := (s.chip.barrel core).2 }

/-! ### The fetch (R47, R76, R318) -/

/-- What the fetch of an instruction comes to. -/
inductive Fetched
  | word (w : IWord) (c : Chip)
  | none (c : Chip)

/-- The fetch of the current thread's next word. (DEDUCED, log 57) (DEDUCED, log 73) -/
def Chip.fetch (c : Chip) : Fetched :=
  let t := c.thread c.cur
  let k := coreOf c.cur
  let trap := fun (cause : Cause) (va : Word) => Fetched.none (Chip.modThread { c with nextId := c.nextId + 1 } c.cur fun t =>
    { t with stopped := true, owed := oweTrap (fetchTrap c.nextId t.pc va cause) t.owed })
  match t.fetched with
  | some w => .word w (c.modThread c.cur fun t => { t with fetched := none })
  | none =>
    let tables := c.walkHeld k t.part t.asid [(t.pc, 4)]
    let c := c.walked k t.part t.asid [(t.pc, 4)]
    if !tables.isEmpty then .none (c.snoop tables false)
    else match c.access k t.part t.asid t.level .fetch t.pc 4 with
    | .fault w => .none (c.modThread c.cur fun t => { t with park := .fetch w })
    | .refuse cause va => trap cause va
    | .far .. =>
      let o : Op := { id := c.nextId, tid := c.cur, part := t.part, task := t.task, level := t.level, asid := t.asid, pc := t.pc,
                      insn := 0, push := false, named := none, eng := false, cc := none, opA := 0, opB := 0, ranges := [],
                      fault := none, asked := false, replies := [], ready := false, result := 0, moving := none, body := .early t.pc 4 true }
      .none (Chip.modThread { c with ops := c.ops ++ [o], nextId := c.nextId + 1 } c.cur fun t => { t with park := .gone [o.id] })
    | .ok keys _ =>
      if c.poisoned keys then trap .memUncorrectable t.pc
      else if c.hostHolds keys true then .none (c.snoop keys false)
      else
        let c := ((c.wakeFor t.part keys).fetchHost keys).touchCode k keys
        let w : IWord := BitVec.ofNat 32 (natOfBytes (keys.map c.mem.byte))
        .word w (c.keepXlat k t.part t.asid t.pc)

/-- The issuing thread's instruction word, with the chip at its issue. -/
def State.fetch (s : State) (t : Nat) : Option IWord × State :=
  match Chip.fetch { s.chip with cur := t } with
  | .word w c => (some w, { s with chip := { c with insn := w }, issuing := none })
  | .none c => (none, { s with chip := c, issuing := none })

end Sys2Proof.Machine
end

