-- ==== Sys2Proof/Machine/Fp.lean ====
section
/-!
DEFINITION. Scalar floating point: R91 to R98.
-/

namespace Sys2Proof.Machine

end Sys2Proof.Machine

namespace Sys2Proof
open Machine

/-- The format of a precision (R91). -/
def Prec.fmt : Prec → FFmt
  | .f64 => fp64
  | .f32 => fp32

/-- An operand: all 64 bits, or bits [31:0] (R91). -/
def Prec.bits (p : Prec) (x : Word) : Nat :=
  match p with
  | .f64 => x.toNat
  | .f32 => x.toNat % 2 ^ 32

/-- The value of an operand. -/
def Prec.value (p : Prec) (x : Word) : FVal := p.fmt.value (p.bits x)

end Sys2Proof

namespace Sys2Proof.Machine

/-- The rounding mode of a field; dyn takes FFLAGS.FRM (R35, R92). -/
def Chip.rmode (c : Chip) : Rnd → RMode
  | .rne => 0
  | .rtz => 1
  | .rdn => 2
  | .rup => 3
  | .rmm => 4
  | .dyn => (c.thread c.cur).fflags.extractLsb' 5 3

/-- A two-source operation that rounds. -/
def Chip.fp2 (c : Chip) (sw : Bool) (d : Dest) (a b : Src) (f : FVal → FVal → FRes) (p : Prec) : Chip :=
  c.issue { sw := sw, pair := [a, b], dest := d, push := true } fun c =>
    let r := f (p.value (c.src a)) (p.value (c.src b))
    .done (c.emit d (BitVec.ofNat 64 r.1) r.2)

/-- FADD (R93). -/
def execFadd (sw : Bool) (d : Dest) (a b : Src) (rm : Rnd) (p : Prec) (s : State) :=
  s.issue fun c => c.fp2 sw d a b (p.fmt.add (c.rmode rm)) p
/-- FSUB (R93). -/
def execFsub (sw : Bool) (d : Dest) (a b : Src) (rm : Rnd) (p : Prec) (s : State) :=
  s.issue fun c => c.fp2 sw d a b (p.fmt.sub (c.rmode rm)) p
/-- FMUL (R93). -/
def execFmul (sw : Bool) (d : Dest) (a b : Src) (rm : Rnd) (p : Prec) (s : State) :=
  s.issue fun c => c.fp2 sw d a b (p.fmt.mul (c.rmode rm)) p
/-- FDIV (R93). -/
def execFdiv (sw : Bool) (d : Dest) (a b : Src) (rm : Rnd) (p : Prec) (s : State) :=
  s.issue fun c => c.fp2 sw d a b (p.fmt.div (c.rmode rm)) p

/-- FSQRT (R93). -/
def execFsqrt (sw : Bool) (d : Dest) (a : Src) (rm : Rnd) (p : Prec) (s : State) :=
  s.issue fun c => c.issue { sw := sw, pair := [a], dest := d, push := true } fun c =>
    let r := p.fmt.sqrt (c.rmode rm) (p.value (c.src a))
    .done (c.emit d (BitVec.ofNat 64 r.1) r.2)

/-- FMA: the third source stands in the D field and the result is pushed only (R91, R93). -/
def execFma (sw : Bool) (e a b : Src) (rm : Rnd) (p : Prec) (s : State) :=
  s.issue fun c => c.issue { sw := sw, pair := [a, b], extra := [e], push := true } fun c =>
    let r := p.fmt.fma (c.rmode rm) (p.value (c.src a)) (p.value (c.src b)) (p.value (c.src e))
    .done (c.emit none (BitVec.ofNat 64 r.1) r.2)

/-- FMIN and FMAX (R94). -/
def Chip.fpMinMax (c : Chip) (sw : Bool) (d : Dest) (a b : Src) (big : Bool) (p : Prec) : Chip :=
  c.issue { sw := sw, pair := [a, b], dest := d, push := true } fun c =>
    let r := p.fmt.minmax big (p.bits (c.src a)) (p.bits (c.src b))
    .done (c.emit d (BitVec.ofNat 64 r.1) r.2)

/-- FMIN (R94). -/
def execFmin (sw : Bool) (d : Dest) (a b : Src) (p : Prec) (s : State) := s.issue fun c => c.fpMinMax sw d a b false p
/-- FMAX (R94). -/
def execFmax (sw : Bool) (d : Dest) (a b : Src) (p : Prec) (s : State) := s.issue fun c => c.fpMinMax sw d a b true p

/-- FCMP (R95). -/
def execFcmp (sw : Bool) (d : Dest) (a b : Src) (q : FPred) (p : Prec) (s : State) :=
  s.issue fun c => c.issue { sw := sw, pair := [a, b], dest := d, push := true } fun c =>
    let r := fcompare q (p.value (c.src a)) (p.value (c.src b))
    .done (c.emit d (if r.1 then 1 else 0) r.2)

end Sys2Proof.Machine

namespace Sys2Proof
open Machine

/-- The other precision. -/
def Prec.other : Prec → Prec
  | .f64 => .f32
  | .f32 => .f64

end Sys2Proof

namespace Sys2Proof.Machine

/-- A conversion by its kind (R96): the result word and the flags. -/
def fcvtResult (k : CvtKind) (rm : RMode) (p : Prec) (x : Word) : Word × FlagSet :=
  match k with
  | .ff => let r := p.fmt.convert rm (p.other.value x); (BitVec.ofNat 64 r.1, r.2)
  | .fromInt => let r := p.fmt.convert rm (.ofInt x.toInt); (BitVec.ofNat 64 r.1, r.2)
  | .toInt => let r := convertInt (-(2 ^ 63)) (2 ^ 63 - 1) rm (p.value x); (BitVec.ofInt 64 r.1, r.2)
  | .toUint => let r := convertInt 0 (2 ^ 64 - 1) rm (p.value x); (BitVec.ofInt 64 r.1, r.2)

/-- FCVT (R96). -/
def execFcvt (sw : Bool) (d : Dest) (a : Src) (k : CvtKind) (rm : Rnd) (p : Prec) (s : State) :=
  s.issue fun c => c.issue { sw := sw, pair := [a], dest := d, push := true } fun c =>
    let r := fcvtResult k (c.rmode rm) p (c.src a)
    .done (c.emit d r.1 r.2)

/-- FCLASS (R97). -/
def execFclass (sw : Bool) (d : Dest) (a : Src) (p : Prec) (s : State) :=
  s.issue fun c => c.issue { sw := sw, pair := [a], dest := d, push := true } fun c =>
    .done (c.emit d (BitVec.ofNat 64 (p.fmt.classify (p.bits (c.src a)))) 0)

end Sys2Proof.Machine
end

