-- ==== Sys2Proof/Machine/Dispatch.lean ====
section
/-!
DEFINITION. One arm per constructor of Instr: its meaning.
-/

namespace Sys2Proof.Machine

def exec (i : Instr) (s : State) : Host.Outcome State Fault Refusal :=
  match i with
  | .nop sw => Sys2Proof.Machine.execNop sw s
  | .trap sw code => Sys2Proof.Machine.execTrap sw code s
  | .tret sw a => Sys2Proof.Machine.execTret sw a s
  | .genbump sw d a => Sys2Proof.Machine.execGenbump sw d a s
  | .pgdone sw d a b => Sys2Proof.Machine.execPgdone sw d a b s
  | .pqui sw d a b => Sys2Proof.Machine.execPqui sw d a b s
  | .pres sw d a => Sys2Proof.Machine.execPres sw d a s
  | .cflush sw a b => Sys2Proof.Machine.execCflush sw a b s
  | .celfl sw => Sys2Proof.Machine.execCelfl sw s
  | .add sw d a b w => Sys2Proof.Machine.execAdd sw d a b w s
  | .sub sw d a b w => Sys2Proof.Machine.execSub sw d a b w s
  | .mul sw d a b w => Sys2Proof.Machine.execMul sw d a b w s
  | .mulh sw d a b w => Sys2Proof.Machine.execMulh sw d a b w s
  | .mulhu sw d a b w => Sys2Proof.Machine.execMulhu sw d a b w s
  | .div sw d a b w => Sys2Proof.Machine.execDiv sw d a b w s
  | .divu sw d a b w => Sys2Proof.Machine.execDivu sw d a b w s
  | .rem sw d a b w => Sys2Proof.Machine.execRem sw d a b w s
  | .remu sw d a b w => Sys2Proof.Machine.execRemu sw d a b w s
  | .and sw d a b w => Sys2Proof.Machine.execAnd sw d a b w s
  | .or sw d a b w => Sys2Proof.Machine.execOr sw d a b w s
  | .xor sw d a b w => Sys2Proof.Machine.execXor sw d a b w s
  | .andn sw d a b w => Sys2Proof.Machine.execAndn sw d a b w s
  | .shl sw d a b w => Sys2Proof.Machine.execShl sw d a b w s
  | .shr sw d a b w => Sys2Proof.Machine.execShr sw d a b w s
  | .sra sw d a b w => Sys2Proof.Machine.execSra sw d a b w s
  | .ror sw d a b w => Sys2Proof.Machine.execRor sw d a b w s
  | .slt sw d a b w => Sys2Proof.Machine.execSlt sw d a b w s
  | .sltu sw d a b w => Sys2Proof.Machine.execSltu sw d a b w s
  | .seq sw d a b w => Sys2Proof.Machine.execSeq sw d a b w s
  | .min sw d a b w => Sys2Proof.Machine.execMin sw d a b w s
  | .max sw d a b w => Sys2Proof.Machine.execMax sw d a b w s
  | .minu sw d a b w => Sys2Proof.Machine.execMinu sw d a b w s
  | .maxu sw d a b w => Sys2Proof.Machine.execMaxu sw d a b w s
  | .clz sw d a w => Sys2Proof.Machine.execClz sw d a w s
  | .ctz sw d a w => Sys2Proof.Machine.execCtz sw d a w s
  | .popc sw d a w => Sys2Proof.Machine.execPopc sw d a w s
  | .sext sw d a b w => Sys2Proof.Machine.execSext sw d a b w s
  | .zext sw d a b w => Sys2Proof.Machine.execZext sw d a b w s
  | .addi sw d a imm => Sys2Proof.Machine.execAddi sw d a imm s
  | .andi sw d a imm => Sys2Proof.Machine.execAndi sw d a imm s
  | .ori sw d a imm => Sys2Proof.Machine.execOri sw d a imm s
  | .xori sw d a imm => Sys2Proof.Machine.execXori sw d a imm s
  | .shli sw d a sh => Sys2Proof.Machine.execShli sw d a sh s
  | .shri sw d a sh => Sys2Proof.Machine.execShri sw d a sh s
  | .srai sw d a sh => Sys2Proof.Machine.execSrai sw d a sh s
  | .slti sw d a imm => Sys2Proof.Machine.execSlti sw d a imm s
  | .sltiu sw d a imm => Sys2Proof.Machine.execSltiu sw d a imm s
  | .ldi sw d imm => Sys2Proof.Machine.execLdi sw d imm s
  | .ldpc sw d imm => Sys2Proof.Machine.execLdpc sw d imm s
  | .hmake sw d a b => Sys2Proof.Machine.execHmake sw d a b s
  | .hidx sw d a b => Sys2Proof.Machine.execHidx sw d a b s
  | .hver sw d a b => Sys2Proof.Machine.execHver sw d a b s
  | .hfld sw d a b => Sys2Proof.Machine.execHfld sw d a b s
  | .br sw cond a b disp => Sys2Proof.Machine.execBr sw cond a b disp s
  | .j sw disp => Sys2Proof.Machine.execJ sw disp s
  | .call sw disp => Sys2Proof.Machine.execCall sw disp s
  | .jr sw a => Sys2Proof.Machine.execJr sw a s
  | .jrCall sw a => Sys2Proof.Machine.execJrCall sw a s
  | .ld sw d a wd imm => Sys2Proof.Machine.execLd sw d a wd imm s
  | .st sw data base wd imm => Sys2Proof.Machine.execSt sw data base wd imm s
  | .ldl sw d a wd imm => Sys2Proof.Machine.execLdl sw d a wd imm s
  | .stl sw data base wd imm => Sys2Proof.Machine.execStl sw data base wd imm s
  | .amoAdd sw d a b wd ord sc => Sys2Proof.Machine.execAmoAdd sw d a b wd ord sc s
  | .amoAnd sw d a b wd ord sc => Sys2Proof.Machine.execAmoAnd sw d a b wd ord sc s
  | .amoOr sw d a b wd ord sc => Sys2Proof.Machine.execAmoOr sw d a b wd ord sc s
  | .amoXor sw d a b wd ord sc => Sys2Proof.Machine.execAmoXor sw d a b wd ord sc s
  | .amoMin sw d a b wd ord sc => Sys2Proof.Machine.execAmoMin sw d a b wd ord sc s
  | .amoMax sw d a b wd ord sc => Sys2Proof.Machine.execAmoMax sw d a b wd ord sc s
  | .amoMinu sw d a b wd ord sc => Sys2Proof.Machine.execAmoMinu sw d a b wd ord sc s
  | .amoMaxu sw d a b wd ord sc => Sys2Proof.Machine.execAmoMaxu sw d a b wd ord sc s
  | .amoSwap sw d a b wd ord sc => Sys2Proof.Machine.execAmoSwap sw d a b wd ord sc s
  | .amoFaddF32 sw d a b ord sc => Sys2Proof.Machine.execAmoFaddF32 sw d a b ord sc s
  | .amoFaddF64 sw d a b ord sc => Sys2Proof.Machine.execAmoFaddF64 sw d a b ord sc s
  | .cas sw e a b wd ord sc => Sys2Proof.Machine.execCas sw e a b wd ord sc s
  | .fncFull sw a b all mask sc => Sys2Proof.Machine.execFncFull sw a b all mask sc s
  | .fncAcq sw a b all mask sc => Sys2Proof.Machine.execFncAcq sw a b all mask sc s
  | .fncRel sw a b all mask sc => Sys2Proof.Machine.execFncRel sw a b all mask sc s
  | .fncReg sw a b all mask sc => Sys2Proof.Machine.execFncReg sw a b all mask sc s
  | .pref sw a b => Sys2Proof.Machine.execPref sw a b s
  | .mwait sw d a b => Sys2Proof.Machine.execMwait sw d a b s
  | .cwait sw t k => Sys2Proof.Machine.execCwait sw t k s
  | .cinc sw a k => Sys2Proof.Machine.execCinc sw a k s
  | .crd sw d k => Sys2Proof.Machine.execCrd sw d k s
  | .fadd sw d a b rm p => Sys2Proof.Machine.execFadd sw d a b rm p s
  | .fsub sw d a b rm p => Sys2Proof.Machine.execFsub sw d a b rm p s
  | .fmul sw d a b rm p => Sys2Proof.Machine.execFmul sw d a b rm p s
  | .fdiv sw d a b rm p => Sys2Proof.Machine.execFdiv sw d a b rm p s
  | .fsqrt sw d a rm p => Sys2Proof.Machine.execFsqrt sw d a rm p s
  | .fma sw c a b rm p => Sys2Proof.Machine.execFma sw c a b rm p s
  | .fmin sw d a b p => Sys2Proof.Machine.execFmin sw d a b p s
  | .fmax sw d a b p => Sys2Proof.Machine.execFmax sw d a b p s
  | .fcmp sw d a b pred p => Sys2Proof.Machine.execFcmp sw d a b pred p s
  | .fcvt sw d a kind rm p => Sys2Proof.Machine.execFcvt sw d a kind rm p s
  | .fclass sw d a p => Sys2Proof.Machine.execFclass sw d a p s
  | .vaddFp sw vd va vb et m q => Sys2Proof.Machine.execVaddFp sw vd va vb et m q s
  | .vsubFp sw vd va vb et m q => Sys2Proof.Machine.execVsubFp sw vd va vb et m q s
  | .vmulFp sw vd va vb et m q => Sys2Proof.Machine.execVmulFp sw vd va vb et m q s
  | .vfma sw vd va vb vc et m q => Sys2Proof.Machine.execVfma sw vd va vb vc et m q s
  | .vfnma sw vd va vb vc et m q => Sys2Proof.Machine.execVfnma sw vd va vb vc et m q s
  | .vdiv sw vd va vb et m q => Sys2Proof.Machine.execVdiv sw vd va vb et m q s
  | .vsqrt sw vd va et m q => Sys2Proof.Machine.execVsqrt sw vd va et m q s
  | .vrsq sw vd va et m q => Sys2Proof.Machine.execVrsq sw vd va et m q s
  | .vexp2 sw vd va et m q => Sys2Proof.Machine.execVexp2 sw vd va et m q s
  | .vlog2 sw vd va et m q => Sys2Proof.Machine.execVlog2 sw vd va et m q s
  | .vminFp sw vd va vb et m q => Sys2Proof.Machine.execVminFp sw vd va vb et m q s
  | .vmaxFp sw vd va vb et m q => Sys2Proof.Machine.execVmaxFp sw vd va vb et m q s
  | .vabsFp sw vd va et m q => Sys2Proof.Machine.execVabsFp sw vd va et m q s
  | .vnegFp sw vd va et m q => Sys2Proof.Machine.execVnegFp sw vd va et m q s
  | .vaddInt sw vd va vb et m q => Sys2Proof.Machine.execVaddInt sw vd va vb et m q s
  | .vsubInt sw vd va vb et m q => Sys2Proof.Machine.execVsubInt sw vd va vb et m q s
  | .vmulInt sw vd va vb et m q => Sys2Proof.Machine.execVmulInt sw vd va vb et m q s
  | .vminInt sw vd va vb et m q => Sys2Proof.Machine.execVminInt sw vd va vb et m q s
  | .vmaxInt sw vd va vb et m q => Sys2Proof.Machine.execVmaxInt sw vd va vb et m q s
  | .vminu sw vd va vb et m q => Sys2Proof.Machine.execVminu sw vd va vb et m q s
  | .vmaxu sw vd va vb et m q => Sys2Proof.Machine.execVmaxu sw vd va vb et m q s
  | .vabsInt sw vd va et m q => Sys2Proof.Machine.execVabsInt sw vd va et m q s
  | .vnegInt sw vd va et m q => Sys2Proof.Machine.execVnegInt sw vd va et m q s
  | .vand sw vd va vb et m q => Sys2Proof.Machine.execVand sw vd va vb et m q s
  | .vor sw vd va vb et m q => Sys2Proof.Machine.execVor sw vd va vb et m q s
  | .vxor sw vd va vb et m q => Sys2Proof.Machine.execVxor sw vd va vb et m q s
  | .vnot sw vd va et m q => Sys2Proof.Machine.execVnot sw vd va et m q s
  | .vshl sw vd va vb et m q => Sys2Proof.Machine.execVshl sw vd va vb et m q s
  | .vshr sw vd va vb et m q => Sys2Proof.Machine.execVshr sw vd va vb et m q s
  | .vsra sw vd va vb et m q => Sys2Proof.Machine.execVsra sw vd va vb et m q s
  | .vld sw vd x et m q => Sys2Proof.Machine.execVld sw vd x et m q s
  | .vst sw vd x et m q => Sys2Proof.Machine.execVst sw vd x et m q s
  | .vldg sw vd x et m q => Sys2Proof.Machine.execVldg sw vd x et m q s
  | .vstg sw vd x et m q => Sys2Proof.Machine.execVstg sw vd x et m q s
  | .vgath sw vd va x et m q => Sys2Proof.Machine.execVgath sw vd va x et m q s
  | .vscat sw vd va x et m q => Sys2Proof.Machine.execVscat sw vd va x et m q s
  | .vbc sw vd x et m q => Sys2Proof.Machine.execVbc sw vd x et m q s
  | .vext sw va x et q => Sys2Proof.Machine.execVext sw va x et q s
  | .vmov sw vd va et m q => Sys2Proof.Machine.execVmov sw vd va et m q s
  | .vcmp sw vd va vb cond et m q => Sys2Proof.Machine.execVcmp sw vd va vb cond et m q s
  | .vsel sw vd va vb et m q => Sys2Proof.Machine.execVsel sw vd va vb et m q s
  | .vcvt sw vd va p t et m q => Sys2Proof.Machine.execVcvt sw vd va p t et m q s
  | .vred sw va op et m q => Sys2Proof.Machine.execVred sw va op et m q s
  | .vscan sw vd va op et m q => Sys2Proof.Machine.execVscan sw vd va op et m q s
  | .vcmpr sw vd va et m q => Sys2Proof.Machine.execVcmpr sw vd va et m q s
  | .vexpd sw vd va et m q => Sys2Proof.Machine.execVexpd sw vd va et m q s
  | .vperm sw vd va vb et m q => Sys2Proof.Machine.execVperm sw vd va vb et m q s
  | .viota sw vd et m q => Sys2Proof.Machine.execViota sw vd et m q s
  | .vcnt sw et m q => Sys2Proof.Machine.execVcnt sw et m q s
  | .vmsk sw vd va vb op et q => Sys2Proof.Machine.execVmsk sw vd va vb op et q s
  | .vamax sw vd va et m q => Sys2Proof.Machine.execVamax sw vd va et m q s
  | .vqnt sw vd va raw nf et m q => Sys2Proof.Machine.execVqnt sw vd va raw nf et m q s
  | .vdq sw vd va raw nf et m q => Sys2Proof.Machine.execVdq sw vd va raw nf et m q s
  | .vflrd sw vd m q => Sys2Proof.Machine.execVflrd sw vd m q s
  | .vflcl sw m q => Sys2Proof.Machine.execVflcl sw m q s
  | .vcvtz sw vd va p t et m q => Sys2Proof.Machine.execVcvtz sw vd va p t et m q s
  | .tld sw a b cc det keep => Sys2Proof.Machine.execTld sw a b cc det keep s
  | .tldv sw a cc v keep => Sys2Proof.Machine.execTldv sw a cc v keep s
  | .tst sw a b cc det => Sys2Proof.Machine.execTst sw a b cc det s
  | .tstv sw a b cc det v => Sys2Proof.Machine.execTstv sw a b cc det v s
  | .talias sw a b cc det => Sys2Proof.Machine.execTalias sw a b cc det s
  | .twait sw a cc det => Sys2Proof.Machine.execTwait sw a cc det s
  | .tprobe sw a cc det => Sys2Proof.Machine.execTprobe sw a cc det s
  | .tadd sw a b cc det => Sys2Proof.Machine.execTadd sw a b cc det s
  | .trel sw a b cc det => Sys2Proof.Machine.execTrel sw a b cc det s
  | .tdig sw a cc det hi => Sys2Proof.Machine.execTdig sw a cc det hi s
  | .tinfo sw a cc det => Sys2Proof.Machine.execTinfo sw a cc det s
  | .tspace sw a b cc det => Sys2Proof.Machine.execTspace sw a b cc det s
  | .timp sw a b cc det => Sys2Proof.Machine.execTimp sw a b cc det s
  | .texp sw a b cc det keep => Sys2Proof.Machine.execTexp sw a b cc det keep s
  | .mset sw a b => Sys2Proof.Machine.execMset sw a b s
  | .mget sw a => Sys2Proof.Machine.execMget sw a s
  | .mldb sw a b cc det => Sys2Proof.Machine.execMldb sw a b cc det s
  | .mmul sw a b cc => Sys2Proof.Machine.execMmul sw a b cc s
  | .mclr sw a b cc det wide => Sys2Proof.Machine.execMclr sw a b cc det wide s
  | .mrd sw a b cc det f => Sys2Proof.Machine.execMrd sw a b cc det f s
  | .mrdTile sw a b cc det => Sys2Proof.Machine.execMrdTile sw a b cc det s
  | .mwr sw a b cc det f => Sys2Proof.Machine.execMwr sw a b cc det f s
  | .mred sw a cc det v op => Sys2Proof.Machine.execMred sw a cc det v op s
  | .mscr sw a cc det v => Sys2Proof.Machine.execMscr sw a cc det v s
  | .mscc sw a cc det v => Sys2Proof.Machine.execMscc sw a cc det v s
  | .mcmp sw a b cc det two => Sys2Proof.Machine.execMcmp sw a b cc det two s
  | .mstat sw a cc det => Sys2Proof.Machine.execMstat sw a cc det s
  | .cset sw a b => Sys2Proof.Machine.execCset sw a b s
  | .cpy sw a b cc det => Sys2Proof.Machine.execCpy sw a b cc det s
  | .cpyg sw a b cc det => Sys2Proof.Machine.execCpyg sw a b cc det s
  | .cpygOut sw a b cc det => Sys2Proof.Machine.execCpygOut sw a b cc det s
  | .cpyd sw a b cc det => Sys2Proof.Machine.execCpyd sw a b cc det s
  | .cpydLoc sw a b cc det => Sys2Proof.Machine.execCpydLoc sw a b cc det s
  | .cfil sw a b cc det => Sys2Proof.Machine.execCfil sw a b cc det s
  | .cfilG sw a b cc det => Sys2Proof.Machine.execCfilG sw a b cc det s
  | .spawn sw a b => Sys2Proof.Machine.execSpawn sw a b s
  | .spawnp sw a b => Sys2Proof.Machine.execSpawnp sw a b s
  | .spawng sw a b => Sys2Proof.Machine.execSpawng sw a b s
  | .quit sw => Sys2Proof.Machine.execQuit sw s
  | .join sw a => Sys2Proof.Machine.execJoin sw a s
  | .trig sw => Sys2Proof.Machine.execTrig sw s
  | .yield sw => Sys2Proof.Machine.execYield sw s
  | .sleep sw a rel => Sys2Proof.Machine.execSleep sw a rel s
  | .ppt sw a mask => Sys2Proof.Machine.execPpt sw a mask s
  | .ctlrd sw d cr => Sys2Proof.Machine.execCtlrd sw d cr s
  | .ctlwr sw a cr => Sys2Proof.Machine.execCtlwr sw a cr s
  | .resultReturn id => Sys2Proof.Machine.execResultReturn id s
  | .barrelIssueSlot core => Sys2Proof.Machine.execBarrelIssueSlot core s
  | .counterFullRelease thread => Sys2Proof.Machine.execCounterFullRelease thread s
  | .engineCompletion id => Sys2Proof.Machine.execEngineCompletion id s
  | .mwaitWake id => Sys2Proof.Machine.execMwaitWake id s
  | .sleepWake thread => Sys2Proof.Machine.execSleepWake thread s
  | .tileStoreRegister id => Sys2Proof.Machine.execTileStoreRegister id s
  | .waitingStoreRelease id => Sys2Proof.Machine.execWaitingStoreRelease id s
  | .publication id => Sys2Proof.Machine.execPublication id s
  | .tileLoadRegister id => Sys2Proof.Machine.execTileLoadRegister id s
  | .tileUseChangeRegister id => Sys2Proof.Machine.execTileUseChangeRegister id s
  | .tileProbeRegister id => Sys2Proof.Machine.execTileProbeRegister id s
  | .headCreate id => Sys2Proof.Machine.execHeadCreate id s
  | .waiterRecordFree id => Sys2Proof.Machine.execWaiterRecordFree id s
  | .tileLoadComplete id => Sys2Proof.Machine.execTileLoadComplete id s
  | .timpGatherComplete id => Sys2Proof.Machine.execTimpGatherComplete id s
  | .taliasSourceServed id => Sys2Proof.Machine.execTaliasSourceServed id s
  | .mldbStart id => Sys2Proof.Machine.execMldbStart id s
  | .mmulStart id => Sys2Proof.Machine.execMmulStart id s
  | .mmulSquash id => Sys2Proof.Machine.execMmulSquash id s
  | .mmulCommit id => Sys2Proof.Machine.execMmulCommit id s
  | .copyUnit id => Sys2Proof.Machine.execCopyUnit id s
  | .copyComplete id => Sys2Proof.Machine.execCopyComplete id s
  | .copyQueueAdmit thread => Sys2Proof.Machine.execCopyQueueAdmit thread s
  | .cpydLocArrival id => Sys2Proof.Machine.execCpydLocArrival id s
  | .cellarLookup id => Sys2Proof.Machine.execCellarLookup id s
  | .celkeyRotate => Sys2Proof.Machine.execCelkeyRotate s
  | .digestSweepDone part => Sys2Proof.Machine.execDigestSweepDone part s
  | .scrubError extent => Sys2Proof.Machine.execScrubError extent s
  | .diePoolMove src dst => Sys2Proof.Machine.execDiePoolMove src dst s
  | .gangReserve gang => Sys2Proof.Machine.execGangReserve gang s
  | .graphEnd graph cause => Sys2Proof.Machine.execGraphEnd graph cause s
  | .watchdog graph id => Sys2Proof.Machine.execWatchdog graph id s
  | .launchVersionServed id => Sys2Proof.Machine.execLaunchVersionServed id s
  | .statusWordWrite => Sys2Proof.Machine.execStatusWordWrite s
  | .slottabWrite v => Sys2Proof.Machine.execSlottabWrite v s
  | .slotStartDue part slot => Sys2Proof.Machine.execSlotStartDue part slot s
  | .trapPost thread => Sys2Proof.Machine.execTrapPost thread s
  | .handlerStart part => Sys2Proof.Machine.execHandlerStart part s
  | .pageFaultPost fault => Sys2Proof.Machine.execPageFaultPost fault s
  | .faultRecordRepost part => Sys2Proof.Machine.execFaultRecordRepost part s
  | .pagerStart part rid => Sys2Proof.Machine.execPagerStart part rid s
  | .preemptRequest record => Sys2Proof.Machine.execPreemptRequest record s
  | .saveWrite thread => Sys2Proof.Machine.execSaveWrite thread s
  | .saveComplete thread => Sys2Proof.Machine.execSaveComplete thread s
  | .restore record core => Sys2Proof.Machine.execRestore record core s
  | .genConfirm id core => Sys2Proof.Machine.execGenConfirm id core s
  | .dupCollapse page die => Sys2Proof.Machine.execDupCollapse page die s
  | .granuleRecall granule => Sys2Proof.Machine.execGranuleRecall granule s
  | .ptbaseWrite v => Sys2Proof.Machine.execPtbaseWrite v s
  | .asidWrite v => Sys2Proof.Machine.execAsidWrite v s
  | .trapsaveWrite v => Sys2Proof.Machine.execTrapsaveWrite v s
  | .hearthWrite v => Sys2Proof.Machine.execHearthWrite v s
  | .trapvecWrite v => Sys2Proof.Machine.execTrapvecWrite v s
  | .pagertabWrite v => Sys2Proof.Machine.execPagertabWrite v s
  | .fbstatusWrite v => Sys2Proof.Machine.execFbstatusWrite v s
  | .celquotaWrite v => Sys2Proof.Machine.execCelquotaWrite v s
  | .ptpctlWrite v => Sys2Proof.Machine.execPtpctlWrite v s
  | .fflagsWrite v => Sys2Proof.Machine.execFflagsWrite v s
  | .vcsrWrite v => Sys2Proof.Machine.execVcsrWrite v s
  | .partCtlSelWrite v => Sys2Proof.Machine.execPartCtlSelWrite v s
  | .create => Sys2Proof.Machine.execCreate s
  | .commit => Sys2Proof.Machine.execCommit s
  | .merge => Sys2Proof.Machine.execMerge s
  | .destroy => Sys2Proof.Machine.execDestroy s
  | .partitionQuiesced part => Sys2Proof.Machine.execPartitionQuiesced part s
  | .pquiTimeout id => Sys2Proof.Machine.execPquiTimeout id s
  | .pub vf v ltile => Sys2Proof.Machine.execPub vf v ltile s
  | .vfLtolWrite vf v => Sys2Proof.Machine.execVfLtolWrite vf v s
  | .snpData line => Sys2Proof.Machine.execSnpData line s
  | .snpInv line => Sys2Proof.Machine.execSnpInv line s
  | .snpCur line => Sys2Proof.Machine.execSnpCur line s
  | .hostMemRequest line data keeps => Sys2Proof.Machine.execHostMemRequest line data keeps s
  | .birsp line data => Sys2Proof.Machine.execBirsp line data s
  | .hdmDecoderCommit dec base size => Sys2Proof.Machine.execHdmDecoderCommit dec base size s
  | .linkReqReceive src part tag body => Sys2Proof.Machine.execLinkReqReceive src part tag body s
  | .linkRspReceive tag body => Sys2Proof.Machine.execLinkRspReceive tag body s
  | .arrivalNotice tag body => Sys2Proof.Machine.execArrivalNotice tag body s
  | .linkAtomReceive src part tag body => Sys2Proof.Machine.execLinkAtomReceive src part tag body s
  | .linkFenceReceive src part tag => Sys2Proof.Machine.execLinkFenceReceive src part tag s
  | .linkMgmtReceive src body => Sys2Proof.Machine.execLinkMgmtReceive src body s
  | .linkDown link => Sys2Proof.Machine.execLinkDown link s
  | .linkWidthRequest link lanes cycle => Sys2Proof.Machine.execLinkWidthRequest link lanes cycle s
  | .linkFreqChange link change => Sys2Proof.Machine.execLinkFreqChange link change s
  | .ptpUpdate part sample => Sys2Proof.Machine.execPtpUpdate part sample s
  | .dieStateEntry die => Sys2Proof.Machine.execDieStateEntry die s
  | .dieWake die => Sys2Proof.Machine.execDieWake die s
  | .packageReset boot => Sys2Proof.Machine.execPackageReset boot s
  | .evidenceRequest nonce mask => Sys2Proof.Machine.execEvidenceRequest nonce mask s
  | .firmwareStage image => Sys2Proof.Machine.execFirmwareStage image s
  | .notAnInstruction word => Sys2Proof.Machine.execNotAnInstruction word s
  | .writePerformed id => Sys2Proof.Machine.execWritePerformed id s
  | .laneFailure link => Sys2Proof.Machine.execLaneFailure link s
  | .cxlLinkDown port => Sys2Proof.Machine.execCxlLinkDown port s

end Sys2Proof.Machine
end

