-- ==== Sys2Proof/Machine/Happen.lean ====
section
/-!
DEFINITION. What may happen next when no instruction is at its issue: R421. The order is one the specification leaves
open, so Config.pick chooses (log 3).
-/

namespace Sys2Proof.Machine

/-- A happening that the package itself may make now, named by its row of the opcode table. -/
inductive Happening
  | barrel (core : Nat)
  | advance (e : Ending) (id : Nat)
  | counterFull (thread : Nat)
  | sleepWake (thread : Nat)
  | storeRegister (id : Nat)
  | storeRelease (id : Nat)
  | publication (id : Nat)
  | loadRegister (id : Nat)
  | useRegister (id : Nat)
  | probeRegister (id : Nat)
  | headCreate (id : Nat)
  | recordFree (id : Nat)
  | loadComplete (id : Nat)
  | gatherComplete (id : Nat)
  | aliasServed (id : Nat)
  | mldbStart (id : Nat)
  | mmulStart (id : Nat)
  | mmulSquash (id : Nat)
  | mmulCommit (id : Nat)
  | copyUnit (id : Nat)
  | copyComplete (id : Nat)
  | copyQueueAdmit (thread : Nat)
  | cpydLocArrival (id : Nat)
  | cellarLookup (id : Nat)
  | sweepDone (part : Nat)
  | poolMove (src dst : Nat)
  | gangReserve (gang : Nat)
  | graphEnd (graph : Nat) (cause : Cause)
  | watchdog (graph id : Nat)
  | launchServed (id : Nat)
  | statusWrite
  | slotDue (part slot : Nat)
  | trapPost (thread : Nat)
  | handlerStart (part : Nat)
  | faultPost (fault : Nat)
  | faultRepost (part : Nat)
  | pagerStart (part rid : Nat)
  | preempt (record : Nat)
  | saveWrite (thread : Nat)
  | saveComplete (thread : Nat)
  | restore (record core : Nat)
  | genConfirm (id core : Nat)
  | dupCollapse (page die : Nat)
  | granuleRecall (granule : Nat)
  | quiesced (part : Nat)
  | pquiTimeout (id : Nat)
  | dieEntry (die : Nat)
  | dieWake (die : Nat)
  | input (x : Input)
  deriving DecidableEq, Repr

/-! ### What an operation, a request, a thread, a partition may do -/

/-- Happenings of an operation. -/
def Chip.ofOp (c : Chip) (o : Op) : List Happening :=
  (if o.fault.isSome then [.faultPost (3 * o.id)] else [.advance o.ending o.id]) ++
  ((c.dupWaits o).map fun page => .dupCollapse page.1 (dieOf (coreOf o.tid))) ++ (c.outsideGranules o).map .granuleRecall ++
  match o.body with
  | .mldb .. => [.mldbStart o.id]
  | .mmul .. => [.mmulStart o.id, .mmulSquash o.id, .mmulCommit o.id]
  | .copy _ => [.copyUnit o.id, .copyComplete o.id, .cpydLocArrival o.id]
  | .gather .. => [.copyUnit o.id, .gatherComplete o.id]
  | .tileMem .. => [.copyUnit o.id]
  | .spawnp _ => [.cellarLookup o.id]
  | .genbump p _ _ waits => (if o.ready then waits else c.partCores p).map fun k => .genConfirm o.id k
  | .pqui .. => [.pquiTimeout o.id]
  | _ => []

/-- Happenings of a tile request. -/
def Req.happenings (r : Req) : List Happening :=
  match r.phase with
  | .travelling =>
    if r.body.isStore then [.storeRegister r.id]
    else if r.body.isChange then [.useRegister r.id]
    else if r.body.isLoad then [.loadRegister r.id]
    else [.probeRegister r.id]
  | .waitHead => [.headCreate r.id]
  | .waitRecord => [.recordFree r.id]
  | .waitStore => [.storeRelease r.id]
  | .pending | .closing => [.publication r.id]
  | .served _ => [.loadComplete r.id, .aliasServed r.id]
  | _ => []

/-- Happenings of a thread. -/
def Thread.happenings (th : Thread) (t : Nat) : List Happening :=
  if !th.live then []
  else (if th.owed.isEmpty then [] else [.trapPost t]) ++ (if th.again.isSome then [.counterFull t, .copyQueueAdmit t] else []) ++
    match th.park with
    | .counterFull _ => [.counterFull t]
    | .copyQueue _ => [.copyQueueAdmit t]
    | .sleep _ => [.sleepWake t]
    | .fetch _ => [.faultPost (3 * t + 1)]
    | .saving .. => [.saveWrite t, .saveComplete t]
    | _ => []

/-- Happenings of a partition. -/
def Chip.ofPart (c : Chip) (p : Nat) : List Happening :=
  [.handlerStart p, .faultRepost p, .quiesced p, .sweepDone p] ++
  ((List.range 16).map fun n => .launchServed (16 * p + n)) ++
  ((c.part p).tslots.map fun e => .slotDue p e.1) ++
  ((c.part p).faults.map fun r => .pagerStart p r.rid.toNat)

/-- Happenings of a graph: its end for a cause asked for or met, and the watchdog. -/
def Chip.ofGraph (c : Chip) (g : Graph) : List Happening :=
  let key := graphKey g.part g.id
  (match g.ended with
    | some x => [x]
    | none => (c.threads.filter fun (e : Nat × Thread) => e.2.live && e.2.part == g.part && e.2.graph == g.id).filterMap fun (e : Nat × Thread) =>
        (c.deliverable e.1).map TrapRec.cause).map (.graphEnd key) ++
  (c.hung.filter fun o => o.part == g.part && o.task / 65536 == g.id).map fun o => .watchdog key o.id

/-! ### Sleeping dies (R415) -/

/-- The bytes of these runs on this package, for telling where they are homed. -/
def Chip.peekKeys (c : Chip) (o : Op) (rs : List (Word × Nat)) : List Nat :=
  (rs.flatMap cutRun).flatMap fun r => match c.peek o r.1 with
    | some (cls, _, pa) => if cls = 3 then [] else (List.range r.2).map fun i => memKey cls (pa + i)
    | none => []

/-- Sleeping dies that the next accesses of an operation reach: the homes of their bytes and of the entries of its walks, and both ends
of a copy queue (R370, R379, R397). -/
def Chip.opDies (c : Chip) (o : Op) : List Nat :=
  if c.dieState.toList.all (· == 0) then []
  else
    c.sleepers o.part (match o.moving with
      | some m => hereKeys m.ps
      | none => c.peekKeys o o.body.walks ++ c.walkReads (coreOf o.tid) o.part o.asid o.body.walks) ++
    match o.body with
    | .copy cmd => (cmd.queue.toList.flatMap fun q => [q / 32, q / 4 % 8]).filter c.asleep
    | _ => []

/-- The die whose slice a tile request is to act at, if it does not wait there; a home on another package is on none of these dies. -/
def Chip.reqDie (c : Chip) (r : Req) : Option Nat :=
  match r.phase with
  | .travelling | .pending | .served _ =>
    if (c.space? r.part r.space).any fun s => s.home == 2 then none else some (c.sliceOf r.part r.space r.index / 16)
  | _ => none

/-- Dies that a happening from outside reaches. -/
def Chip.inputDies (c : Chip) (x : Input) : List Nat :=
  let home := fun (p pa n : Nat) => c.sleepers p ((List.range n).map (pa + ·))
  match x with
  | .linkReq _ p _ body => match body with
    | .tile h _ => [c.sliceOf p (hSpace h) (hIndex h) / 16]
    | .read pa n => home p pa n
    | .write pa bs => home p pa bs.length
    | .watch pa _ => home p pa 8
    | .leave => []
  | .linkAtom _ p _ a => home p a.pa 8
  | .notice t _ => (c.op? (t / 8192)).toList.map fun o => dieOf (coreOf o.tid)
  | .hostMem line _ _ | .birsp line _ => [c.hostSlice line / 16]
  | _ => []

/-- A request needs die d (R415). (DEDUCED, log 45) -/
def Chip.dieAsked (c : Chip) (d : Nat) : Bool :=
  !c.dieIdle d || c.reqs.any (fun r => c.reqDie r == some d) || c.ops.any fun o => (c.opDies o).contains d

/-- Happenings of a die. -/
def Chip.ofDie (c : Chip) (d : Nat) (asked : Bool) : List Happening :=
  (if !c.asleep d then [.dieEntry d] else if asked || c.dieAsked d then [.dieWake d] else []) ++
  (List.range 8).map (.poolMove d)

/-- Everything that may happen next; happenings from outside in their order; what needs a sleeping die waits until it is awake
(R415). (DESIGN CHOICE, log 3) -/
def State.happenings (s : State) : List Happening :=
  let c := s.chip
  let ps := c.othersDefined []
  let wanted := s.inputs.head?.toList.flatMap c.inputDies
  (((List.range 512).filter c.coreLive).map .barrel) ++
  ((c.ops.filter fun o => !(c.opDies o).any c.asleep).flatMap c.ofOp) ++
  ((c.reqs.filter fun r => !(c.reqDie r).any c.asleep).flatMap Req.happenings) ++ (c.threads.flatMap fun e => e.2.happenings e.1) ++
  ps.flatMap c.ofPart ++ c.graphs.flatMap c.ofGraph ++ ((List.range 8).flatMap fun d => c.ofDie d (wanted.contains d)) ++
  (c.gangs.map fun g => .gangReserve g.id) ++
  (c.records.flatMap fun r => .preempt r.id :: if r.saved.isSome then (c.partCores r.part).map (.restore r.id) else []) ++
  (c.owedStatus.filter OwedStatus.waiting).map (fun x => .faultPost (3 * x.id + 2)) ++
  (if c.owedStatus.isEmpty then [] else [.statusWrite]) ++
  if wanted.any c.asleep then [] else s.inputs.head?.toList.map .input

/-! ### Running a happening -/

/-- A happening from outside, as its row. -/
def Input.run (x : Input) (s : State) : Host.Outcome State Fault Refusal :=
  match x with
  | .scrubError x => execScrubError x s
  | .pub vf v w => execPub vf v w s
  | .vfLtol vf v => execVfLtolWrite vf v s
  | .vfTile vf ws => s.on fun c => c.modVf vf fun x => x.write ws
  | .vfRead vf off => s.on fun c => c.vfRead vf off
  | .poison line => s.on fun c => { c with poison := line :: c.poison }
  | .snpData l => execSnpData l s
  | .snpInv l => execSnpInv l s
  | .snpCur l => execSnpCur l s
  | .hostMem l d k => execHostMemRequest l d k s
  | .birsp l d => execBirsp l d s
  | .hdmCommit d b n => execHdmDecoderCommit d b n s
  | .linkReq a p t b => execLinkReqReceive a p t b s
  | .linkRsp t b => execLinkRspReceive t b s
  | .notice t b => execArrivalNotice t b s
  | .linkAtom a p t b => execLinkAtomReceive a p t b s
  | .linkFence a p t => execLinkFenceReceive a p t s
  | .linkMgmt a b => execLinkMgmtReceive a b s
  | .linkDown l => execLinkDown l s
  | .laneFailure l => execLaneFailure l s
  | .widthRequest l n t => execLinkWidthRequest l n t s
  | .freqChange l f t => execLinkFreqChange l ⟨f, t⟩ s
  | .ptp p v => execPtpUpdate p v s
  | .cxlDown p => execCxlLinkDown p s
  | .reset b => execPackageReset b s
  | .evidence n m => execEvidenceRequest n m s
  | .stage i => execFirmwareStage i s

/-- An operation goes on to its ending. -/
def Ending.run (e : Ending) (id : Nat) (s : State) : Host.Outcome State Fault Refusal :=
  match e with
  | .result => execResultReturn id s
  | .engine => execEngineCompletion id s
  | .mwait => execMwaitWake id s
  | .write => execWritePerformed id s

/-- A happening as its row. -/
def Happening.run (h : Happening) (s : State) : Host.Outcome State Fault Refusal :=
  match h with
  | .barrel k => execBarrelIssueSlot k s
  | .advance e id => e.run id s
  | .counterFull t => execCounterFullRelease t s
  | .sleepWake t => execSleepWake t s
  | .storeRegister id => execTileStoreRegister id s
  | .storeRelease id => execWaitingStoreRelease id s
  | .publication id => execPublication id s
  | .loadRegister id => execTileLoadRegister id s
  | .useRegister id => execTileUseChangeRegister id s
  | .probeRegister id => execTileProbeRegister id s
  | .headCreate id => execHeadCreate id s
  | .recordFree id => execWaiterRecordFree id s
  | .loadComplete id => execTileLoadComplete id s
  | .gatherComplete id => execTimpGatherComplete id s
  | .aliasServed id => execTaliasSourceServed id s
  | .mldbStart id => execMldbStart id s
  | .mmulStart id => execMmulStart id s
  | .mmulSquash id => execMmulSquash id s
  | .mmulCommit id => execMmulCommit id s
  | .copyUnit id => execCopyUnit id s
  | .copyComplete id => execCopyComplete id s
  | .copyQueueAdmit t => execCopyQueueAdmit t s
  | .cpydLocArrival id => execCpydLocArrival id s
  | .cellarLookup id => execCellarLookup id s
  | .sweepDone p => execDigestSweepDone p s
  | .poolMove a b => execDiePoolMove a b s
  | .gangReserve g => execGangReserve g s
  | .graphEnd g x => execGraphEnd g x s
  | .watchdog g id => execWatchdog g id s
  | .launchServed id => execLaunchVersionServed id s
  | .statusWrite => execStatusWordWrite s
  | .slotDue p n => execSlotStartDue p n s
  | .trapPost t => execTrapPost t s
  | .handlerStart p => execHandlerStart p s
  | .faultPost f => execPageFaultPost f s
  | .faultRepost p => execFaultRecordRepost p s
  | .pagerStart p r => execPagerStart p r s
  | .preempt r => execPreemptRequest r s
  | .saveWrite t => execSaveWrite t s
  | .saveComplete t => execSaveComplete t s
  | .restore r k => execRestore r k s
  | .genConfirm id k => execGenConfirm id k s
  | .dupCollapse g d => execDupCollapse g d s
  | .granuleRecall g => execGranuleRecall g s
  | .quiesced p => execPartitionQuiesced p s
  | .pquiTimeout id => execPquiTimeout id s
  | .dieEntry d => execDieStateEntry d s
  | .dieWake d => execDieWake d s
  | .input x => x.run { s with inputs := s.inputs.tail }

/-- The state as the next happening finds it. (DESIGN CHOICE, log 3) -/
def State.advanceTick (s : State) : State := { s with chip := { s.chip with tick := s.chip.tick + 1 } }

/-- The happening that comes next. (DESIGN CHOICE, log 3) -/
def State.nextHappening (s : State) : Option Happening :=
  s.happenings[Config.pick s.chip.tick % max 1 s.happenings.length]?

/-- One happening. (DESIGN CHOICE, log 3) -/
def State.happen (s : State) : Host.Outcome State Fault Refusal :=
  match s.nextHappening with
  | some h => h.run s.advanceTick
  | none => .next s.advanceTick

end Sys2Proof.Machine
end

