-- ==== Sys2Proof/Machine/Step.lean ====
section
/-!
DEFINITION. One step: the instruction at its issue, else the next happening; and a machine that fetches a given word.
-/

namespace Sys2Proof.Machine

/-- One step of the machine (R258, R421). (DESIGN CHOICE, log 12) -/
def step (s : State) : Host.Outcome State Fault Refusal :=
  match s.issuing with
  | none => s.happen
  | some t =>
    match s.fetch t with
    | (none, s) => .next s
    | (some w, s) =>
      match decodeWord w with
      | .ok i => exec i s
      | .error _ => execNotAnInstruction w s

/-- The partition of a machine that is made to fetch: group 0, die 0, its channels, and one ASID with a table at 0x10000.
(DESIGN CHOICE, log 10) -/
def fetchPart (q : Partition) : Partition :=
  { q with
    state := .running
    layout := { groups := 1, il := 0x00FFFFFFFF000101, nb := 0x1, vtshare := 1 }
    asids := Table.put q.asids 0 { root := 0x10001, gen := 0 } }

/-- Tables that map the page at virtual address 0 to the frame at 0x50000, and the word at its start. (DESIGN CHOICE, log 10) -/
def fetchCells (w : Nat) : List (Nat × List Byte) :=
  [(0x10000, bytesOfNat 8 0x20001), (0x20000, bytesOfNat 8 0x30001), (0x30000, bytesOfNat 8 0x40001),
    (0x40000, bytesOfNat 8 0x5009F), (0x50000, bytesOfNat 4 w)]

/-- A package thread in context 15 of core 0, at virtual address 0. (DESIGN CHOICE, log 10) (DESIGN CHOICE, log 55) -/
def fetchThread (t : Thread) : Thread :=
  { t with live := true, part := 0, level := .pkg, asid := 0, pc := 0, park := .run, stopped := false, fetched := none }

end Sys2Proof.Machine

namespace Sys2Proof.Machine

/-- s with the instruction of nbits bits w where its next step fetches: a thread stands at its issue. (DESIGN CHOICE, log 10) -/
def State.withFetchWord (s : State) (nbits w : Nat) : State :=
  let c := (s.chip.modPart 0 fetchPart).modThread 15 fetchThread
  { s with
    issuing := some 15
    chip := { c with mem := (fetchCells (w % 2 ^ nbits)).foldl (fun m e => Memory.setBytes m e.1 e.2) c.mem } }

end Sys2Proof.Machine
end

