-- ==== Sys2Proof/Safety.lean ====
section
/-!
DEFINITION. The words that the statements are written in: what an issue needs, what it leaves unchanged, and the operation
it leaves in flight.
-/

namespace Sys2Proof.Machine

/-! ### The issuing thread -/

/-- The thread whose instruction is issued. -/
def State.me (s : State) : Thread := s.chip.thread s.chip.cur

/-- Its core. -/
def State.myCore (s : State) : Nat := coreOf s.chip.cur

/-- The value of a source of that thread. -/
def State.val (s : State) (x : Src) : Word := s.me.src x

/-- A completion counter. -/
def State.counter (s : State) (core : Nat) (n : Ctr) : BitVec 8 := (s.chip.core core).cc[n]

/-- An instruction of header h passes the decoder's checks in a context that holds a thread (R45). -/
def State.clear (s : State) (h : Hdr) : Prop := s.me.live = true ∧ s.me.check h = none

/-! ### What is left unchanged -/

/-- A context without its pc, its queue and the record of its group: every register of R31 to R37, its level, its windows
and what it owes. -/
def Thread.regs (t : Thread) : Thread :=
  { t with pc := 0, queue := [], pushes := 0, written := 0, vpend := 0, marker := false, park := .run }

/-- A core without its completion counters and the older copies of its L1: its scratchpad, accumulators, bind and MXC
counters. -/
def Core.data (q : Core) : Core := { q with cc := Vector.replicate 16 0, stale := [] }

/-- The package without its contexts, its cores and what is in flight: byte memory, tiles, the cellar, partitions, graphs. -/
def Chip.data (c : Chip) : Chip := { c with threads := [], cores := [], ops := [], reqs := [], nextId := 0 }

/-- From s to t every byte of every memory and every register is as before; the pc and the queue of the issuing thread
alone may differ. -/
structure Keeps (s t : State) : Prop where
  data : t.chip.data = s.chip.data
  core : ∀ k, (t.chip.core k).data = (s.chip.core k).data
  thread : ∀ j, (t.chip.thread j).regs = (s.chip.thread j).regs
  others : ∀ j, j ≠ s.chip.cur →
    (t.chip.thread j).pc = (s.chip.thread j).pc ∧ (t.chip.thread j).queue = (s.chip.thread j).queue
  trust : t.trust = s.trust
  issuing : t.issuing = s.issuing
  inputs : t.inputs = s.inputs

/-- The instruction moved the pc and did nothing else. -/
structure Moves (s : State) (pc : Word) (t : State) : Prop extends Keeps s t where
  pc : t.me.pc = pc
  queue : t.me.queue = s.me.queue
  ops : t.chip.ops = s.chip.ops
  reqs : t.chip.reqs = s.chip.reqs
  counters : ∀ k n, t.counter k n = s.counter k n

/-- The instruction did not issue: its thread waits, at the same pc. -/
structure Waits (s : State) (p : Park) (t : State) : Prop extends Moves s s.me.pc t where
  park : t.me.park = p

/-- The operation that an instruction leaves in flight. -/
def State.opOf (s : State) (a : Start) (body : OpBody) : Op where
  id := s.chip.nextId
  tid := s.chip.cur
  part := s.me.part
  task := s.me.task
  level := s.me.level
  asid := s.me.asid
  pc := s.me.pc
  insn := s.chip.insn
  push := a.push || a.outst
  named := a.named
  eng := a.eng
  cc := a.cc
  opA := a.opA
  opB := a.opB
  ranges := a.ranges
  fault := none
  asked := false
  replies := []
  ready := false
  result := a.result
  moving := none
  body := body
  rel := a.rel

/-- The instruction left one operation in flight, took its queue slot if it pushes, counted on its counter if it names one,
sent these tile requests, moved the pc and did nothing else. -/
structure Begins (s : State) (a : Start) (body : OpBody) (pc : Word) (rs : List Req) (t : State) : Prop extends Keeps s t where
  pc : t.me.pc = pc
  queue : t.me.queue = if a.push then pushSlot s.me.queue s.chip.nextId else s.me.queue
  ops : t.chip.ops = s.chip.ops ++ [s.opOf a body]
  nextId : t.chip.nextId = s.chip.nextId + 1
  reqs : t.chip.reqs = s.chip.reqs ++ rs
  counters : ∀ k n, t.counter k n = s.counter k n + if k = s.myCore ∧ a.cc = some n then 1 else 0

/-- The instruction pushed v, whose return is outstanding: it is written to d and raises these flags when it returns. -/
def Pushes (s : State) (d : Dest) (v : Word) (flags : BitVec 5) (t : State) : Prop :=
  Begins s { push := true, named := d } (.value v flags) (s.me.pc + 4) [] t

/-- The tile request that an instruction sends. -/
def State.reqOf (s : State) (h : Word) (body : TileBody) (target : Word) : Req where
  id := s.chip.nextId
  part := s.me.part
  space := hSpace h
  index := hIndex h
  version := hVersion h
  header := hHeader h
  body := body
  origin := .op s.chip.nextId
  tid := s.chip.cur
  graph := s.me.graph
  asid := s.me.asid
  phase := .travelling
  counted := false
  target := target

/-- The instruction is an engine command (R39, R120): held while its counter stands at 255, else its operation is in flight, it
pushes if it is attached, its counter counts it, and it has sent these requests; from is s, with what the command changed before. -/
def Commands (s : State) (det : Bool) (k : Ctr) (a : Start) (body : OpBody) (rs : List Req) (t : State) (from_ : State := s) : Prop :=
  if s.counter s.myCore k = 255 then Waits s (.counterFull k) t
  else Begins from_ { a with push := !det, eng := true, cc := some k } body (s.me.pc + 4) rs t

/-- The scratchpad address of n bytes at a local address that is a multiple of align, if they lie wholly in the private window, at
local addresses from 0, or in the gang-shared one, at local addresses from 0x80000000 (R73). -/
def State.place (s : State) (la : Word) (n align : Nat) : Option Nat :=
  let l := la.toNat
  if l % align ≠ 0 then none
  else if l < 0x80000000 ∧ l + n ≤ s.me.winSize then some (s.me.winBase + l)
  else if 0x80000000 ≤ l ∧ l < 0x100000000 ∧ 0 < s.me.gangSize ∧ l - 0x80000000 + n ≤ s.me.gangSize then
    some (s.me.gangBase + (l - 0x80000000))
  else none

/-- s with the issuing thread changed. -/
def State.withMe (s : State) (f : Thread → Thread) : State := { s with chip := s.chip.modThread s.chip.cur f }

/-- The access of an instruction in a pure task (R290): one that the task may make is ok, and any other sets its mark. -/
def State.noted (s : State) (ok : PureTask → Bool := fun _ => false) : State :=
  match s.me.pureTask with
  | none => s
  | some p => if ok p then s else s.withMe fun u => { u with pureTask := some { p with violated := true } }

/-- The access is performed as outside a pure task: it is outside one, or one that the task may make, or the task is lenient and so
is the space of the store (R290). -/
def State.lenient (s : State) (ok : PureTask → Bool := fun _ => false) (space : Bool := false) : Bool :=
  match s.me.pureTask with
  | none => true
  | some p => ok p || !p.strict && !space

/-- s with the thread past the fences whose first held write to this storage it issues: 0 LOCAL, 1 TILE, 2 BYTE (R84). -/
def State.passing (s : State) (bit : Nat) : State := s.withMe fun u => u.passHolds bit

/-- A write to this storage waits while a REL fence of its thread holds it back (R84). -/
def HeldOr (s : State) (bit : Nat) (t : State) (goes : Prop) : Prop :=
  match s.chip.relHeld bit with
  | some p => Waits s p t
  | none => goes

/-- The physical slots of a slot operand and of the geometry of one output tile: 1 ≤ M, N ≤ 64, and a second slot for a WIDE tile of
more than 32 columns; none where they are not allowed or not allocated (R190, R191, R193). -/
def State.tileSlots (s : State) (a : Word) (wide : Bool) : Option (List Nat) :=
  let m := s.me.geom.toNat % 2 ^ 16
  let n := s.me.geom.toNat / 2 ^ 16 % 2 ^ 16
  let count := if wide = true ∧ 32 < n then 2 else 1
  if 15 < a.toNat ∨ m = 0 ∨ 64 < m ∨ n = 0 ∨ 64 < n ∨ s.me.slots.length < a.toNat + count then none
  else some ((s.me.slots.drop a.toNat).take count)

/-- The slots of a tile that a command reads or scales; none also where two slots are to be one WIDE tile and one of them does not carry
the WIDE tag (R205). -/
def State.readSlots (s : State) (a : Word) : Option (List Nat) :=
  let wide := s.chip.operandTag a.toNat
  (s.tileSlots a wide).filter fun ss => !wide || ss.all (s.chip.tagAt s.myCore)

/-- The copy registers pass the checks of R365: strides and row bytes are multiples of 4, the flag of 8, reserved bits are 0, a row
has 4 to 65,536 bytes, and CPYD's queue names a die of the partition. -/
def State.copyOk (s : State) (fill queue : Bool) : Prop :=
  let shape := s.me.cpShape.toNat
  let rowBytes := shape % 2 ^ 32
  shape < 2 ^ 48 ∧ rowBytes % 4 = 0 ∧ 0 < rowBytes ∧ rowBytes ≤ 65536 ∧
  s.me.cpDstride.toNat < 2 ^ 32 ∧ s.me.cpDstride.toNat % 4 = 0 ∧ s.me.cpFlag.toNat % 8 = 0 ∧
  (fill = false → s.me.cpSstride.toNat < 2 ^ 32 ∧ s.me.cpSstride.toNat % 4 = 0) ∧
  (queue = true → s.me.cpQueue.toNat < 64 ∧ s.me.cpQueue.getLsbD 3 = false ∧ s.me.cpQueue.toNat % 8 ∈ s.chip.diesOf s.me.part 0)

/-- The strides and the row bytes that a copy command reads are multiples of 4 (R365). -/
def State.copyAligned (s : State) (fill : Bool) : Prop :=
  s.me.cpShape.toNat % 4 = 0 ∧ s.me.cpDstride.toNat % 4 = 0 ∧ (fill = false → s.me.cpSstride.toNat % 4 = 0)

/-- The geometry that a copy command reads at issue; a stride of 0 stands for the bytes of a row (R343, R364). -/
def State.copyGeo (s : State) (fill : Bool) : CopyGeo :=
  let rowBytes := s.me.cpShape.toNat % 2 ^ 32
  let stride := fun (v : Word) => if v = 0 then rowBytes else v.toNat
  { rows := s.me.cpShape.toNat / 2 ^ 32, rowBytes := rowBytes, sstride := if fill then 0 else stride s.me.cpSstride,
    dstride := stride s.me.cpDstride, flag := s.me.cpFlag, flagadd := s.me.cpFlagadd }

/-- Scratchpad bytes p to p + n − 1 in the scoreboard. -/
def range (p n : Nat) (wr : Bool) : LRange := { acc := false, lo := p, hi := p + n, wr := wr }

/-- No operation in flight writes any of these bytes of the issuing core's scratchpad (R74), and no acquire of the thread is still to
read (R82, R87). -/
def State.free (s : State) (p n : Nat) : Prop :=
  (∀ o ∈ s.chip.ops, o.tid = s.chip.cur → o.body.acquires = false) ∧ ∀ o ∈ s.chip.ops, ∀ r ∈ o.rangesOn s.myCore, r.2.wr = true → r.2.acc = false → r.2.hi ≤ p ∨ p + n ≤ r.2.lo

/-- The 64-bit word at a scratchpad address of the issuing core. -/
def State.localWord (s : State) (p : Nat) : Word := (s.chip.core s.myCore).scratch.word p

/-- s with this package. -/
def State.put (s : State) (c : Chip) : State := { s with chip := c }

/-- The releases that thread t has read beyond their scope, or reads with these bytes (R354). -/
def Chip.weak (c : Chip) (t : Nat) (keys : List Nat) : List Release := c.releases.filter fun r =>
  r.readers.contains t || (r.keys.any keys.contains && !r.scope.covers (.thread r.tid) (.thread t))

/-- s with those releases past: the acquire that follows them has drawn which of their lines stay (R354). -/
def State.pastWeak (s : State) : State :=
  if s.chip.weak s.chip.cur [] = [] then s
  else s.put { s.chip with draws := s.chip.draws + 1, releases := s.chip.releases.map fun r =>
    { r with readers := r.readers.filter (· != s.chip.cur) } }

/-- Core k has acquired at a scope (R357): at PACKAGE or DOMAIN an older copy is left there only of a line that one of these releases,
which do not reach the thread, orders (R354); at DIE also of a line whose home is on another die and whose write has not reached this one; below,
of a line that no agent of the core wrote. -/
def Acquired (s : State) (weak : List Release) (k : Nat) (sc : AgentScope) (t : State) : Prop :=
  ∀ x ∈ (t.chip.core k).stale, ∃ y ∈ (s.chip.core k).stale, y.1 = x.1 ∧ y.2.bytes = x.2.bytes ∧
    ((∃ r ∈ weak, x.1 ∈ r.lines ∧ y.2.writer = some r.tid) ∨
      sc = .die ∧ y.2.seen.getLsbD (dieOf k) = false ∧ s.chip.lineHome (s.chip.partOf k) (64 * x.1) / 16 ≠ dieOf k ∨
      (sc = .core ∨ sc = .thread) ∧ y.2.near = false)

/-- s with a FULL fence of this scope past, and the accesses before it that are still to be performed (R356). -/
def State.fenced (s : State) (sc : AgentScope) : State :=
  { s with chip := { s.chip with fulls := (s.chip.fulls.filter fun f => f.ids.any fun i => (s.chip.op? i).isSome) ++
      [{ tid := s.chip.cur, scope := sc, ids := s.chip.unperformedIds }] } }

/-- The trap record of an instruction that traps at its issue (R303, R305); srcs: the sources of a check before its operands are
read. -/
def State.trapOf (s : State) (cause : Cause) (code : Nat) (opA opB addr : Word) (pushes : Bool) (named : Dest) (ends : Bool)
    (srcs : Option Src × Option Src := (none, none)) : TrapRec where
  id := s.chip.nextId
  cause := cause
  code := code
  eng := engineWord s.chip.insn
  pc := s.me.pc
  insn := s.chip.insn
  opA := opA
  opB := opB
  addr := addr
  token := 0
  pushes := pushes
  named := named
  ends := ends
  op := none
  seq := 0
  req := none
  srcs := srcs

/-- The instruction stopped its thread at its own pc with this trap owed, and did nothing else (R45, R303). -/
structure Traps (s : State) (r : TrapRec) (t : State) : Prop where
  me : t.me = { s.me with stopped := true, owed := oweTrap r s.me.owed }
  others : ∀ j, j ≠ s.chip.cur → t.chip.thread j = s.chip.thread j
  rest : { t.chip with threads := [] } = { s.chip with threads := [], nextId := s.chip.nextId + 1 }
  trust : t.trust = s.trust

/-! ### Tables of the rules -/

/-- A function of two words at width 64, or with .w at width 32 and sign-extended (R63). -/
def atWidth (w : Bool) (f : (n : Nat) → BitVec n → BitVec n → BitVec n) (x y : Word) : Word :=
  if w then (f 32 (x.extractLsb' 0 32) (y.extractLsb' 0 32)).signExtend 64 else f 64 x y

/-- A two-source integer instruction without a division, and its result (R61). -/
def intRows : List ((Bool → Dest → Src → Src → Bool → Instr) × ((n : Nat) → BitVec n → BitVec n → BitVec n)) :=
  [(.add, fun _ a b => a + b), (.sub, fun _ a b => a - b), (.mul, fun _ a b => a * b),
   (.mulh, fun n a b => BitVec.ofInt n (a.toInt * b.toInt / 2 ^ n)), (.mulhu, fun n a b => BitVec.ofNat n (a.toNat * b.toNat / 2 ^ n)),
   (.and, fun _ a b => a &&& b), (.or, fun _ a b => a ||| b), (.xor, fun _ a b => a ^^^ b), (.andn, fun _ a b => a &&& ~~~b),
   (.shl, fun n a b => a <<< (b.toNat % n)), (.shr, fun n a b => a >>> (b.toNat % n)),
   (.sra, fun n a b => a.sshiftRight (b.toNat % n)), (.ror, fun n a b => a.rotateRight (b.toNat % n)),
   (.slt, fun n a b => if a.toInt < b.toInt then BitVec.ofNat n 1 else 0), (.sltu, fun n a b => if a.toNat < b.toNat then BitVec.ofNat n 1 else 0),
   (.seq, fun n a b => if a = b then BitVec.ofNat n 1 else 0), (.min, fun _ a b => if a.toInt < b.toInt then a else b),
   (.max, fun _ a b => if a.toInt < b.toInt then b else a), (.minu, fun _ a b => if a.toNat < b.toNat then a else b),
   (.maxu, fun _ a b => if a.toNat < b.toNat then b else a)]

/-- An instruction with an immediate, and its result (R65). -/
def immRows : List ((Bool → Dest → Src → BitVec 15 → Instr) × (Word → Word → Word)) :=
  [(.addi, fun a s => a + s), (.andi, fun a s => a &&& s), (.ori, fun a s => a ||| s), (.xori, fun a s => a ^^^ s),
   (.slti, fun a s => if a.toInt < s.toInt then 1 else 0), (.sltiu, fun a s => if a.toNat < s.toNat then 1 else 0)]

/-- An instruction with a shift amount, and its result (R65). -/
def shiftRows : List ((Bool → Dest → Src → BitVec 6 → Instr) × (Word → Nat → Word)) :=
  [(.shli, fun a n => a <<< n), (.shri, fun a n => a >>> n), (.srai, fun a n => a.sshiftRight n)]

/-- A scalar floating-point instruction of two sources that rounds, and its operation (R93). -/
def fpRows : List ((Bool → Dest → Src → Src → Rnd → Prec → Instr) × (FFmt → RMode → FVal → FVal → FRes)) :=
  [(.fadd, FFmt.add), (.fsub, FFmt.sub), (.fmul, FFmt.mul), (.fdiv, FFmt.div)]

/-- A read-modify-write with a width (R78). -/
def amoRows : List ((Bool → Dest → Src → Src → AmoWidth → Order → AmoScope → Instr) × AtomOp) :=
  [(.amoAdd, .add), (.amoAnd, .and), (.amoOr, .or), (.amoXor, .xor), (.amoMin, .min), (.amoMax, .max), (.amoMinu, .minu),
   (.amoMaxu, .maxu), (.amoSwap, .swap)]

/-! ### Exact values -/

/-- The rounding mode that a field names (R35, R92). -/
def State.mode (s : State) : Rnd → RMode
  | .rne => 0
  | .rtz => 1
  | .rdn => 2
  | .rup => 3
  | .rmm => 4
  | .dyn => s.me.fflags.extractLsb' 5 3

/-- A finite value as a rational number; 0 for the others. -/
def FVal.rat : FVal → ℚ
  | .fin neg m x => (if neg then -1 else 1) * (m : ℚ) * (2 : ℚ) ^ x
  | _ => 0

/-- The value is finite. -/
def FVal.finite : FVal → Prop
  | .fin .. => True
  | _ => False

/-- One number is less than another, −0 and +0 being equal. -/
def FVal.below (a b : FVal) : Prop :=
  match a, b with
  | .nan _, _ | _, .nan _ => False
  | .inf s, .inf t => s = true ∧ t = false
  | .inf s, .fin .. => s = true
  | .fin .., .inf t => t = false
  | .fin .., .fin .. => a.rat < b.rat

/-! ### Vector instructions -/

/-- The header and the scalar source of an instruction that the vector pipe performs without reaching memory (R218, R223, R224,
R230). -/
def Thread.vecForm (t : Thread) (i : Instr) : Option (Hdr × Word) :=
  let two := fun (sw ok : Bool) (vd va vb : VReg) =>
    some (({ sw := sw, etype := ok, vpair := some (va, vb), vuse := [vd, va, vb] } : Hdr), (0 : Word))
  let uses := fun (sw ok : Bool) (vs : List VReg) => some (({ sw := sw, etype := ok, vuse := vs } : Hdr), (0 : Word))
  match i with
  | .vaddFp sw vd va vb et _ _ | .vsubFp sw vd va vb et _ _ | .vmulFp sw vd va vb et _ _ | .vdiv sw vd va vb et _ _
  | .vminFp sw vd va vb et _ _ | .vmaxFp sw vd va vb et _ _ => two sw et.isFloat vd va vb
  | .vfma sw vd va vb vc et _ _ | .vfnma sw vd va vb vc et _ _ =>
    some ({ sw := sw, etype := et.isFloat, vpair := some (va, vb), vuse := [vd, va, vb, vc] }, 0)
  | .vsqrt sw vd va et _ _ | .vrsq sw vd va et _ _ | .vabsFp sw vd va et _ _ | .vnegFp sw vd va et _ _ => uses sw et.isFloat [vd, va]
  | .vexp2 sw vd va et _ _ | .vlog2 sw vd va et _ _ => uses sw (et.isFloat && et != .f64) [vd, va]
  | .vaddInt sw vd va vb et _ _ | .vsubInt sw vd va vb et _ _ | .vmulInt sw vd va vb et _ _ | .vminInt sw vd va vb et _ _
  | .vmaxInt sw vd va vb et _ _ | .vminu sw vd va vb et _ _ | .vmaxu sw vd va vb et _ _ | .vand sw vd va vb et _ _
  | .vor sw vd va vb et _ _ | .vxor sw vd va vb et _ _ | .vshl sw vd va vb et _ _ | .vshr sw vd va vb et _ _
  | .vsra sw vd va vb et _ _ => two sw (!et.isFloat) vd va vb
  | .vabsInt sw vd va et _ _ | .vnegInt sw vd va et _ _ | .vnot sw vd va et _ _ => uses sw (!et.isFloat) [vd, va]
  | .vbc sw vd s _ _ _ => some ({ sw := sw, extra := [s], vuse := [vd] }, t.src s)
  | .vext sw va s _ _ => some ({ sw := sw, extra := [s], push := true, vuse := [va] }, t.src s)
  | .vmov sw vd va _ _ _ | .vscan sw vd va _ _ _ _ | .vcmpr sw vd va _ _ _ | .vexpd sw vd va _ _ _ | .vamax sw vd va _ _ _ =>
    uses sw true [vd, va]
  | .vcmp sw _ va vb _ _ _ _ => some ({ sw := sw, vpair := some (va, vb), vuse := [va, vb] }, 0)
  | .vsel sw vd va vb _ _ _ | .vperm sw vd va vb _ _ _ => two sw true vd va vb
  | .vcvt sw vd va p tg et _ _ =>
    uses sw (tg != et && decide (p.toNat < max et.bytes tg.bytes / min et.bytes tg.bytes)) [vd, va]
  | .vcvtz sw vd va p tg et _ _ =>
    uses sw (et.isFloat && !tg.isFloat && decide (p.toNat < max et.bytes tg.bytes / min et.bytes tg.bytes)) [vd, va]
  | .vred sw va _ _ _ _ => some ({ sw := sw, push := true, vuse := [va] }, 0)
  | .viota sw vd _ _ _ | .vflrd sw vd _ _ => uses sw true [vd]
  | .vcnt sw _ _ _ => some ({ sw := sw, push := true }, 0)
  | .vmsk sw _ va _ op _ _ => uses sw true (if op = .nz then [va] else [])
  | .vqnt sw vd va _ _ et _ _ | .vdq sw vd va _ _ et _ _ => uses sw et.isFloat [vd, va]
  | .vflcl sw _ _ => uses sw true []
  | _ => none

/-- The operands of a vector instruction that do not raise ILLEGAL_OPERAND at its issue: a lane of VEXT (R231), and the form of an
image (R241, R242). -/
def Thread.vecOk (t : Thread) (i : Instr) : Prop :=
  match i with
  | .vext _ _ s et _ => (t.src s).toNat < et.lanes
  | .vqnt _ _ _ raw nf _ _ _ | .vdq _ _ _ raw nf _ _ _ => raw = 1 ∨ (raw = 0 ∧ nf ≠ .nat8)
  | _ => True

/-- s with these vector registers, predicates and flags in the issuing thread. -/
def State.withVec (s : State) (t : Thread) : State :=
  s.withMe fun u => { u with vec := t.vec, pred := t.pred, vflags := t.vflags }

/-- An integer vector instruction and the result of a lane from those of va and vb (R224). -/
def vintRows : List ((Bool → VReg → VReg → VReg → EType → Mask → Bool → Instr) × ((n : Nat) → BitVec n → BitVec n → BitVec n)) :=
  [(.vaddInt, fun _ a b => a + b), (.vsubInt, fun _ a b => a - b), (.vmulInt, fun _ a b => a * b),
   (.vminInt, fun _ a b => if a.toInt < b.toInt then a else b), (.vmaxInt, fun _ a b => if a.toInt < b.toInt then b else a),
   (.vminu, fun _ a b => if a.toNat < b.toNat then a else b), (.vmaxu, fun _ a b => if a.toNat < b.toNat then b else a),
   (.vand, fun _ a b => a &&& b), (.vor, fun _ a b => a ||| b), (.vxor, fun _ a b => a ^^^ b),
   (.vshl, fun n a b => a <<< (b.toNat % n)), (.vshr, fun n a b => a >>> (b.toNat % n)),
   (.vsra, fun n a b => a.sshiftRight (b.toNat % n)),
   (fun sw vd va _ => .vabsInt sw vd va, fun _ a _ => if a.toInt < 0 then -a else a),
   (fun sw vd va _ => .vnegInt sw vd va, fun _ a _ => -a), (fun sw vd va _ => .vnot sw vd va, fun _ a _ => ~~~a)]

/-- A floating-point vector instruction and the result of a lane from those of va and vb (R223). -/
def vfpRows : List ((Bool → VReg → VReg → VReg → EType → Mask → Bool → Instr) × (FFmt → RMode → Nat → Nat → FRes)) :=
  [(.vaddFp, fun F rm a b => F.add rm (F.value a) (F.value b)), (.vsubFp, fun F rm a b => F.sub rm (F.value a) (F.value b)),
   (.vmulFp, fun F rm a b => F.mul rm (F.value a) (F.value b)), (.vdiv, fun F rm a b => F.div rm (F.value a) (F.value b)),
   (.vminFp, fun F _ a b => F.minmax false a b), (.vmaxFp, fun F _ a b => F.minmax true a b),
   (fun sw vd va _ => .vsqrt sw vd va, fun F rm a _ => F.sqrt rm (F.value a)),
   (fun sw vd va _ => .vrsq sw vd va, fun F _ a _ => F.rsqrt (F.value a)),
   (fun sw vd va _ => .vexp2 sw vd va, fun F _ a _ => F.exp2 (F.value a)),
   (fun sw vd va _ => .vlog2 sw vd va, fun F _ a _ => F.log2 (F.value a)),
   (fun sw vd va _ => .vabsFp sw vd va, fun F _ a _ => if (F.value a).isNan then (F.nan, 0) else (a % F.signBit, 0)),
   (fun sw vd va _ => .vnegFp sw vd va, fun F _ a _ =>
      if (F.value a).isNan then (F.nan, 0) else (if a < F.signBit then a + F.signBit else a - F.signBit, 0))]

/-- Every lane of vd that the mask makes active holds f, the other lanes and registers and the predicates are as before. -/
structure LanesBecome (t : Thread) (vd : VReg) (et : EType) (m : Mask) (f : Nat → Nat) (r : Thread) : Prop where
  lanes : ∀ i < et.lanes, r.lane vd et i = if t.active m i then f i else t.lane vd et i
  others : ∀ v, v ≠ vd → r.vec[v] = t.vec[v]
  pred : r.pred = t.pred

/-- The flags that the lanes i < 256 / w raise are in the slots that hold the lanes, with those of t, unless Q = 1 (R37, R216). -/
def FlagsRaised (t : Thread) (w : Nat) (q : Bool) (f : Nat → FlagSet) (r : Thread) : Prop :=
  ∀ slot < 32, ∀ bit < 5, (r.flagSlot slot).testBit bit = ((t.flagSlot slot).testBit bit ||
    (!q && (List.range (256 / w)).any fun i => i * w / 8 == slot && (f i).getLsbD bit))

/-- The lanes of width w of vd that f gives become what it gives and raise its flags; the other lanes and registers and the predicates
are as before. -/
structure LanesWrite (t : Thread) (vd : VReg) (w : Nat) (q : Bool) (f : Nat → Option FRes) (r : Thread) : Prop where
  lanes : ∀ i < 256 / w, vlane r.vec[vd] w i = ((f i).map (·.1)).getD (vlane t.vec[vd] w i)
  others : ∀ v, v ≠ vd → r.vec[v] = t.vec[v]
  pred : r.pred = t.pred
  flags : FlagsRaised t w q (fun i => ((f i).map (·.2)).getD 0) r

/-- The running results over lanes x 0, x 1, … of an etype (R237, R238): the first is the lane, or the canonical NaN with NV for one
that signals, and each later one takes in the next lane. -/
structure Accumulates (et : EType) (next : Nat → Nat → FRes) (x : Nat → Nat) (acc : Nat → FRes) : Prop where
  first : acc 0 = if et.isFloat = true ∧ (et.fmt.value (x 0)).isNan = true then
    (et.fmt.nan, if (et.fmt.value (x 0)).signals then flagNV else 0) else (x 0, 0)
  later : ∀ k, acc (k + 1) = next (acc k).1 (x (k + 1))

/-! ### What an instruction makes of the package -/

/-- The instruction of header h made the package c, and moved the pc by 4. -/
def Does (s : State) (h : Hdr) (c : Chip) (t : State) : Prop :=
  t = s.put (c.modThread s.chip.cur fun u => u.retire h (u.pc + 4))

/-- The n bytes at va, which the instruction reads at its issue, are there: an earlier read brought them, or no earlier acquire or
write to them of the thread stands, their page is here, and neither a copy of them that an L1 or a host
holds nor a line of their tables that a host holds (R246, R362). -/
def State.early (s : State) (va : Word) (n : Nat) (bs : List Byte) : Prop :=
  bs.length = n ∧ (s.me.entryRec = bs ∨ s.me.entryRec.length ≠ n ∧
    let self := s.opOf { opA := va } (.early va n false)
    (∀ o ∈ s.chip.ops, o.tid = s.chip.cur → o.body.acquires = false ∧
      (o.body.writes = true → ∀ r ∈ o.body.touches, s.chip.overlap self o (va, n) r = false)) ∧
    s.chip.walkHeld s.myCore s.me.part s.me.asid [(va, n)] = [] ∧
    ∃ ps, s.chip.runs self .read (cutRun (va, n)) = .ok ps ∧ let keys := hereKeys ps
      keys.length = n ∧ s.chip.poisoned keys = false ∧ s.chip.hostHolds keys true = false ∧ (∀ a ∈ keys, s.chip.hostOnly a = false) ∧
      (∀ a ∈ keys, Table.get? (s.chip.core s.myCore).stale (lineOf a) = none) ∧ bs = keys.map s.chip.mem.byte)

/-- Operation o has ended with this result: it is gone, its slot, its named register and its flags have the result if it left one
(R32, R33, R98), and its counter, if it has one that is not 0, has gone down by 1 (R90). -/
structure Ends (s : State) (o : Op) (v : Word) (flags : BitVec 5) (t : State) : Prop where
  ops : t.chip.ops = s.chip.ops.filter fun q => q.id != o.id
  thread : (t.chip.thread o.tid).regs =
    (if o.push then (s.chip.thread o.tid).receive o.id o.named v flags else s.chip.thread o.tid).regs
  queue : (t.chip.thread o.tid).queue =
    if o.push then fillSlot (s.chip.thread o.tid).queue o.id v else (s.chip.thread o.tid).queue
  pc : (t.chip.thread o.tid).pc = (s.chip.thread o.tid).pc
  others : ∀ j, j ≠ o.tid → (t.chip.thread j).regs = (s.chip.thread j).regs ∧ (t.chip.thread j).pc = (s.chip.thread j).pc ∧
    (t.chip.thread j).queue = (s.chip.thread j).queue
  counters : ∀ k n, t.counter k n = s.counter k n -
    if k = coreOf o.tid ∧ o.cc = some n ∧ s.counter k n ≠ 0 then 1 else 0
  local_ : ∀ k, (t.chip.core k).scratch = (s.chip.core k).scratch ∧ (t.chip.core k).acc = (s.chip.core k).acc
  reqs : t.chip.reqs = s.chip.reqs
  trust : t.trust = s.trust

/-- The tile request r arrives at its home in the space sp of this package: it travels, and no earlier request of its thread to its
name, no access before it in its thread and no sweep stands, and its partition has a slice, of the die that the space is pinned to where it
is (R20, R101, R139, R283, R295, R398). -/
structure Chip.Arrives (c : Chip) (r : Req) (sp : Space) : Prop where
  req : c.req? r.id = some r
  unique : ∀ q ∈ c.reqs, q.id = r.id → q = r
  travelling : r.phase = .travelling
  order : c.outOfOrder r = false
  forked : c.forked r = true
  swept : c.swept r = true
  space : c.space? r.part r.space = some sp
  home : sp.home ≠ 2
  sliced : ∃ k ∈ c.slices sp.part, sp.home = 1 → k / 16 = sp.die
  alias_ : c.aliasApart r sp = none

/-- The tile request r is refused with this cause: it is gone, and the thread of its operation owes the trap, or the peer that sent
it is told (R23, R102). -/
def Refused (s : State) (r : Req) (cause : Cause) (t : State) : Prop :=
  t.chip.req? r.id = none ∧ match r.origin with
  | .op id => ∀ o, s.chip.op? id = some o → s.chip.owned o = true → o.body.isEarly = false →
      t.chip.op? id = none ∧ ∃ x ∈ (t.chip.thread o.tid).owed, x.id = o.id ∧ x.cause = cause
  | .peer dev tag => t.chip.sent = s.chip.sent ++ [.rsp dev tag (.refused cause)]
  | _ => True

/-- The request of operation id is answered with v: it is gone, and the operation ends with that result. -/
def Answered (s : State) (r : Req) (id : Nat) (v : Word) (t : State) : Prop :=
  t.chip.req? r.id = none ∧ ∀ o, s.chip.op? id = some o → t.chip.op? id = some { o with ready := true, result := v }

/-- Version v of name n is stored now: the entry is PENDING with these uses, header and bytes (R105, R111). -/
def Stored (r : Req) (bytes : List Byte) (t : State) : Prop :=
  (t.chip.req? r.id).map Req.phase = some .pending ∧
  ∃ e, t.chip.entry? r.name r.version = some e ∧ e.state = .pending ∧ e.header = r.header ∧ e.asid = r.asid ∧ e.uses = r.body.uses ∧
    t.chip.extentBytes e.extent = bytes

/-! ### Trust (R418) -/

/-- The measurement registers that nothing extends read as zero. -/
def Trust.unused (t : Trust) : Prop := t.meas[5] = 0 ∧ t.meas[6] = 0 ∧ t.meas[7] = 0

/-- A measurement register is another, extended any number of times. -/
inductive Extended (m : BitVec 512) : BitVec 512 → Prop
  | same : Extended m m
  | extend (n : BitVec 512) (data : List Byte) : Extended m n → Extended m (extendMeas n data)

end Sys2Proof.Machine
end

