-- ==== Sys2Proof/WellFormed.lean ====
section
/-!
DEFINITION. Well-formed instructions: what the encodings of R46 to R52 demand of operands beyond their types, and what
the events demand of the names they carry.
-/

namespace Sys2Proof

/-- An instruction is well formed. -/
def Instr.wf : Instr → Bool
  | .nop .. => true
  | .trap .. => true
  | .tret .. => true
  | .genbump .. => true
  | .pgdone .. => true
  | .pqui .. => true
  | .pres .. => true
  | .cflush .. => true
  | .celfl .. => true
  | .add .. => true
  | .sub .. => true
  | .mul .. => true
  | .mulh .. => true
  | .mulhu .. => true
  | .div .. => true
  | .divu .. => true
  | .rem .. => true
  | .remu .. => true
  | .and .. => true
  | .or .. => true
  | .xor .. => true
  | .andn .. => true
  | .shl .. => true
  | .shr .. => true
  | .sra .. => true
  | .ror .. => true
  | .slt .. => true
  | .sltu .. => true
  | .seq .. => true
  | .min .. => true
  | .max .. => true
  | .minu .. => true
  | .maxu .. => true
  | .clz .. => true
  | .ctz .. => true
  | .popc .. => true
  | .sext .. => true
  | .zext .. => true
  | .addi .. => true
  | .andi .. => true
  | .ori .. => true
  | .xori .. => true
  | .shli .. => true
  | .shri .. => true
  | .srai .. => true
  | .slti .. => true
  | .sltiu .. => true
  | .ldi .. => true
  | .ldpc .. => true
  | .hmake .. => true
  | .hidx .. => true
  | .hver .. => true
  | .hfld .. => true
  | .br _ cond _ b _ => (cond != .z && cond != .nz) || b == .q 0
  | .j .. => true
  | .call .. => true
  | .jr .. => true
  | .jrCall .. => true
  | .ld .. => true
  | .st .. => true
  | .ldl .. => true
  | .stl .. => true
  | .amoAdd .. => true
  | .amoAnd .. => true
  | .amoOr .. => true
  | .amoXor .. => true
  | .amoMin .. => true
  | .amoMax .. => true
  | .amoMinu .. => true
  | .amoMaxu .. => true
  | .amoSwap .. => true
  | .amoFaddF32 .. => true
  | .amoFaddF64 .. => true
  | .cas .. => true
  | .fncFull _ a b all mask _ => mask != 0 && (!all || (a == .q 0 && b == .q 0))
  | .fncAcq _ a b all mask _ => mask != 0 && (!all || (a == .q 0 && b == .q 0))
  | .fncRel _ a b all mask _ => mask != 0 && (!all || (a == .q 0 && b == .q 0))
  | .fncReg _ a b all mask _ => mask.getLsbD 1 && (!all || (a == .q 0 && b == .q 0))
  | .pref .. => true
  | .mwait .. => true
  | .cwait .. => true
  | .cinc .. => true
  | .crd .. => true
  | .fadd .. => true
  | .fsub .. => true
  | .fmul .. => true
  | .fdiv .. => true
  | .fsqrt .. => true
  | .fma .. => true
  | .fmin .. => true
  | .fmax .. => true
  | .fcmp .. => true
  | .fcvt .. => true
  | .fclass .. => true
  | .vaddFp .. => true
  | .vsubFp .. => true
  | .vmulFp .. => true
  | .vfma .. => true
  | .vfnma .. => true
  | .vdiv .. => true
  | .vsqrt .. => true
  | .vrsq .. => true
  | .vexp2 .. => true
  | .vlog2 .. => true
  | .vminFp .. => true
  | .vmaxFp .. => true
  | .vabsFp .. => true
  | .vnegFp .. => true
  | .vaddInt .. => true
  | .vsubInt .. => true
  | .vmulInt .. => true
  | .vminInt .. => true
  | .vmaxInt .. => true
  | .vminu .. => true
  | .vmaxu .. => true
  | .vabsInt .. => true
  | .vnegInt .. => true
  | .vand .. => true
  | .vor .. => true
  | .vxor .. => true
  | .vnot .. => true
  | .vshl .. => true
  | .vshr .. => true
  | .vsra .. => true
  | .vld .. => true
  | .vst .. => true
  | .vldg .. => true
  | .vstg .. => true
  | .vgath .. => true
  | .vscat .. => true
  | .vbc .. => true
  | .vext .. => true
  | .vmov .. => true
  | .vcmp .. => true
  | .vsel .. => true
  | .vcvt .. => true
  | .vred .. => true
  | .vscan .. => true
  | .vcmpr .. => true
  | .vexpd .. => true
  | .vperm .. => true
  | .viota .. => true
  | .vcnt .. => true
  | .vmsk _ _ _ vb op _ _ => (op != .not && op != .nz && op != .first) || vb == 0
  | .vamax .. => true
  | .vqnt .. => true
  | .vdq .. => true
  | .vflrd .. => true
  | .vflcl .. => true
  | .vcvtz .. => true
  | .tld .. => true
  | .tldv .. => true
  | .tst .. => true
  | .tstv .. => true
  | .talias .. => true
  | .twait .. => true
  | .tprobe .. => true
  | .tadd .. => true
  | .trel .. => true
  | .tdig .. => true
  | .tinfo .. => true
  | .tspace .. => true
  | .timp .. => true
  | .texp .. => true
  | .mset .. => true
  | .mget .. => true
  | .mldb .. => true
  | .mmul .. => true
  | .mclr .. => true
  | .mrd _ _ _ _ _ f => f != 0
  | .mrdTile .. => true
  | .mwr .. => true
  | .mred .. => true
  | .mscr .. => true
  | .mscc .. => true
  | .mcmp .. => true
  | .mstat .. => true
  | .cset .. => true
  | .cpy .. => true
  | .cpyg .. => true
  | .cpygOut .. => true
  | .cpyd .. => true
  | .cpydLoc .. => true
  | .cfil .. => true
  | .cfilG .. => true
  | .spawn .. => true
  | .spawnp .. => true
  | .spawng .. => true
  | .quit .. => true
  | .join .. => true
  | .trig .. => true
  | .yield .. => true
  | .sleep .. => true
  | .ppt .. => true
  | .ctlrd .. => true
  | .ctlwr .. => true
  | .resultReturn .. => true
  | .barrelIssueSlot core => decide (core < 512)
  | .counterFullRelease t => decide (t < 8192)
  | .engineCompletion .. => true
  | .mwaitWake .. => true
  | .sleepWake t => decide (t < 8192)
  | .tileStoreRegister .. => true
  | .waitingStoreRelease .. => true
  | .publication .. => true
  | .tileLoadRegister .. => true
  | .tileUseChangeRegister .. => true
  | .tileProbeRegister .. => true
  | .headCreate .. => true
  | .waiterRecordFree .. => true
  | .tileLoadComplete .. => true
  | .timpGatherComplete .. => true
  | .taliasSourceServed .. => true
  | .mldbStart .. => true
  | .mmulStart .. => true
  | .mmulSquash .. => true
  | .mmulCommit .. => true
  | .copyUnit .. => true
  | .copyComplete .. => true
  | .copyQueueAdmit t => decide (t < 8192)
  | .cpydLocArrival .. => true
  | .cellarLookup .. => true
  | .celkeyRotate => true
  | .digestSweepDone p => decide (p < 20)
  | .scrubError .. => true
  | .diePoolMove a b => decide (a < 8 ∧ b < 8)
  | .gangReserve .. => true
  | .graphEnd .. => true
  | .watchdog .. => true
  | .launchVersionServed .. => true
  | .statusWordWrite => true
  | .slottabWrite .. => true
  | .slotStartDue p k => decide (p < 20 ∧ k < 64)
  | .trapPost t => decide (t < 8192)
  | .handlerStart p => decide (p < 20)
  | .pageFaultPost .. => true
  | .faultRecordRepost p => decide (p < 20)
  | .pagerStart p _ => decide (p < 20)
  | .preemptRequest .. => true
  | .saveWrite t => decide (t < 8192)
  | .saveComplete t => decide (t < 8192)
  | .restore _ core => decide (core < 512)
  | .genConfirm _ core => decide (core < 512)
  | .dupCollapse _ die => decide (die < 8)
  | .granuleRecall .. => true
  | .ptbaseWrite .. => true
  | .asidWrite .. => true
  | .trapsaveWrite .. => true
  | .hearthWrite .. => true
  | .trapvecWrite .. => true
  | .pagertabWrite .. => true
  | .fbstatusWrite .. => true
  | .celquotaWrite .. => true
  | .ptpctlWrite .. => true
  | .fflagsWrite .. => true
  | .vcsrWrite .. => true
  | .partCtlSelWrite .. => true
  | .create => true
  | .commit => true
  | .merge => true
  | .destroy => true
  | .partitionQuiesced p => decide (p < 20)
  | .pquiTimeout .. => true
  | .pub vf _ w => decide (vf < 128) && w.all fun e => decide (e.1 < 512)
  | .vfLtolWrite vf _ => decide (vf < 128)
  | .snpData .. => true
  | .snpInv .. => true
  | .snpCur .. => true
  | .hostMemRequest .. => true
  | .birsp .. => true
  | .hdmDecoderCommit d _ _ => decide (d < 4)
  | .linkReqReceive _ p _ _ => decide (p < 20)
  | .linkRspReceive .. => true
  | .arrivalNotice .. => true
  | .linkAtomReceive _ p _ _ => decide (p < 20)
  | .linkFenceReceive _ p _ => decide (p < 20)
  | .linkMgmtReceive .. => true
  | .linkDown k => decide (k < 36)
  | .linkWidthRequest k n _ => decide (k < 36 ∧ (n = 2 ∨ n = 4 ∨ n = 8))
  | .linkFreqChange k _ => decide (k < 36)
  | .ptpUpdate p _ => decide (p < 20)
  | .dieStateEntry d => decide (d < 8)
  | .dieWake d => decide (d < 8)
  | .packageReset .. => true
  | .evidenceRequest .. => true
  | .firmwareStage .. => true
  | .notAnInstruction .. => true
  | .writePerformed .. => true
  | .laneFailure k => decide (k < 36)
  | .cxlLinkDown p => decide (p < 3)

end Sys2Proof
end

