-- ==== Sys2Proof/Certificates/Slice0/Obligations.lean ====
section
/-!
DEFINITION. The statements for the provers.
-/

open Sys2Proof Sys2Proof.Machine

/-! ### The decoder's checks, integers, immediates, literals and handles -/

/-- R40 to R45: a two-source integer instruction whose queue sources have the same age parity, or whose named sources the same index
parity, raises ILLEGAL_BANK; else, if it reads an age that its group pushed or a name other than n0 that its group writes, or writes
such a name, GROUP_HAZARD. It then has no effect but the trap, whose record takes its operands once they are there (R303). If it passes, IntResults says its effect, and it is counted in its
group, unless S ends the group. -/
def Obligations.DecoderChecks : Prop :=
  ∀ (s : State) (sw w : Bool) (d : Dest) (a b : Src), s.me.live = true →
    let written := fun (i : Fin 16) => i ≠ 0 ∧ s.me.written.getLsbD i = true
    let clash : Prop := match a, b with
      | .q i, .q j | .n i, .n j => i.val % 2 = j.val % 2
      | _, _ => False
    let early := fun (x : Src) => match x with
      | .q i => i.val < s.me.pushes
      | .n i => written i
    let hazard := early a ∨ early b ∨ ∃ i, d = some i ∧ written i
    let traps := fun (cause : Cause) (t : State) => Traps s (s.trapOf cause 0 (s.val a) (s.val b) 0 true d sw (some a, some b)) t
    ∀ row ∈ intRows, ∃ t, exec (row.1 sw d a b w) s = .next t ∧
      (clash → traps .illegalBank t) ∧ (¬clash → hazard → traps .groupHazard t) ∧
      (¬clash → ¬hazard → s.clear { sw := sw, pair := [a, b], dest := d, push := true } ∧ t.me.marker = sw ∧
        t.me.pushes = (if sw then 0 else s.me.pushes + 1) ∧
        ∀ i : Fin 16, t.me.written.getLsbD i = (!sw && (s.me.written.getLsbD i || d == some i)))

/-- R61, R63: every two-source integer instruction but the divisions pushes the result of its row of the table, at width 64,
or with .w of the low 32 bits and sign-extended; it raises no flag and changes nothing else. -/
def Obligations.IntResults : Prop :=
  ∀ (s : State) (sw w : Bool) (d : Dest) (a b : Src), s.clear { sw := sw, pair := [a, b], dest := d, push := true } →
    ∀ row ∈ intRows, ∃ t, exec (row.1 sw d a b w) s = .next t ∧ Pushes s d (atWidth w row.2 (s.val a) (s.val b)) 0 t

/-- R61, R64: division never traps; a divisor of zero gives all ones and the remainder a, the most negative value by −1
gives itself and 0, and every other quotient is rounded toward zero, with the remainder's sign that of a. -/
def Obligations.Division : Prop :=
  ∀ (s : State) (sw w : Bool) (d : Dest) (a b : Src), s.clear { sw := sw, pair := [a, b], dest := d, push := true } →
    let q := fun (f : (n : Nat) → BitVec n → BitVec n → BitVec n) (t : State) =>
      Pushes s d (atWidth w f (s.val a) (s.val b)) 0 t
    (∃ t, exec (.div sw d a b w) s = .next t ∧
      q (fun n x y => if y = 0 then BitVec.ofInt n (-1) else BitVec.ofInt n (x.toInt.tdiv y.toInt)) t) ∧
    (∃ t, exec (.divu sw d a b w) s = .next t ∧
      q (fun n x y => if y = 0 then BitVec.ofNat n (2 ^ n - 1) else BitVec.ofNat n (x.toNat / y.toNat)) t) ∧
    (∃ t, exec (.rem sw d a b w) s = .next t ∧ q (fun n x y => if y = 0 then x else BitVec.ofInt n (x.toInt.tmod y.toInt)) t) ∧
    (∃ t, exec (.remu sw d a b w) s = .next t ∧ q (fun n x y => if y = 0 then x else BitVec.ofNat n (x.toNat % y.toNat)) t)

/-- R61, R62: CLZ counts the bits above the highest one, CTZ those below the lowest, POPC the ones, at either width. R61, R62: SEXT
and ZEXT extend bits k − 1 to 0 of a for k from 1 to the width, and raise ILLEGAL_OPERAND for any other k. -/
def Obligations.BitFunctions : Prop :=
  (∀ (s : State) (sw w : Bool) (d : Dest) (a : Src), s.clear { sw := sw, pair := [a], dest := d, push := true } →
      let n := if w then 32 else 64
      let x := (s.val a).toNat % 2 ^ n
      (∃ t k, exec (.clz sw d a w) s = .next t ∧ Pushes s d (BitVec.ofNat 64 k) 0 t ∧
        k ≤ n ∧ x < 2 ^ (n - k) ∧ (k < n → 2 ^ (n - k - 1) ≤ x)) ∧
      (∃ t k, exec (.ctz sw d a w) s = .next t ∧ Pushes s d (BitVec.ofNat 64 k) 0 t ∧
        k ≤ n ∧ x % 2 ^ k = 0 ∧ (k < n → x / 2 ^ k % 2 = 1)) ∧
      ∃ t, exec (.popc sw d a w) s = .next t ∧
        Pushes s d (BitVec.ofNat 64 ((List.range n).countP fun i => x / 2 ^ i % 2 == 1)) 0 t) ∧
  (∀ (s : State) (sw w : Bool) (d : Dest) (a b : Src), s.clear { sw := sw, pair := [a, b], dest := d, push := true } →
      let n := if w then 32 else 64
      let k := (s.val b).toNat % 2 ^ n
      let low : Nat := (s.val a).toNat % 2 ^ k
      if 1 ≤ k ∧ k ≤ n then
        (∃ t, exec (.sext sw d a b w) s = .next t ∧
          Pushes s d (if 2 ^ (k - 1) ≤ low then BitVec.ofInt 64 ((low : Int) - (2 ^ k : Nat)) else BitVec.ofNat 64 low) 0 t) ∧
        ∃ t, exec (.zext sw d a b w) s = .next t ∧
          Pushes s d (if w then (BitVec.ofNat 32 low).signExtend 64 else BitVec.ofNat 64 low) 0 t
      else
        (∃ t, exec (.sext sw d a b w) s = .next t ∧ Traps s (s.trapOf .illegalOperand 0 (s.val a) (s.val b) 0 true d sw) t) ∧
        ∃ t, exec (.zext sw d a b w) s = .next t ∧ Traps s (s.trapOf .illegalOperand 0 (s.val a) (s.val b) 0 true d sw) t)

/-- R65: an immediate instruction combines a with imm15 sign-extended, or shifts a by a 6-bit amount. R66, R47: LDI pushes imm20
sign-extended. LDPC reads the 64-bit word at pc + 4·imm20 through the instruction path, and raises ALIGN where that address is
not a multiple of 8. -/
def Obligations.ImmediatesAndLiterals : Prop :=
  (∀ (s : State) (sw : Bool) (d : Dest) (a : Src), s.clear { sw := sw, pair := [a], dest := d, push := true } →
      (∀ row ∈ immRows, ∀ i : BitVec 15, ∃ t, exec (row.1 sw d a i) s = .next t ∧ Pushes s d (row.2 (s.val a) (i.signExtend 64)) 0 t) ∧
      ∀ row ∈ shiftRows, ∀ n : BitVec 6, ∃ t, exec (row.1 sw d a n) s = .next t ∧ Pushes s d (row.2 (s.val a) n.toNat) 0 t) ∧
  (∀ (s : State) (sw : Bool) (d : Dest) (i : BitVec 20), s.clear { sw := sw, dest := d, push := true } →
      let va := s.me.pc + i.signExtend 64 * 4
      (∃ t, exec (.ldi sw d i) s = .next t ∧ Pushes s d (i.signExtend 64) 0 t) ∧
      ∃ t, exec (.ldpc sw d i) s = .next t ∧
        if va.toNat % 8 = 0 then Begins s { push := true, named := d } (.load va 8 false true) (s.me.pc + 4) [] t
        else Traps s (s.trapOf .align 0 0 0 va true d sw) t)

/-- R68: HIDX adds b, as a signed amount, to the index of a modulo 2^28, and HVER to its version modulo 2^16; neither checks
anything, and the other fields of the handle stay. R69: HFLD pushes the field of the handle a that b names, and raises
ILLEGAL_OPERAND for b above 7. R67: HMAKE pushes a[63:44] with b[43:0]; a reserved format, a block length other than 0 and 3, or
a block length of 3 with a format other than TS8, E4M3, E5M2, INT8 or INT4 raises BAD_HANDLE. -/
def Obligations.Handles : Prop :=
  (∀ (s : State) (sw : Bool) (d : Dest) (a b : Src), s.clear { sw := sw, pair := [a, b], dest := d, push := true } →
      let h := s.val a
      (∃ t v, exec (.hidx sw d a b) s = .next t ∧ Pushes s d v 0 t ∧ v.extractLsb' 44 20 = h.extractLsb' 44 20 ∧
        v.extractLsb' 16 28 = h.extractLsb' 16 28 + BitVec.ofInt 28 (s.val b).toInt ∧ v.extractLsb' 0 16 = h.extractLsb' 0 16) ∧
      ∃ t v, exec (.hver sw d a b) s = .next t ∧ Pushes s d v 0 t ∧ v.extractLsb' 16 48 = h.extractLsb' 16 48 ∧
        v.extractLsb' 0 16 = h.extractLsb' 0 16 + BitVec.ofInt 16 (s.val b).toInt) ∧
  (∀ (s : State) (sw : Bool) (d : Dest) (a b : Src), s.clear { sw := sw, pair := [a, b], dest := d, push := true } →
      let h := (s.val a).toNat
      let cut := fun (hi lo : Nat) => h / 2 ^ lo % 2 ^ (hi + 1 - lo)
      let field := [cut 63 59, cut 58 56, cut 55 52, cut 51 44, cut 43 16, cut 15 0, 8 * 2 ^ cut 55 54, 8 * 2 ^ cut 53 52]
      ∃ t, exec (.hfld sw d a b) s = .next t ∧
        match field[(s.val b).toNat]? with
        | some v => Pushes s d (BitVec.ofNat 64 v) 0 t
        | none => Traps s (s.trapOf .illegalOperand 0 (s.val a) (s.val b) 0 true d sw) t) ∧
  (∀ (s : State) (sw : Bool) (d : Dest) (a b : Src), s.clear { sw := sw, pair := [a, b], dest := d, push := true } →
      let fmt := (s.val a).toNat / 2 ^ 59
      let blk := (s.val a).toNat / 2 ^ 56 % 8
      ∃ t, exec (.hmake sw d a b) s = .next t ∧
        if fmt = 8 ∨ 16 ≤ fmt ∨ (blk ≠ 0 ∧ blk ≠ 3) ∨ (blk = 3 ∧ fmt ∉ [7, 5, 6, 12, 13]) then
          Traps s (s.trapOf .badHandle 0 (s.val a) (s.val b) 0 true d sw) t
        else ∃ v, Pushes s d v 0 t ∧ v.extractLsb' 44 20 = (s.val a).extractLsb' 44 20 ∧ v.extractLsb' 0 44 = (s.val b).extractLsb' 0 44)

/-! ### Control flow -/

/-- R70, R47: BR goes to pc + 4·disp12 if its condition holds for a and b, else to pc + 4; it pushes nothing, writes nothing, and
ends its group. -/
def Obligations.Branch : Prop :=
  ∀ (s : State) (sw : Bool) (a b : Src) (disp : BitVec 12) (k : Cond),
    s.clear { sw := sw, pair := if k = .z ∨ k = .nz then [a] else [a, b], ends := true } →
    let x := s.val a
    let y := s.val b
    let taken : Prop := match k with
      | .eq => x = y | .ne => x ≠ y
      | .lt => x.toInt < y.toInt | .ge => y.toInt ≤ x.toInt
      | .ltu => x.toNat < y.toNat | .geu => y.toNat ≤ x.toNat
      | .z => x = 0 | .nz => x ≠ 0
    ∃ t, exec (.br sw k a b disp) s = .next t ∧
      (taken → Moves s (s.me.pc + disp.signExtend 64 * 4) t) ∧ (¬taken → Moves s (s.me.pc + 4) t) ∧ t.me.marker = true

/-- R71, R47: J goes to pc + 4·disp25, JR to the value of its source, and CALL and JR with F = 1 push the address of the next
instruction on the way and write it to n15; a target of JR that is not a multiple of 4 raises ALIGN. -/
def Obligations.Jumps : Prop :=
  ∀ (s : State) (sw : Bool) (a : Src) (disp : BitVec 25),
    let dst := s.me.pc + disp.signExtend 64 * 4
    let link := Begins s { push := true, named := some 15 } (.value (s.me.pc + 4) 0)
    let aligned := (s.val a).toNat % 4 = 0
    (s.clear { sw := sw, ends := true } → ∃ t, exec (.j sw disp) s = .next t ∧ Moves s dst t ∧ t.me.marker = true) ∧
    (s.clear { sw := sw, push := true, links := true, ends := true } →
      ∃ t, exec (.call sw disp) s = .next t ∧ link dst [] t ∧ t.me.marker = true) ∧
    (s.clear { sw := sw, pair := [a], ends := true } → ∃ t, exec (.jr sw a) s = .next t ∧
      if aligned then Moves s (s.val a) t else Traps s (s.trapOf .align 0 (s.val a) 0 (s.val a) false none true) t) ∧
    (s.clear { sw := sw, pair := [a], push := true, links := true, ends := true } → ∃ t, exec (.jrCall sw a) s = .next t ∧
      if aligned then link (s.val a) [] t else Traps s (s.trapOf .align 0 (s.val a) 0 (s.val a) true none true) t)

/-! ### Scalar floating point -/

/-- R91 to R93, R96: an FP instruction that rounds pushes its operation on the values of its operands in its precision, with the
operation's flags, under the mode of its field or, for dyn, of FFLAGS. FMA takes its third source from the D field. It rests on the
model's choices of log 59. -/
def Obligations.FpArith : Prop :=
  ∀ (s : State) (sw : Bool) (d : Dest) (a b e : Src) (rm : Rnd) (p : Prec),
    let pushes := fun (i : Instr) (d : Dest) (r : FRes) => ∃ t, exec i s = .next t ∧ Pushes s d (BitVec.ofNat 64 r.1) r.2 t
    let x := p.value (s.val a)
    let y := p.value (s.val b)
    (s.clear { sw := sw, pair := [a, b], dest := d, push := true } →
      ∀ row ∈ fpRows, pushes (row.1 sw d a b rm p) d (row.2 p.fmt (s.mode rm) x y)) ∧
    (s.clear { sw := sw, pair := [a, b], extra := [e], push := true } →
      pushes (.fma sw e a b rm p) none (p.fmt.fma (s.mode rm) x y (p.value (s.val e)))) ∧
    (s.clear { sw := sw, pair := [a], dest := d, push := true } →
      pushes (.fsqrt sw d a rm p) d (p.fmt.sqrt (s.mode rm) x) ∧
      pushes (.fcvt sw d a .ff rm p) d (p.fmt.convert (s.mode rm) (p.other.value (s.val a))) ∧
      pushes (.fcvt sw d a .fromInt rm p) d (p.fmt.convert (s.mode rm) (.ofInt (s.val a).toInt)) ∧
      ∀ kind ∈ [(CvtKind.toInt, -2 ^ 63, (2 : Int) ^ 63 - 1), (CvtKind.toUint, 0, (2 : Int) ^ 64 - 1)],
        ∃ t, exec (.fcvt sw d a kind.1 rm p) s = .next t ∧
          Pushes s d (BitVec.ofInt 64 (convertInt kind.2.1 kind.2.2 (s.mode rm) x).1)
            (convertInt kind.2.1 kind.2.2 (s.mode rm) x).2 t)

/-- R92, R93: in both precisions and every mode, a NaN operand gives the canonical NaN with NV only where one of them signals;
∞ − ∞, ∞ × 0, 0 ÷ 0, ∞ ÷ ∞ and the root of a number below −0 give the canonical NaN and NV; x ÷ 0 gives an infinity and DZ; the
root of −0 is −0; and ∞ × 0 + c gives NaN and NV whatever c is. It rests on the model's choices of log 59. -/
def Obligations.FpSpecial : Prop :=
  ∀ F ∈ [fp64, fp32], ∀ (rm : RMode) (v w : FVal) (n k : Bool) (m i j : Nat) (x y : Int), m ≠ 0 →
    let invalid : FRes := (F.nan, flagNV)
    let zero := FVal.fin k 0 y
    (v.isNan ∨ w.isNan → ∀ f ∈ [FFmt.add, FFmt.sub, FFmt.mul, FFmt.div],
      f F rm v w = (F.nan, if v.signals ∨ w.signals then flagNV else 0)) ∧
    F.add rm (.inf n) (.inf !n) = invalid ∧ F.sub rm (.inf n) (.inf n) = invalid ∧
    F.mul rm (.inf n) zero = invalid ∧ F.mul rm zero (.inf n) = invalid ∧ F.fma rm (.inf n) zero v = invalid ∧
    F.fma rm zero (.inf n) v = invalid ∧ F.div rm zero (.fin n 0 x) = invalid ∧ F.div rm (.inf n) (.inf k) = invalid ∧
    F.div rm (.fin n m x) zero = (F.signed (n != k) F.infCode, flagDZ) ∧
    F.sqrt rm (.fin true m x) = invalid ∧ F.sqrt rm (.inf true) = invalid ∧
    F.sqrt rm (.fin k 0 y) = (F.signed k 0, 0) ∧
    F.div rm (.fin n i x) (.inf k) = (F.signed (n != k) 0, 0) ∧ F.div rm (.inf k) (.fin n j x) = (F.signed (k != n) F.infCode, 0)

/-- R94: FMIN and FMAX push an operand that is not beyond the other, −0 below +0, and the other operand if one is a NaN, or the
canonical NaN if both are. R95: FCMP pushes the truth of its predicate. Both raise NV for a signalling NaN, LT and LE for any.
R97: FCLASS pushes a mask with exactly one of its 10 bits, that of the class of a, and raises no flag. -/
def Obligations.FpCompareAndClass : Prop :=
  (∀ (s : State) (sw : Bool) (d : Dest) (a b : Src) (p : Prec), s.clear { sw := sw, pair := [a, b], dest := d, push := true } →
      let x := p.value (s.val a)
      let y := p.value (s.val b)
      let sig : FlagSet := if x.signals ∨ y.signals then flagNV else 0
      let any : FlagSet := if x.isNan ∨ y.isNan then flagNV else 0
      let less : Prop := x.below y ∨ (x.rat = 0 ∧ y.rat = 0 ∧ x.finite ∧ y.finite ∧ x.sign = true ∧ y.sign = false)
      let ofBits := fun n : Nat => BitVec.ofNat 64 n
      (∃ t, exec (.fmin sw d a b p) s = .next t ∧
        (x.isNan ∧ y.isNan → Pushes s d (ofBits p.fmt.nan) sig t) ∧ (x.isNan ∧ ¬y.isNan → Pushes s d (ofBits (p.bits (s.val b))) sig t) ∧
        (¬x.isNan ∧ (y.isNan ∨ less) → Pushes s d (ofBits (p.bits (s.val a))) sig t) ∧
        (¬x.isNan ∧ ¬y.isNan ∧ ¬less → Pushes s d (ofBits (p.bits (s.val b))) sig t)) ∧
      (∃ t, exec (.fmax sw d a b p) s = .next t ∧
        (x.isNan ∧ y.isNan → Pushes s d (ofBits p.fmt.nan) sig t) ∧ (x.isNan ∧ ¬y.isNan → Pushes s d (ofBits (p.bits (s.val b))) sig t) ∧
        (¬x.isNan ∧ ¬y.isNan ∧ less → Pushes s d (ofBits (p.bits (s.val b))) sig t) ∧
        (¬x.isNan ∧ (y.isNan ∨ ¬less) → Pushes s d (ofBits (p.bits (s.val a))) sig t)) ∧
      ∀ q : FPred, ∃ t r, exec (.fcmp sw d a b q p) s = .next t ∧
        Pushes s d r (match q with | .eq | .unord => sig | .lt | .le => any) t ∧ (r = 0 ∨ r = 1) ∧
        (r = 1 ↔ match q with
          | .eq => ¬x.isNan ∧ ¬y.isNan ∧ ¬x.below y ∧ ¬y.below x
          | .lt => x.below y
          | .le => ¬x.isNan ∧ ¬y.isNan ∧ ¬y.below x
          | .unord => x.isNan ∨ y.isNan)) ∧
  (∀ (s : State) (sw : Bool) (d : Dest) (a : Src) (p : Prec), s.clear { sw := sw, pair := [a], dest := d, push := true } →
      ∃ t k, exec (.fclass sw d a p) s = .next t ∧ Pushes s d (BitVec.ofNat 64 (2 ^ k)) 0 t ∧
        match p.value (s.val a) with
        | .inf n => k = if n then 0 else 7
        | .nan signals => k = if signals then 8 else 9
        | .fin n m _ =>
          if m = 0 then k = if n then 3 else 4
          else if m < 2 ^ p.fmt.f then k = if n then 2 else 5
          else k = if n then 1 else 6)

/-- R148, R151: rounding to nearest gives a value of the format than which no other is nearer, unless the magnitude overflows; and
a value that the format holds rounds to itself in every mode, with no flag. It rests on the model's choices of log 59. -/
def Obligations.RoundsToNearest : Prop :=
  ∀ F ∈ [fp64, fp32, bf16, fp16, e4m3, e5m2], ∀ (neg : Bool) (m : Nat) (x : Int),
    let v := (FVal.fin neg m x).rat
    let r := F.round 0 false neg m x
    (r.ovf = false → (F.value r.bits).finite ∧ ∀ bits, (F.value bits).finite →
      |(F.value r.bits).rat - v| ≤ |(F.value bits).rat - v|) ∧
    ∀ (rm : RMode) (bits : Nat), (F.value bits).finite → (F.value bits).rat = v →
      (F.value (F.round rm false neg m x).bits).rat = v ∧ (F.round rm false neg m x).flags = 0

/-! ### Loads, stores, atomics and fences -/

/-- R72, R73, R75: LD and ST form a + imm12 and trap with ALIGN where it is not a multiple of the width. LD leaves the read
outstanding and pushes; ST leaves the write of the low bytes of its data in flight and pushes nothing, and is held while a REL fence
that names BYTE holds writes back; the first write past such fences is their release (R84). It rests on the model's choices of log
58. -/
def Obligations.ByteAccesses : Prop :=
  ∀ (s : State) (sw : Bool) (d : Dest) (x a : Src) (imm : BitVec 12), s.lenient →
    let va := s.val a + imm.signExtend 64
    (s.clear { sw := sw, pair := [a], dest := d, push := true } → ∀ wd : LdWidth, ∃ t, exec (.ld sw d a wd imm) s = .next t ∧
      if va.toNat % wd.bytes = 0 then
        Begins s.noted { push := true, named := d } (.load va wd.bytes wd.signed false) (s.me.pc + 4) [] t
      else Traps s (s.trapOf .align 0 (s.val a) 0 va true d sw) t) ∧
    (s.clear { sw := sw, pair := [x, a] } → ∀ wd : StWidth, ∃ t, exec (.st sw x a wd imm) s = .next t ∧
      if va.toNat % wd.bytes = 0 then
        HeldOr s 2 t (Begins (s.noted.passing 2) { rel := s.me.releasing } (.store va (bytesOfNat wd.bytes (s.val x).toNat)) (s.me.pc + 4) [] t)
      else Traps s (s.trapOf .align 0 (s.val x) (s.val a) va false none sw) t)

/-- R73, R74: LDL and STL reach bytes that lie wholly in the private window, at local addresses from 0, or in the gang-shared
window, at local addresses from 0x80000000, at a multiple of the width; any other address raises ALIGN. They hold those bytes in the
scoreboard. It rests on the model's choices of log 58. -/
def Obligations.LocalAccesses : Prop :=
  ∀ (s : State) (sw : Bool) (d : Dest) (x a : Src) (imm : BitVec 12),
    let la := s.val a + imm.signExtend 64
    (s.clear { sw := sw, pair := [a], dest := d, push := true } → ∀ wd : LdWidth, ∃ t, exec (.ldl sw d a wd imm) s = .next t ∧
      match s.place la wd.bytes wd.bytes with
      | some p => Begins s { push := true, named := d, ranges := [range p wd.bytes false] }
          (.lload p wd.bytes wd.signed) (s.me.pc + 4) [] t
      | none => Traps s (s.trapOf .align 0 (s.val a) 0 la true d sw) t) ∧
    (s.clear { sw := sw, pair := [x, a] } → ∀ wd : StWidth, ∃ t, exec (.stl sw x a wd imm) s = .next t ∧
      match s.place la wd.bytes wd.bytes with
      | some p => HeldOr s 0 t (Begins (s.passing 0) { ranges := [range p wd.bytes true] }
          (.lstore p (bytesOfNat wd.bytes (s.val x).toNat)) (s.me.pc + 4) [] t)
      | none => Traps s (s.trapOf .align 0 (s.val x) (s.val a) la false none sw) t)

/-- R78 to R82: every AMO and CAS leaves its read-modify-write of the width's bytes at a in flight, with b as operand and with its order and
scope; CAS compares with its D field and is pushed only; they are writes to BYTE for a REL fence (R84). An address that is not a multiple of the width raises ALIGN. It rests on
the model's choices of log 58, log 63. -/
def Obligations.Atomics : Prop :=
  ∀ (s : State) (sw : Bool) (d : Dest) (a b e : Src) (o : Order) (sc : AmoScope), s.lenient →
    let va := s.val a
    let x := s.val b
    let acts := fun (i : Instr) (d : Dest) (n : Nat) (op : AtomOp) (expected : Word) => ∃ t, exec i s = .next t ∧
      if va.toNat % n = 0 then
        HeldOr s 2 t (Begins (s.noted.passing 2) { push := true, named := d, opA := va, opB := x, rel := s.me.releasing }
          (.atomic va op n x expected (o = .acq ∨ o = .acqrel) (o = .rel ∨ o = .acqrel) sc) (s.me.pc + 4) [] t)
      else Traps s (s.trapOf .align 0 va x va true d sw) t
    (s.clear { sw := sw, pair := [a, b], dest := d, push := true } →
      (∀ row ∈ amoRows, acts (row.1 sw d a b .w32 o sc) d 4 row.2 0 ∧ acts (row.1 sw d a b .w64 o sc) d 8 row.2 0) ∧
      acts (.amoFaddF32 sw d a b o sc) d 4 .fadd32 0 ∧ acts (.amoFaddF64 sw d a b o sc) d 8 .fadd64 0) ∧
    (s.clear { sw := sw, pair := [a, b], extra := [e], push := true } →
      acts (.cas sw e a b .w32 o sc) none 4 .cas (s.val e) ∧ acts (.cas sw e a b .w64 o sc) none 8 .cas (s.val e))

/-- R83, R84: a fence whose range passes 2^64 raises ILLEGAL_OPERAND. Otherwise it issues: FULL, ACQ and REG go on at once, or park
until the operations they wait for are past, FULL and ACQ acquiring at their scope then (R357); REL lets the thread go on and holds
its later writes back; the first write past a REL or FULL fence is its release (R353). FULL waits also while an access before an earlier FULL fence stands whose scope and its own cover one another
(R356). With ALL and BYTE, FULL and REL wait for every byte access of the thread in flight but a write that no observer in the scope
reads (R349), and ACQ for every read; with TILE, every kind waits for the thread's tile requests that are not registered, and for an MRD
of the tile route; no fence waits for another thread's. A FULL fence at PACKAGE or DOMAIN also releases: no write before it counts as
followed by a narrower release alone (R353). It rests on the model's choices of log 22, log 63, log 84. -/
def Obligations.Fences : Prop :=
  (∀ (s : State) (sw : Bool) (a b : Src) (all : Bool) (mask : BitVec 3) (sc : AgentScope),
    s.clear { sw := sw, pair := if all then [] else [a, b] } →
    let x := (s.val a).toNat
    let n := (s.val b).toNat
    let ok := all = true ∨ x + n ≤ 2 ^ 64
    let trap := Traps s (s.trapOf .illegalOperand 0 (if all then 0 else s.val a) (if all then 0 else s.val b) 0 false none sw)
    let goes := fun (past : State) (park : Park) (t : State) => Moves past (s.me.pc + 4) t ∧ t.me.park = park
    let stands := fun k => s.chip.fenceSet k sc all mask x n
    let marks := fun ids => s.withMe fun u => { u with holds := { ids := ids, mask := mask, scope := sc } :: u.holds }
    (∃ t, exec (.fncFull sw a b all mask sc) s = .next t ∧ (¬ok → trap t) ∧
      (ok → if stands .full = [] ∧ s.chip.fullOwed s.chip.cur sc = false then goes ((marks []).pastWeak.fenced sc) s.me.park t ∧
          Acquired s (s.chip.weak s.chip.cur []) s.myCore sc t ∧
          (sc.wide = true → ∀ k, ∀ x ∈ (t.chip.core k).stale, x.2.writer = none)
        else goes (marks []) (.fence true sc (stands .full)) t)) ∧
    (∃ t, exec (.fncAcq sw a b all mask sc) s = .next t ∧ (¬ok → trap t) ∧
      (ok → if stands .acq = [] then goes s.pastWeak s.me.park t ∧ Acquired s (s.chip.weak s.chip.cur []) s.myCore sc t else goes s (.fence false sc (stands .acq)) t)) ∧
    (∃ t, exec (.fncReg sw a b all mask sc) s = .next t ∧ (¬ok → trap t) ∧
      (ok → goes s (if stands .reg = [] then s.me.park else .ops (stands .reg)) t)) ∧
    ∃ t, exec (.fncRel sw a b all mask sc) s = .next t ∧ (¬ok → trap t) ∧
      (ok → goes (marks (stands .rel)) s.me.park t)) ∧
  ∀ (c : Chip) (k : FenceKind) (sc : AgentScope) (all : Bool) (mask : BitVec 3) (a n : Nat),
    (∀ o ∈ c.ops, o.tid = c.cur → all = true → mask.getLsbD 2 = true →
      ((k = .full ∨ k = .rel) ∧ (o.body.reads ∨ o.body.writes) ∧ c.outOfReach sc o = false ∨ k = .acq ∧ o.body.reads) →
      o.id ∈ c.fenceSet k sc all mask a n) ∧
    (∀ o ∈ c.ops, o.tid = c.cur → mask.getLsbD 1 = true → o.body.isTile = true →
      (∃ r ∈ c.reqs, r.id = o.id ∧ (r.phase = .travelling ∨ r.phase = .away)) → o.id ∈ c.fenceSet k sc all mask a n) ∧
    (∀ o ∈ c.ops, o.tid = c.cur → mask.getLsbD 1 = true → c.op? o.id = some o → o.storesTo.isSome = true →
      o.id ∈ c.fenceSet k sc all mask a n) ∧
    ∀ id ∈ c.fenceSet k sc all mask a n, ∃ o ∈ c.ops, o.id = id ∧ o.tid = c.cur ∧
      (o.body.isTile ∨ o.body.isLocal ∨ o.body.reads ∨ o.body.writes)

/-- R87 to R90: MWAIT leaves a watch of the word at a, and raises ALIGN where a is not a multiple of 8; CWAIT goes on at once if the
count is below t, acquiring at CORE scope (R357), and else parks; CINC adds a, as a signed amount, to the counter unless the sum leaves 0 to 255,
which raises ILLEGAL_OPERAND; CRD pushes the count. R40 to R42, R86, R334: NOP and PREF move the pc by 4 and do nothing else,
whatever PREF's address is. It rests on the model's choices of log 58. -/
def Obligations.CountersAndWaits : Prop :=
  (∀ (s : State) (sw : Bool) (d : Dest) (a b : Src) (k : Ctr) (below : BitVec 5),
      let count := (s.counter s.myCore k).toNat
      (s.lenient → s.clear { sw := sw, pair := [a, b], dest := d, push := true } → ∃ t, exec (.mwait sw d a b) s = .next t ∧
        if (s.val a).toNat % 8 = 0 then
          Begins s.noted { push := true, named := d, opA := s.val a, opB := s.val b } (.mwait (s.val a) (s.val b)) (s.me.pc + 4) [] t
        else Traps s (s.trapOf .align 0 (s.val a) (s.val b) (s.val a) true d sw) t) ∧
      (s.clear { sw := sw } → ∃ t, exec (.cwait sw below k) s = .next t ∧ Moves s (s.me.pc + 4) t ∧
        if count < below.toNat then t.me.park = s.me.park ∧ Acquired s [] s.myCore .core t
        else t.me.park = .counter k below.toNat) ∧
      (s.clear { sw := sw, pair := [a] } → ∃ t, exec (.cinc sw a k) s = .next t ∧
        let sum := (count : Int) + (s.val a).toInt
        if sum < 0 ∨ 255 < sum then Traps s (s.trapOf .illegalOperand 0 (s.val a) 0 0 false none sw) t
        else if s.chip.unperformedIds = [] then
          Keeps s t ∧ t.me.pc = s.me.pc + 4 ∧ t.me.queue = s.me.queue ∧ t.chip.ops = s.chip.ops ∧ t.chip.reqs = s.chip.reqs ∧
            ∀ j n, (t.counter j n).toNat = if j = s.myCore ∧ n = k then sum.toNat else (s.counter j n).toNat
        else Waits s (.ops s.chip.unperformedIds) t) ∧
      (s.lenient → s.clear { sw := sw, dest := d, push := true } → ∃ t, exec (.crd sw d k) s = .next t ∧
        Pushes s.noted d (BitVec.ofNat 64 count) 0 t)) ∧
  (∀ (s : State) (sw : Bool) (a b : Src),
      (s.clear { sw := sw } → ∃ t, exec (.nop sw) s = .next t ∧ Moves s (s.me.pc + 4) t) ∧
      (s.clear { sw := sw, pair := [a, b] } → ∃ t, exec (.pref sw a b) s = .next t ∧ Moves s (s.me.pc + 4) t))

/-- R77, R134, R137, R138, R213, R229, R290, R323, R373: in a pure task, an access that the task may not make, and that would issue outside
one, raises PURITY and does nothing else, where the task is strict or the space of a store is; else it goes on as outside, and the
task is marked. These are LD, ST, the atomics, MWAIT, CRD, CTLRD of any register but VCSR and FFLAGS, PGDONE, the vector accesses to
byte memory, the copies to and from it, TIMP, TEXP, TADD, TREL, TSPACE, every other tile request whose tile the task does not name as an
argument, or as an output, and the tile routes of MLDB, MMUL and MRD, and MMUL of byte memory. It rests on the model's choices of
log 70. -/
def Obligations.PureAccesses : Prop :=
  ∀ (s : State) (p : PureTask) (sw det keep hi add q : Bool) (d : Dest) (a b e : Src) (imm : BitVec 12) (o : Order) (sc : AmoScope)
    (k : Ctr) (v va : VReg) (et : EType) (m : Mask), s.me.live = true → s.me.pureTask = some p →
    let mine := fun (hs : List Word) (h : Word) => hs.any (sameVersion h)
    let rec_ := fun (x : Word) => ((s.place x 16 8).map s.localWord).getD 0
    let barred := fun (i : Instr) (may space : Bool) => may = false →
      ∀ u, exec i (s.withMe fun w => { w with pureTask := none }) = .next u → u.me.pc = s.me.pc + 4 →
      if p.strict = true ∨ space = true then ∃ t x, exec i s = .next t ∧ x.cause = .purity ∧ x.code = 0 ∧ x.op = none ∧ Traps s x t
      else ∃ t, exec i s = .next t ∧ t.me.pureTask = some { p with violated := true } ∧ t.me.pc = s.me.pc + 4
    let never := fun (i : Instr) => barred i false false
    let tile := fun (i : Instr) => barred i (mine p.args (s.val a)) false
    let store := fun (i : Instr) => barred i (mine p.outs (s.val a)) (s.chip.strictSpace (s.val a))
    (∀ (wd : LdWidth) (ws : StWidth), never (.ld sw d a wd imm) ∧ never (.st sw b a ws imm)) ∧
    (∀ row ∈ amoRows, ∀ w : AmoWidth, never (row.1 sw d a b w o sc)) ∧
    (∀ w : AmoWidth, never (.cas sw e a b w o sc)) ∧ never (.amoFaddF32 sw d a b o sc) ∧ never (.amoFaddF64 sw d a b o sc) ∧
    never (.mwait sw d a b) ∧ never (.crd sw d k) ∧ never (.pgdone sw d a b) ∧
    (∀ r : CReg, r ≠ .vcsr → r ≠ .fflags → never (.ctlrd sw d r)) ∧
    never (.vldg sw v a et m q) ∧ never (.vstg sw v a et m q) ∧ never (.vgath sw v va a et m q) ∧ never (.vscat sw v va a et m q) ∧
    never (.cpyg sw a b k det) ∧ never (.cpygOut sw a b k det) ∧ never (.cpyd sw a b k det) ∧ never (.cpydLoc sw a b k det) ∧
    never (.cfilG sw a b k det) ∧
    barred (.timp sw a b k det) false (s.chip.strictSpace (s.val a)) ∧ never (.texp sw a b k det keep) ∧
    never (if add then .tadd sw a b k det else .trel sw a b k det) ∧ never (.tspace sw a b k det) ∧
    tile (.tld sw a b k det keep) ∧ tile (.tldv sw a k v keep) ∧ tile (.twait sw a k det) ∧ tile (.tdig sw a k det hi) ∧
    tile (.tinfo sw a k det) ∧ tile (.tprobe sw a k det) ∧
    store (.tst sw a b k det) ∧ store (.tstv sw a b k det v) ∧
    barred (.talias sw a b k det) (mine p.outs (s.val a) && mine p.args (rec_ (s.val b))) (s.chip.strictSpace (s.val a)) ∧
    barred (.mrdTile sw a b k det) (mine p.outs (rec_ (s.val b))) (s.chip.strictSpace (rec_ (s.val b))) ∧
    ((s.val b).getLsbD 11 = true → tile (.mldb sw a b k det)) ∧
    (s.me.amode.toNat % 4 = 1 → tile (.mmul sw a b k)) ∧
    (s.me.amode.toNat % 4 = 2 → never (.mmul sw a b k))

/-! ### Vector instructions -/

/-- R218, R220: every vector instruction that reaches no memory issues. If the thread's pipe is empty it is performed: the vector
registers, predicates and VFLAGS become what it makes of them, VEXT, VRED and VCNT push their value, and nothing else changes.
Otherwise it waits in the pipe with its scalar source and VCSR.VRM as read at issue. VEXT of a lane that is not there, and VQNT and
VDQ of a form that R241 does not give, raise ILLEGAL_OPERAND. It rests on the model's choices of log 12. -/
def Obligations.VectorPerformed : Prop :=
  ∀ (s : State) (i : Instr) (h : Hdr) (x : Word), s.me.vecForm i = some (h, x) → s.clear h →
    let r := s.me.vrun i x s.me.vrm
    ∃ t, exec i s = .next t ∧
      (s.me.vecOk i → if s.chip.piped = [] then
          if h.push then Pushes (s.withVec r.1) none r.2 0 t else Moves (s.withVec r.1) (s.me.pc + 4) t
        else Begins s { push := h.push } (.vec i x s.me.vrm) (s.me.pc + 4) [] t) ∧
      (¬s.me.vecOk i → Traps s (s.trapOf .illegalOperand 0 (if h.extra = [] then 0 else x) 0 0 h.push none h.sw) t)

/-- R224: a VINT instruction makes each active lane its function of the lanes of va and vb at the lane width, leaves the other
lanes, registers and predicates as they are, and raises no flag. -/
def Obligations.VectorIntLanes : Prop :=
  ∀ (t : Thread) (sw : Bool) (vd va vb : VReg) (et : EType) (m : Mask) (q : Bool) (x : Word) (rm : RMode), et.isFloat = false →
    let w := 8 * et.bytes
    ∀ row ∈ vintRows, let r := (t.vrun (row.1 sw vd va vb et m q) x rm).1
      r.vflags = t.vflags ∧
      LanesBecome t vd et m (fun i => (row.2 w (BitVec.ofNat w (t.lane va et i)) (BitVec.ofNat w (t.lane vb et i))).toNat) r

/-- R216, R217, R223: a VFP instruction makes each active lane its operation on the lanes of va and vb in the etype's format, VFMA
and VFNMA with vc and one rounding; the flags of a lane are ORed into the slot that holds it unless Q = 1. R236: VCVT and VCVTZ
convert each lane, of part p, whose destination lane is active, to the target: a float in the mode, an integer clamped with NV. R241:
VQNT makes vd an image of the elements, the scale codes where it is blocked, zeros and the counts of SAT and UNF; an inactive lane is
the canonical zero, and a block that is not finite has code 255. R242: VDQ makes each active lane the value of its element, times the
scale of its block where it is blocked. It rests on the model's choices of log 33, log 59, log 68. -/
def Obligations.VectorFpLanes : Prop :=
  ∀ (t : Thread) (sw : Bool) (vd va vb vc : VReg) (et : EType) (m : Mask) (q : Bool) (x : Word) (rm : RMode),
    (∀ (p : BitVec 3) (tg : EType),
      let nd := tg.lanes
      let ns := et.lanes
      let w := 8 * tg.bytes
      let cv := fun (rm : RMode) (i : Nat) =>
        let v := if et.isFloat then et.fmt.value (t.lane va et i) else .ofInt (BitVec.ofNat (8 * et.bytes) (t.lane va et i)).toInt
        if tg.isFloat then tg.fmt.convert rm v
        else let r := convertInt (-2 ^ (w - 1)) (2 ^ (w - 1) - 1) rm v; ((BitVec.ofInt w r.1).toNat, r.2)
      let out := fun (rm : RMode) (j : Nat) => if t.active m j = false then none
        else if nd ≤ ns then some (cv rm (p.toNat * nd + j))
        else if p.toNat * ns ≤ j ∧ j < (p.toNat + 1) * ns then some (cv rm (j - p.toNat * ns)) else none
      LanesWrite t vd tg.bytes q (out rm) (t.vrun (.vcvt sw vd va p tg et m q) x rm).1 ∧
      LanesWrite t vd tg.bytes q (out 1) (t.vrun (.vcvtz sw vd va p tg et m q) x rm).1) ∧
    (et.isFloat = true → ∀ (raw : BitVec 3) (nf : Narrow),
      let F := et.fmt
      let n := et.lanes
      let b := if nf = .int4 then 4 else 8
      let field := fun (u : Thread) (v : VReg) (lo len : Nat) => (u.vec[v].extractLsb' lo len).toNat
      let value := fun (i : Nat) => F.value (t.lane va et i)
      let code := fun (j : Nat) => scaleCode nf.code ((((List.range 8).map (8 * j + ·)).filter (t.active m)).map value)
      let zero := fun (fl : FlagSet) => ({ bits := canonZero nf.code, flags := fl, sat := 0, unf := 0 } : Quant)
      let element := fun (i : Nat) => if t.active m i = false then zero 0
        else if raw ≠ 0 then quantize nf.code (value i)
        else if code (i / 8) = 0 then zero 0
        else if code (i / 8) = 255 then zero (if (value i).signals then flagNV else 0)
        else quantize nf.code ((value i).scale (127 - code (i / 8)))
      let counts := fun (f : Quant → Nat) => min 65535 ((List.range n).map fun i => f (element i)).sum
      let r := (t.vrun (.vqnt sw vd va raw nf et m q) x rm).1
      (∀ v, v ≠ vd → r.vec[v] = t.vec[v]) ∧ r.pred = t.pred ∧ FlagsRaised t et.bytes q (fun i => (element i).flags) r ∧
      (∀ i < n, field r vd (b * i) b = (element i).bits) ∧ (raw = 0 → ∀ j < n / 8, field r vd (b * n + 8 * j) 8 = code j) ∧
      (∀ k < 252, b * n / 8 + (if raw = 0 then n / 8 else 0) ≤ k → field r vd (8 * k) 8 = 0) ∧
      field r vd 2016 16 = counts Quant.sat ∧ field r vd 2032 16 = counts Quant.unf ∧
      LanesWrite t vd et.bytes q (fun i => if t.active m i = false then none
        else
          let v := elemValue nf.code (field t va (b * i) b)
          let scale := field t va (b * n + 8 * (i / 8)) 8
          if raw ≠ 0 then some (F.convert rm v)
          else if scale = 0 then some (0, 0)
          else if scale = 255 then some (F.nan, 0)
          else some (F.convert rm (v.scale (scale - 127)))) (t.vrun (.vdq sw vd va raw nf et m q) x rm).1) ∧
    (et.isFloat = true →
    let a := t.lane va et
    let b := t.lane vb et
    let value := fun n => et.fmt.value n
    let does := fun (i : Instr) (f : Nat → FRes) =>
      let r := (t.vrun i x rm).1
      LanesBecome t vd et m (fun i => (f i).1) r ∧
      ∀ slot < 32, ∀ bit < 5, (r.flagSlot slot).testBit bit = ((t.flagSlot slot).testBit bit ||
        (!q && (List.range et.lanes).any fun i => t.active m i && i * et.bytes / 8 == slot && (f i).2.getLsbD bit))
    (∀ row ∈ vfpRows, does (row.1 sw vd va vb et m q) fun i => row.2 et.fmt rm (a i) (b i)) ∧
    does (.vfma sw vd va vb vc et m q) (fun i => et.fmt.fma rm (value (a i)) (value (b i)) (value (t.lane vc et i))) ∧
    does (.vfnma sw vd va vb vc et m q) fun i => et.fmt.fma rm (value (a i)).negate (value (b i)) (value (t.lane vc et i)))

/-- R232, R234: VCMP and VMSK write every bit of their predicate below the lane count and zero above, and change no register; the
bit of VCMP for an inactive lane is 0; predicate m0 stays as it is. LT, LE, GT and GE of a float etype raise NV in the slot of an
active lane with a NaN, the other conditions with a signalling one; integer compares and VMSK raise no flag. -/
def Obligations.VectorPredicates : Prop :=
  ∀ (t : Thread) (sw : Bool) (vd va vb : VReg) (et : EType) (m : Mask) (q : Bool) (x : Word) (rm : RMode),
    let d := predField vd
    let A := t.active (predField va)
    let B := t.active (predField vb)
    let int := fun i => (t.lane va et i : Int) - if 2 ^ (8 * et.bytes - 1) ≤ t.lane va et i then 2 ^ (8 * et.bytes) else 0
    let int' := fun i => (t.lane vb et i : Int) - if 2 ^ (8 * et.bytes - 1) ≤ t.lane vb et i then 2 ^ (8 * et.bytes) else 0
    let a := fun i => t.fval va et i
    let b := fun i => t.fval vb et i
    let nan := fun i => (a i).isNan ∨ (b i).isNan
    let writes := fun (i : Instr) (f : Nat → Prop) =>
      let r := (t.vrun i x rm).1
      r.vec = t.vec ∧ (∀ p, p ≠ d ∨ p = 0 → r.pred[p] = t.pred[p]) ∧
      (d ≠ 0 → ∀ i < 256, (r.pred[d].getLsbD i = true ↔ i < et.lanes ∧ f i))
    (∀ cond, FlagsRaised t et.bytes q (fun i => if t.active m i = true ∧ et.isFloat = true ∧
        (if cond ∈ [.lt, .le, .gt, .ge] then nan i else (a i).signals = true ∨ (b i).signals = true) then flagNV else 0)
      (t.vrun (.vcmp sw vd va vb cond et m q) x rm).1) ∧
    (∀ cond, writes (.vcmp sw vd va vb cond et m q) fun i => t.active m i ∧
      if et.isFloat then match cond with
        | .eq => ¬nan i ∧ ¬(a i).below (b i) ∧ ¬(b i).below (a i)
        | .ne => nan i ∨ (a i).below (b i) ∨ (b i).below (a i)
        | .lt => (a i).below (b i)
        | .le => ¬nan i ∧ ¬(b i).below (a i)
        | .gt => (b i).below (a i)
        | .ge => ¬nan i ∧ ¬(a i).below (b i)
        | .c6 => nan i
        | .c7 => ¬nan i
      else match cond with
        | .eq => int i = int' i
        | .ne => int i ≠ int' i
        | .lt => int i < int' i
        | .le => int i ≤ int' i
        | .gt => int' i < int i
        | .ge => int' i ≤ int i
        | .c6 => t.lane va et i < t.lane vb et i
        | .c7 => t.lane vb et i ≤ t.lane va et i) ∧
    ∀ op, (t.vrun (.vmsk sw vd va vb op et q) x rm).1.vflags = t.vflags ∧ writes (.vmsk sw vd va vb op et q) fun i => match op with
      | .and => A i ∧ B i
      | .or => A i ∨ B i
      | .xor => A i ≠ B i
      | .andn => A i ∧ ¬B i
      | .not => ¬A i
      | .nz => t.lane va et i ≠ 0
      | .first => A i ∧ ∀ j < i, ¬A j

/-- R231, R233, R235, R239: VBC, VMOV, VSEL, VIOTA, VPERM, VEXPD and VCMPR move lanes as their rules say; VEXT pushes lane s
extended, and VCNT the number of active lanes. None raises a flag. R243: VFLRD writes each active lane with its slot of VFLAGS, and
VFLCL clears the slots whose lanes are active and nothing else. -/
def Obligations.VectorMoves : Prop :=
  ∀ (t : Thread) (sw : Bool) (vd va vb : VReg) (src : Src) (et : EType) (m : Mask) (q : Bool) (x : Word) (rm : RMode),
    let n := et.lanes
    let on := fun k => (List.range k).filter (t.active m)
    let moves := fun (i : Instr) (m : Mask) (f : Nat → Nat) =>
      LanesBecome t vd et m f (t.vrun i x rm).1 ∧ (t.vrun i x rm).1.vflags = t.vflags
    moves (.vbc sw vd src et m q) m (fun _ => x.toNat % 2 ^ (8 * et.bytes)) ∧
    moves (.vmov sw vd va et m q) m (t.lane va et) ∧
    moves (.vsel sw vd va vb et m q) 0 (fun i => if t.active m i then t.lane va et i else t.lane vb et i) ∧
    (et.isFloat = false → moves (.viota sw vd et m q) m fun i => i % 2 ^ (8 * et.bytes)) ∧
    (et.isFloat = true → ∃ f, moves (.viota sw vd et m q) m f ∧ ∀ i < n, (et.fmt.value (f i)).finite ∧ (et.fmt.value (f i)).rat = i) ∧
    LanesBecome t vd .s64 m t.flagSlot (t.vrun (.vflrd sw vd m q) x rm).1 ∧ (t.vrun (.vflrd sw vd m q) x rm).1.vflags = t.vflags ∧
    (let r := (t.vrun (.vflcl sw m q) x rm).1;
      { r with vflags := t.vflags } = t ∧ ∀ i < 32, r.flagSlot i = if t.active m i then 0 else t.flagSlot i) ∧
    moves (.vperm sw vd va vb et m q) m (fun i => if t.lane vb et i < n then t.lane va et (t.lane vb et i) else 0) ∧
    moves (.vexpd sw vd va et m q) m (fun i => t.lane va et (on i).length) ∧
    moves (.vcmpr sw vd va et m q) 0 (fun i => match (on n)[i]? with | some j => t.lane va et j | none => 0) ∧
    (t.vrun (.vcnt sw et m q) x rm).2 = BitVec.ofNat 64 (on n).length ∧ (t.vrun (.vcnt sw et m q) x rm).1 = t ∧
    (t.vrun (.vext sw va src et q) x rm).1 = t ∧
    (t.vrun (.vext sw va src et q) x rm).2 =
      if et.isFloat then BitVec.ofNat 64 (t.lane va et x.toNat)
      else (BitVec.ofNat (8 * et.bytes) (t.lane va et x.toNat)).signExtend 64

/-- R237: VRED of integers pushes the sum of the active lanes, each sign-extended, modulo 2^64, or an active lane than which none is
greater, or less; with no active lane it pushes 0, the least or the greatest integer of the lane. VRED of floats pushes the last of the
running sums, maxima or minima of the active lanes, ascending, and +0, −∞ or +∞ without one; the flags of every step go to slot 0. It
writes no vector register. R238: VSCAN writes each active lane with the running result that takes it in, xsum with the one before it,
and first 0; the flags of a step go to the lane that it writes. R240: VAMAX writes lane j with the greatest magnitude of the active
lanes 8j to 8j + 7, 0 without one, and the canonical NaN where one is a NaN. It rests on the model's choices of log 34. -/
def Obligations.VectorReductions : Prop :=
  ∀ (t : Thread) (sw : Bool) (vd va : VReg) (et : EType) (m : Mask) (q : Bool) (x : Word) (rm : RMode),
    let F := et.fmt
    let xs := ((List.range et.lanes).filter (t.active m)).map (t.lane va et)
    let before := fun (i : Nat) => ((List.range i).filter (t.active m)).length
    let signed := fun (v : Nat) => (BitVec.ofNat (8 * et.bytes) v).toInt
    let sum := fun (a v : Nat) => if et.isFloat then F.add rm (F.value a) (F.value v) else ((a + v) % 2 ^ (8 * et.bytes), 0)
    let extreme := fun (big : Bool) (a v : Nat) => if et.isFloat then F.minmax big a v
      else (if (big = true ∧ signed a < signed v) ∨ (big = false ∧ signed v ≤ signed a) then v else a, 0)
    let scans := fun (op : ScanOp) (f : Nat → FRes) =>
      LanesWrite t vd et.bytes q (fun i => if t.active m i then some (f (before i)) else none) (t.vrun (.vscan sw vd va op et m q) x rm).1
    let pushes := fun (op : RedOp) (acc : Nat → FRes) (none_ : Nat) => let r := t.vrun (.vred sw va op et m q) x rm
      r.2 = BitVec.ofNat 64 (if xs = [] then none_ else (acc (xs.length - 1)).1) ∧
      FlagsRaised t 8 q (fun i => if i = 0 then (List.range xs.length).foldl (fun fl k => fl ||| (acc k).2) 0 else 0) r.1
    (∀ acc, Accumulates et sum (fun k => xs.getD k 0) acc →
      scans .isum acc ∧ scans .xsum (fun k => if k = 0 then (0, 0) else acc (k - 1)) ∧
      (et.isFloat = true → pushes .sum acc 0)) ∧
    (∀ big acc, Accumulates et (extreme big) (fun k => xs.getD k 0) acc →
      scans (if big then .max else .min) acc ∧
      (et.isFloat = true → pushes (if big then .max else .min) acc (F.signed big F.infCode))) ∧
    (∃ f : Nat → FRes, LanesWrite t vd et.bytes q (fun j => some (f j)) (t.vrun (.vamax sw vd va et m q) x rm).1 ∧ ∀ j < et.lanes,
      let ys := (((List.range 8).map (8 * j + ·)).filter (t.active m)).map (t.lane va et)
      let is := fun (magnitude : Nat → Nat) (above : Nat → Nat → Prop) => (f j).2 = 0 ∧ (ys = [] → (f j).1 = 0) ∧
        (ys ≠ [] → ∃ y ∈ ys, (f j).1 = magnitude y) ∧ ∀ y ∈ ys, ¬above (magnitude y) (f j).1
      if et.lanes / 8 ≤ j then f j = (0, 0)
      else if et.isFloat = false then is (fun y => (signed y).natAbs) fun a b => b < a
      else if ∃ y ∈ ys, (F.value y).isNan then f j = (F.nan, if ∃ y ∈ ys, (F.value y).signals then flagNV else 0)
      else is (fun y => y % F.signBit) fun a b => (F.value b).below (F.value a)) ∧
    (∀ op, (t.vrun (.vred sw va op et m q) x rm).1.vec = t.vec ∧ (t.vrun (.vred sw va op et m q) x rm).1.pred = t.pred) ∧
    (et.isFloat = false →
    let w := 8 * et.bytes
    let on := (List.range et.lanes).filter (t.active m)
    let lane := fun i => (BitVec.ofNat w (t.lane va et i)).toInt
    let value := fun op => (t.vrun (.vred sw va op et m q) x rm).2.toInt
    (value .sum = (BitVec.ofInt 64 (on.map lane).sum).toInt) ∧
    (if on = [] then value .max = -2 ^ (w - 1) ∧ value .min = 2 ^ (w - 1) - 1
      else (∃ i ∈ on, value .max = lane i) ∧ (∀ i ∈ on, lane i ≤ value .max) ∧
        (∃ i ∈ on, value .min = lane i) ∧ ∀ i ∈ on, value .min ≤ lane i))

/-- R225 to R229: VLD and VST need 256 bytes of one window at a multiple of the lane width, whatever the mask, and hold them in
the scoreboard; VLDG and VSTG need a multiple of the lane width; any other address raises ALIGN. The stores wait at a REL fence (R84).
VGATH and VSCAT issue, and the
pipe forms their addresses. VLDG and VGATH leave vd outstanding. In the pipe's turn VLD fills the active lanes of vd from the 256
bytes, and VST stores the bytes of the active lanes and no other; the others form a lane access for each active lane, x + i × w, or x and
the signed lane of va times w, of which VGATH and VSCAT raise ALIGN where one is no multiple of w. A lane that overlaps no earlier one is
performed at a time: its bytes become the lane, or the lane of vd its bytes, and after the last the instruction is over. It rests on the
model's choices of log 3, log 12, log 14, log 56, log 58. -/
def Obligations.VectorMemory : Prop :=
  ∀ (s : State) (sw : Bool) (vd va : VReg) (x : Src) (et : EType) (m : Mask) (q : Bool),
    (let a := (s.val x).toNat
    let align := Traps s (s.trapOf .align 0 (s.val x) 0 (s.val x) false none sw)
    let local_ := fun (i : Instr) (wr : Bool) => ∃ t, exec i s = .next t ∧ match s.place (s.val x) 256 et.bytes with
      | some p =>
        let begins := fun s => Begins s { ranges := [range p 256 wr] } (.vec i (BitVec.ofNat 64 p) 0) (s.me.pc + 4) [] t
        if wr then HeldOr s 0 t (begins (s.passing 0)) else begins s
      | none => align t
    let byte := fun (i : Instr) (aligned reads : Bool) => s.lenient → ∃ t, exec i s = .next t ∧
      if aligned = true ∧ a % et.bytes ≠ 0 then align t
      else if reads then Begins s.noted { outst := true, opA := s.val x } (.vec i (s.val x) 0) (s.me.pc + 4) [] t
      else HeldOr s 2 t (Begins (s.noted.passing 2) { opA := s.val x, rel := s.me.releasing } (.vec i (s.val x) 0) (s.me.pc + 4) [] t)
    (s.clear { sw := sw, extra := [x], vuse := [vd] } → local_ (.vld sw vd x et m q) false ∧ local_ (.vst sw vd x et m q) true ∧
      byte (.vstg sw vd x et m q) true false) ∧
    (s.clear { sw := sw, extra := [x], vuse := [vd], vout := [vd] } → byte (.vldg sw vd x et m q) true true) ∧
    (s.clear { sw := sw, extra := [x], vuse := [vd, va] } → byte (.vscat sw vd va x et m q) false false) ∧
    (s.clear { sw := sw, extra := [x], vuse := [vd, va], vout := [vd] } → byte (.vgath sw vd va x et m q) false true)) ∧
    ∀ o : Op, s.chip.op? o.id = some o → o.fault = none → o.eng = false →
      let c := s.chip
      let u := c.thread o.tid
      let k := coreOf o.tid
      let q := c.core k
      let turn := ∀ p ∈ c.earlier o, ∀ i y z, p.body ≠ .vec i y z
      let loads := o.push = true
      let stores := o.push = false
      let goes := fun (b : OpBody) => { c with ops := c.ops.map fun p => if p.id = o.id then { p with body := b } else p }
      let on := (List.range et.lanes).filter (u.active m)
      let line := fun (z : Word) => on.map fun i => (i, z + BitVec.ofNat 64 (i * et.bytes))
      let spread := fun (z : Word) => on.map fun i =>
        (i, z + BitVec.ofInt 64 ((BitVec.ofNat (8 * et.bytes) (u.lane va et i)).toInt * et.bytes))
      let forms := fun (e : Nat → State → Host.Outcome State Fault Refusal) (ls : List (Nat × Word)) (aligned : Prop) (b : OpBody) =>
        ∃ t, e o.id s = .next t ∧ (aligned ∨ (∀ l ∈ ls, l.2.toNat % et.bytes = 0) → t = s.put (goes b)) ∧
          (¬aligned → (∃ l ∈ ls, l.2.toNat % et.bytes ≠ 0) → t.chip.op? o.id = none ∧
            (c.owned o = true → ∃ y ∈ (t.chip.thread o.tid).owed, y.id = o.id ∧ y.cause = .align))
      let lane := fun (lanes : List (Nat × Word)) (w : Nat) (l : Nat × Word) (rest : List (Nat × Word)) =>
        c.nextLane o w lanes = l :: rest ∧ o.asked = false
      let here := fun (need : Need) (va : Word) (w : Nat) (keys : List Nat) (page : Option (Nat × Nat)) =>
        c.walkHeld k o.part o.asid o.body.walks = [] ∧ c.mayAccess o [(va, w)] = true ∧
        (if need.w then c.writeAccess o need va w else c.opAccess o need va w) = .ok keys page ∧
        c.hostHolds keys (!need.w) = false ∧ ∀ a ∈ keys, c.hostOnly a = false
      (∀ p rm z, o.body = .vec (.vld sw vd x et m z) p rm → turn → stores → c.mayLocal o = true →
        ∃ t r, exec (.writePerformed o.id) s = .next t ∧ t.chip.mem = c.mem ∧ Ends (s.put (c.modThread o.tid fun _ => r)) o 0 0 t ∧
          { r with vec := u.vec } = u ∧ LanesBecome u vd et m (fun i => natOfBytes (q.scratch.bytes (p.toNat + i * et.bytes) et.bytes)) r) ∧
      (∀ p rm z, o.body = .vec (.vst sw vd x et m z) p rm → turn → stores → c.mayLocal o = true →
        let bytes := (List.range 256).filter fun b => u.active m (b / et.bytes)
        ∃ t, exec (.writePerformed o.id) s = .next t ∧ t.chip.mem = c.mem ∧ t.chip.op? o.id = none ∧
          (∀ j, (t.chip.thread j).regs = (c.thread j).regs) ∧
          ∀ j, (t.chip.core j).scratch = if j = k then q.scratch.setAt (bytes.map (p.toNat + ·)) (bytes.map fun b => u.vec[vd].extractLsb' (8 * b) 8)
            else (c.core j).scratch) ∧
      (∀ z rm f, turn →
        (o.body = .vec (.vldg sw vd x et m f) z rm → loads → forms execResultReturn (line z) True (.vget vd et.bytes false (line z) [])) ∧
        (o.body = .vec (.vgath sw vd va x et m f) z rm → loads →
          forms execResultReturn (spread z) False (.vget vd et.bytes true (spread z) [])) ∧
        (o.body = .vec (.vstg sw vd x et m f) z rm → stores →
          forms execWritePerformed (line z) True (.vput et.bytes false (line z) u.vec[vd] [])) ∧
        (o.body = .vec (.vscat sw vd va x et m f) z rm → stores →
          forms execWritePerformed (spread z) False (.vput et.bytes true (spread z) u.vec[vd] []))) ∧
      (∀ w lanes l rest, c.nextLane o w lanes = l :: rest → ∃ pre post, lanes = pre ++ l :: post ∧ rest = pre ++ post ∧
        ∀ y ∈ pre, c.lanesMeet o w l y = false) ∧
      (∀ w sp lanes done, o.body = .vget vd w sp lanes done → loads → c.walkHeld k o.part o.asid o.body.walks = [] →
        (lanes = [] → c.owned o = true → ∃ t, exec (.resultReturn o.id) s = .next t ∧ Ends s o 0 0 t ∧ t.chip.mem = c.mem) ∧
        ∀ l rest keys page, lane lanes w l rest → here .read l.2 w keys page → c.poisoned keys = false →
          (∀ a ∈ keys, Table.get? q.stale (lineOf a) = none) →
          ∃ t, exec (.resultReturn o.id) s = .next t ∧ t.chip.mem = c.mem ∧
            (t.chip.op? o.id).map Op.body = some (.vget vd w sp rest (l.1 :: done)) ∧
            { t.chip.thread o.tid with vec := u.vec } = u ∧ (∀ v, v ≠ vd → (t.chip.thread o.tid).vec[v] = u.vec[v]) ∧
            ∀ i < 256 / w, vlane (t.chip.thread o.tid).vec[vd] w i = if i = l.1 then natOfBytes (keys.map c.mem.byte) else vlane u.vec[vd] w i) ∧
      ∀ w sp lanes data done, o.body = .vput w sp lanes data done → stores → c.walkHeld k o.part o.asid o.body.walks = [] →
        (lanes = [] → ∃ t, exec (.writePerformed o.id) s = .next t ∧ Ends s o 0 0 t ∧ t.chip.mem = c.mem) ∧
        ∀ l rest keys page, lane lanes w l rest → here .write l.2 w keys page → c.single page = true →
          ∃ t, exec (.writePerformed o.id) s = .next t ∧ t.chip.mem = c.mem.setAt keys (bytesOfNat w (vlane data w l.1)) ∧
            (t.chip.op? o.id).map Op.body = some (.vput w sp rest data (l.1 :: done))

/-! ### Tile instructions -/

/-- R120 to R131, R136: TLD, TLDV, TEXP, TWAIT, TDIG, TINFO, TPROBE, TADD and TREL send their request about the handle a, and
deliver to the local bytes at b, to whole vector registers from v, or to byte memory as the record at b lays out. A handle that R67
does not allow raises BAD_HANDLE; a local address out of its place ALIGN; registers beyond v7 and operands out of range
ILLEGAL_OPERAND. It rests on the model's choices of log 58. -/
def Obligations.TileReads : Prop :=
  ∀ (s : State) (sw det keep hi : Bool) (a b : Src) (k : Ctr) (v : VReg),
    let h := s.val a
    let mine := fun (p : PureTask) => p.args.any (sameVersion h)
    let one := fun (i : Instr) (body : TileBody) (acquires : Bool) => s.lenient mine → ∃ t, exec i s = .next t ∧
      if badHandle h then Traps s (s.trapOf .badHandle 0 h 0 0 (!det) none sw) t
      else Commands s det k { opA := h, result := h } (.tile acquires) [s.reqOf h body h] t (s.noted mine)
    let two := fun (i : Instr) (good : State → Prop) => ∃ t, exec i s = .next t ∧
      if badHandle h then Traps s (s.trapOf .badHandle 0 h (s.val b) 0 (!det) none sw) t else good t
    let illegal := fun t => Traps s (s.trapOf .illegalOperand 0 h (s.val b) 0 (!det) none sw) t
    let align := fun t => Traps s (s.trapOf .align 0 h (s.val b) (s.val b) (!det) none sw) t
    let n := tbytes h
    let regs := (List.finRange 8).filter fun r => v.val ≤ r.val ∧ r.val < v.val + (n + 255) / 256
    (s.clear { sw := sw, pair := [a], push := !det } →
      one (.twait sw a k det) (.look .handle) true ∧ one (.tdig sw a k det hi) (.look (.digest hi)) true ∧
      one (.tinfo sw a k det) (.look .info) true ∧ one (.tprobe sw a k det) .probe false) ∧
    (s.clear { sw := sw, pair := [a, b], push := !det } →
      (s.lenient mine → two (.tld sw a b k det keep) fun t => match s.place (s.val b) n 16 with
        | some p => Commands s det k { opA := h, opB := s.val b, ranges := [range p n true], result := h } (.tileLocal p)
            [s.reqOf h (.load keep) h] t (s.noted mine)
        | none => align t) ∧
      (s.lenient → ∀ add : Bool, two (if add then .tadd sw a b k det else .trel sw a b k det) fun t =>
        let c := (s.val b).toNat
        if 65534 < c ∨ (add = true ∧ c = 0) then illegal t
        else Commands s det k { opA := h, opB := s.val b, result := h } (.tile true) [s.reqOf h (.change add c) h] t s.noted) ∧
      (s.lenient → two (.texp sw a b k det keep) fun t => match s.place (s.val b) 16 8 with
        | none => align t
        | some p => s.free p 16 →
          let w := (s.localWord (p + 8)).toNat
          let row := elemBytes (hFmt h) (hCols h)
          if 2 ^ 32 ≤ w ∨ (w ≠ 0 ∧ w < row) then illegal t
          else Commands s det k { opA := h, opB := s.val b, result := h }
            (.tileMem (s.localWord p) (if w = 0 then row else w) 0) [s.reqOf h (.load keep) h] t s.noted)) ∧
    (s.lenient mine → s.clear { sw := sw, pair := [a], push := true, vuse := regs, vout := regs } → s.chip.piped = [] →
      ∃ t, exec (.tldv sw a k v keep) s = .next t ∧
        if badHandle h then Traps s (s.trapOf .badHandle 0 h 0 0 true none sw) t
        else if 8 < v.val + (n + 255) / 256 then Traps s (s.trapOf .illegalOperand 0 h 0 0 true none sw) t
        else Commands s false k { opA := h, result := h } (.tileVec v) [s.reqOf h (.load keep) h] t (s.noted mine))

/-- R120 to R123, R133 to R137: TST and TSTV read the bytes of the tile at issue and send them with a use count from 1 to 65535;
TALIAS sends a load of the source that its record names; TIMP sends a store whose bytes it will gather from byte memory; they wait
at a REL fence that names TILE (R84). TSPACE
defines a space from the 64-byte descriptor at b, or removes one, 255 only from a level above user. It rests on the model's
choices of log 23, log 58, log 71. -/
def Obligations.TileWrites : Prop :=
  ∀ (s : State) (sw det : Bool) (a b : Src) (k : Ctr) (v : VReg),
    let h := s.val a
    let names := fun (g : Word) (hs : List Word) => hs.any (sameVersion g)
    let mine := fun (p : PureTask) => names h p.outs
    let space := s.chip.strictSpace h
    let w := (s.val b).toNat
    let n := tbytes h
    let trap := fun (cause : Cause) (addr : Word) => Traps s (s.trapOf cause 0 h (s.val b) addr (!det) none sw)
    let sends := fun (ok : PureTask → Bool) (body : OpBody) (r : Req) (t : State) =>
      HeldOr s 1 t (Commands s det k { opA := h, opB := s.val b, result := h } body [r] t ((s.noted ok).passing 1))
    let regs := (List.finRange 8).filter fun r => v.val ≤ r.val ∧ r.val < v.val + (n + 255) / 256
    (s.clear { sw := sw, pair := [a, b], push := !det } →
      (s.lenient mine space → ∃ t, exec (.tst sw a b k det) s = .next t ∧
        if badHandle h then trap .badHandle 0 t
        else match s.place (BitVec.ofNat 64 (w % 2 ^ 32)) n 16 with
          | none => trap .align (BitVec.ofNat 64 (w % 2 ^ 32)) t
          | some p =>
            let uses := w / 2 ^ 32
            if uses = 0 ∨ 65535 < uses then trap .illegalOperand 0 t
            else s.free p n → sends mine (.tile false) (s.reqOf h (.store uses ((s.chip.core s.myCore).scratch.bytes p n)) h) t) ∧
      (∃ t, exec (.talias sw a b k det) s = .next t ∧
        if badHandle h then trap .badHandle 0 t
        else match s.place (s.val b) 16 8 with
          | none => trap .align (s.val b) t
          | some p => s.free p 16 →
            let src := s.localWord p
            let uses := (s.localWord (p + 8)).toNat
            let both := fun (q : PureTask) => mine q && names src q.args
            s.lenient both space → if badHandle src then trap .badHandle 0 t
            else if uses = 0 ∨ 65535 < uses then trap .illegalOperand 0 t
            else sends both (.tile true) (s.reqOf src (.talias src uses) h) t) ∧
      (s.lenient (space := space) → ∃ t, exec (.timp sw a b k det) s = .next t ∧
        if badHandle h then trap .badHandle 0 t
        else match s.place (s.val b) 16 8 with
          | none => trap .align (s.val b) t
          | some p => s.free p 16 →
            let x := (s.localWord (p + 8)).toNat
            let row := elemBytes (hFmt h) (hCols h)
            let step := x % 2 ^ 32
            let uses := x / 2 ^ 32
            if (step ≠ 0 ∧ step < row) ∨ uses = 0 ∨ 65535 < uses then trap .illegalOperand 0 t
            else sends (fun _ => false) (.gather (s.localWord p) (if step = 0 then row else step) []) (s.reqOf h (.gather uses) h) t) ∧
      (s.lenient → ∃ t, exec (.tspace sw a b k det) s = .next t ∧
        let x := h.toNat
        let begins := fun (body : OpBody) => Commands s det k { opA := h, opB := s.val b, result := BitVec.ofNat 64 (x % 256) } body [] t s.noted
        if 0x1FF < x then trap .illegalOperand 0 t
        else if x % 256 = 255 ∧ s.me.level = .user then trap .privilege 0 t
        else if 0x100 ≤ x then if b = .n 0 then begins (.tspace true (x % 256) []) else trap .illegalOperand 0 t
        else match s.place (s.val b) 64 64 with
          | none => trap .align (s.val b) t
          | some p => s.free p 64 → s.me.level ≠ .user →
            let bytes := (s.chip.core s.myCore).scratch.bytes p 64
            if s.chip.descriptorOk s.me.part (s.localWord p) (s.localWord (p + 8)) (bytes.drop 16) then begins (.tspace false x bytes)
            else trap .illegalOperand 0 t)) ∧
    (s.lenient mine space → s.clear { sw := sw, pair := [a, b], push := !det, vuse := regs } → s.chip.piped = [] →
      ∃ t, exec (.tstv sw a b k det v) s = .next t ∧
        if badHandle h then trap .badHandle 0 t
        else if 8 < v.val + (n + 255) / 256 ∨ w = 0 ∨ 65535 < w then trap .illegalOperand 0 t
        else sends mine (.tile false) (s.reqOf h (.store w (s.me.vecBytes v n)) h) t)

/-! ### Engine registers, the matrix unit and the copy engine -/

/-- R175, R180, R192 to R197, R342, R343: MSET and CSET write the register that a names if b has no reserved bit and no value that
its rule forbids, and else raise ILLEGAL_OPERAND; MGET pushes the register that a names, 6 being mx.status. -/
def Obligations.EngineRegisters : Prop :=
  ∀ (s : State) (sw : Bool) (a b : Src),
    let i := (s.val a).toNat
    let v := s.val b
    let n := v.toNat
    let trap := Traps s (s.trapOf .illegalOperand 0 (s.val a) v 0 false none sw)
    let writes := fun (f : Thread → Thread) (t : State) => Moves (s.withMe f) (s.me.pc + 4) t
    (s.clear { sw := sw, pair := [a, b] } →
      (∃ t, exec (.mset sw a b) s = .next t ∧ match i with
        | 0 => if n < 2 ^ 48 then writes (fun u => { u with geom := v }) t else trap t
        | 1 => if n / 2 ^ 8 % 2 ^ 24 = 0 ∧ n % 4 ≠ 3 then writes (fun u => { u with amode := v }) t else trap t
        | 2 => if n < 2 ^ 10 ∧ n / 2 ^ 7 ≤ 4 ∧ n / 8 % 8 ≤ 4 ∧ n % 8 ≤ n / 8 % 8 then writes (fun u => { u with ladder := v }) t
          else trap t
        | 3 => if n < 2 ^ 37 then writes (fun u => { u with budget := v }) t else trap t
        | 4 => writes (fun u => { u with alpha := v }) t
        | 5 => if n % 2 ^ 32 < 3 then writes (fun u => { u with sparse := v }) t else trap t
        | _ => trap t) ∧
      ∃ t, exec (.cset sw a b) s = .next t ∧ match i with
        | 0 => if n < 2 ^ 48 then writes (fun u => { u with cpShape := v }) t else trap t
        | 1 => if n < 2 ^ 32 then writes (fun u => { u with cpSstride := v }) t else trap t
        | 2 => if n < 2 ^ 32 then writes (fun u => { u with cpDstride := v }) t else trap t
        | 3 => writes (fun u => { u with cpFlag := v }) t
        | 4 => writes (fun u => { u with cpFlagadd := v }) t
        | 5 => if n < 2 ^ 6 ∧ n / 8 % 2 = 0 then writes (fun u => { u with cpQueue := v }) t else trap t
        | _ => trap t) ∧
    (s.clear { sw := sw, pair := [a], push := true } → ∃ t, exec (.mget sw a) s = .next t ∧
      match [s.me.geom, s.me.amode, s.me.ladder, s.me.budget, s.me.alpha, s.me.sparse, s.chip.mxStatus s.myCore][i]? with
      | some v => Pushes s none v 0 t
      | none => Traps s (s.trapOf .illegalOperand 0 (s.val a) 0 0 true none sw) t)

/-- R140, R171, R172, R188, R198, R199: an MLDB whose bind word, geometry and format are allowed leaves the bind to be made, from the
rows at a in scratchpad or from the tile of the handle a, with the presence bytes of mx.sparse where B is sparse; a bind word with a
reserved bit, a K or N beyond the macros of its shape, or a blocked or sparse B in K-by-N order, raises ILLEGAL_OPERAND. It rests on
the model's choices of log 32, log 58. -/
def Obligations.MatrixBinds : Prop :=
  ∀ (s : State) (sw det : Bool) (a b : Src) (k : Ctr), s.clear { sw := sw, pair := [a, b], push := !det } →
    let h := s.val a
    let w := (s.val b).toNat
    let tile := w / 2 ^ 11 % 2 = 1
    let sparse := s.me.sparse.toNat % 4
    let kByN := w % 4 = 0
    let fmt := if tile then hFmt h else w / 2 ^ 5 % 32
    let blocked := if tile then hBlocked h else w / 2 ^ 10 % 2 = 1
    let kk := s.me.geom.toNat / 2 ^ 32 % 2 ^ 16
    let n := s.me.geom.toNat / 2 ^ 16 % 2 ^ 16
    let kept := match sparse with
      | 1 => (kk + 7) / 8 * 4
      | 2 => (kk + 7) / 8 * 2
      | _ => kk
    let bind := fun (p : Nat) => ({
      src := .scratch p, fmt := fmt, blocked := blocked, kByN := kByN, shape := w / 4 % 8, k := kk, n := n, sparse := sparse,
      rows := if tile then hRows h else if kByN then kk else n,
      cols := if tile then hCols h else if kByN then n else kept, presence := [], olds := [] } : Bind)
    let len := (bind 0).rows * elemBytes fmt (bind 0).cols + if blocked then (bind 0).rows * ((kk + 7) / 8) else 0
    let marks := n * ((kk + 7) / 8)
    let shaped := ∃ p q, macroShape (isMCore s.myCore) (w / 4 % 8) = some (p, q) ∧ 1 ≤ n ∧ n ≤ 64 * q ∧ 1 ≤ kk ∧
      kk ≤ 64 * p * (match sparse with | 1 => 2 | 2 => 4 | _ => 1)
    let ok := w < 2 ^ 12 ∧ w % 4 < 2 ∧ (tile → w / 2 ^ 5 % 2 ^ 6 = 0) ∧ ¬(blocked ∧ kByN) ∧ shaped ∧ ¬(sparse ≠ 0 ∧ kByN)
    let places := fun (p mp : Nat) =>
      (tile ∨ s.place h len 16 = some p) ∧ (tile → p = 0 ∧ badHandle h = false) ∧
      (if sparse = 0 then mp = 0 else s.place (BitVec.ofNat 64 (s.me.sparse.toNat / 2 ^ 32)) marks 16 = some mp)
    let may := fun (p : PureTask) => decide ¬tile || p.args.any (sameVersion h)
    s.lenient may → mxFormat fmt = true → (blocked → blockable fmt = true) → ∀ p mp, places p mp →
      ∃ t, exec (.mldb sw a b k det) s = .next t ∧
        (¬ok → Traps s (s.trapOf .illegalOperand 0 h (s.val b) 0 (!det) none sw) t) ∧
        (ok → Commands s det k
          { opA := h, opB := s.val b,
            ranges := (if sparse = 0 then [] else [range mp marks false]) ++ if tile then [] else [range p len false] }
          (.mldb (bind p) (if tile then some h else none) mp (s.me.ladder.toNat % 8)) [] t (s.noted may))

/-- R141, R173, R174, R200 to R202: an MMUL whose registers, accumulator word and slots are allowed reads all of them at issue, takes
its A from scratchpad, a tile or byte memory, ends its group, and parks its thread until its result word is there; a K or N above that
of the bind it is to use raises ILLEGAL_OPERAND. R177, R185: a block of A and one of B, quantised to the rung (R176), leave an
accumulator as it is where a code is 0, and else add to it, or take from it in mode 3, with one rounding in the accumulator format, the
exact sum of the products, or a NaN where a code is 255; a row starts at +0, at the slot's values, exactly, or at α times them. It rests
on the model's choices of log 30, log 31, log 58, log 67, log 77. -/
def Obligations.MatrixProducts : Prop :=
  (∀ (x : MulIn) (blk i : Nat) (own : Option Nat) (es accs : List FVal) (r : Run),
    let F := if x.rung = 4 then fp64 else fp32
    let rm := x.ladder.extractLsb' 7 3
    let a := qblock x.rung x.fmtA (mxInt x.fmtA) own (es.map some)
    let out := (x.block blk own es (r, accs)).2
    out.length = accs.length ∧
    (∀ j acc, accs[j]? = some acc → let b := x.blockB j blk
      (a.code = 0 ∨ b.code = 0 → out[j]? = some acc) ∧
      (a.code ≠ 0 → b.code ≠ 0 → ∃ sum : FVal, out[j]? = some (F.value (F.add rm acc (if x.mode = 3 then sum.negate else sum)).1) ∧
        (a.code = 255 ∨ b.code = 255 → sum = .nan false) ∧
        (a.code ≠ 255 → b.code ≠ 255 → (∀ v : FVal, some v ∈ a.vals ∨ some v ∈ b.vals → v.finite) → sum.finite ∧
          sum.rat = ((a.vals.zip b.vals).map fun p => (p.1.map FVal.rat).getD 0 * (p.2.map FVal.rat).getD 0).sum))) ∧
    (x.starts r i).2 = (List.range x.n).map fun j => match x.mode with
      | 0 => .fin false 0 0
      | 2 => F.value (F.mul rm (F.value (F.convert rm (fp64.value x.alpha.toNat)).1) (x.slot i j)).1
      | _ => x.slot i j) ∧
  ∀ (s : State) (sw : Bool) (a b : Src) (k : Ctr), s.clear { sw := sw, pair := [a, b], push := true, ends := true } →
    let x := s.val a
    let w := (s.val b).toNat
    let src := s.me.amode.toNat % 4
    let fmt := if src = 1 then hFmt x else s.me.amode.toNat / 4 % 32
    let blocked := if src = 1 then hBlocked x else s.me.amode.toNat / 2 ^ 7 % 2 = 1
    let m := s.me.geom.toNat % 2 ^ 16
    let n := s.me.geom.toNat / 2 ^ 16 % 2 ^ 16
    let kk := s.me.geom.toNat / 2 ^ 32 % 2 ^ 16
    let row := elemBytes fmt kk
    let stride := if s.me.amode.toNat / 2 ^ 32 = 0 then row else s.me.amode.toNat / 2 ^ 32
    let len := if blocked then m * stride + m * ((kk + 7) / 8) else (m - 1) * stride + row
    let wide := s.me.ladder.toNat / 8 % 8 = 4
    let tiles := (m + 63) / 64 * ((n + 63) / 64)
    let count := if wide then 2 * tiles else tiles
    let slots := (s.me.slots.drop (w % 16)).take count
    w < 2 ^ 7 → 1 ≤ m → m ≤ 4096 → 1 ≤ n → 1 ≤ kk → w % 16 + count ≤ s.me.slots.length →
    (w / 16 % 4 = 0 ∨ ∀ p ∈ slots, s.chip.tagAt s.myCore p = decide wide) →
    mxFormat fmt = true → (blocked → blockable fmt = true) →
    (if src = 1 then badHandle x = false ∧ m ≤ hRows x ∧ kk ≤ hCols x else row ≤ stride) →
    ∀ from_ : ASrc, (match from_ with
        | .scratch p => src = 0 ∧ s.place x len 16 = some p
        | .tile h => src = 1 ∧ h = x
        | .mem va => src = 2 ∧ va = x) →
      let may := fun (p : PureTask) => match from_ with
        | .scratch _ => true
        | .tile h => p.args.any (sameVersion h)
        | .mem _ => false
      s.lenient may →
      let past := ∃ q, s.chip.bindBefore s.chip.nextId s.myCore = some q ∧ (q.k < kk ∨ q.n < n)
      ∃ t, exec (.mmul sw a b k) s = .next t ∧
        (past → Traps s (s.trapOf .illegalOperand 0 x (s.val b) 0 true none true) t) ∧
        (¬past → Commands s false k
          { opA := x, opB := s.val b,
            ranges := (match from_ with | .scratch p => [range p len false] | _ => []) ++
              s.chip.bindRange s.chip.nextId s.myCore ++
              slots.map fun p => { acc := true, lo := p, hi := p + 1, wr := true } }
          (.mmul { src := from_, fmt := fmt, blocked := blocked, stride := stride, m := m, n := n, k := kk, mode := w / 16 % 4,
                   sparse := w / 2 ^ 6 % 2 = 1, slots := slots, wide := wide, ladder := s.me.ladder, budget := s.me.budget,
                   alpha := s.me.alpha } none) [] t (s.noted may)) ∧
        (¬past → s.counter s.myCore k ≠ 255 → t.me.park = .product s.chip.nextId ∧ t.me.marker = true)

/-- R189 to R193, R205 to R212: MCLR, MRD to scratchpad and as a tile, MWR, MRED, MSCR, MSCC, MCMP and MSTAT read their operands,
slots and geometry at issue and hold the slots and bytes they will read and write; a slot that is not allocated, a geometry out of
range, an operand beyond its limit, or a pair of slots read as one WIDE tile of which one is NARROW raises ILLEGAL_OPERAND; MCMP with a
blocked form that its format does not have raises BAD_HANDLE (R147). In their turn MCLR clears its slots; MRD writes the elements,
converted with saturation, to scratchpad, or sends them as a tile, by blocks and with their codes where it is blocked; MWR writes the
slots from scratchpad; MRED writes v with the rows reduced, and zeros; MSCR and MSCC multiply each element by the lane of its row or
column; MCMP keeps the greatest of each group of 8 with its presence byte, and returns how many of the others are not zero; and MSTAT
returns a counter. The others return the word of their events and flags (R208). It rests on the model's choices of log 32, log 58,
log 78, log 79, log 80, log 81. -/
def Obligations.MatrixSlots : Prop :=
  (∀ (s : State) (o : Op), s.chip.op? o.id = some o → o.fault = none → o.eng = true → (o.push = true → s.chip.owned o = true) →
    let c := s.chip
    let k := coreOf o.tid
    let q := c.core k
    c.mxTurn o = true → c.granted k o.id o.ranges = true → c.heldByFork o = false →
    let run := exec (if o.push then .resultReturn o.id else .engineCompletion o.id) s
    let place := fun (ss : List Nat) (wide : Bool) (i j : Nat) =>
      if wide then 16384 * ss.getD (j / 32) 0 + 256 * i + 8 * (j % 32) else 16384 * ss.getD 0 0 + 256 * i + 4 * j
    let F := fun (wide : Bool) => if wide then fp64 else fp32
    let width := fun (wide : Bool) => if wide then 8 else 4
    let value := fun (ss : List Nat) (wide : Bool) (i j : Nat) =>
      (F wide).value (natOfBytes (q.acc.bytes (place ss wide i j) (width wide)))
    let each := fun (m n : Nat) => (List.range m).flatMap fun i => (List.range n).map fun j => (i, j)
    let write := fun (ss : List Nat) (wide : Bool) (acc : Memory) (m n : Nat) (bits : Nat × Nat → Nat) => (each m n).foldl
      (fun mem e => mem.setBytes (place ss wide e.1 e.2) (bytesOfNat (width wide) (bits e))) acc
    let tile := fun (m n : Nat) => 1 ≤ m ∧ m ≤ 64 ∧ 1 ≤ n ∧ n ≤ 64
    let tags := fun (ss : List Nat) (wide : Bool) (t : State) => ∀ j p, p ∈ (t.chip.core j).wide ↔
      if j = k ∧ p ∈ ss then wide = true else p ∈ (c.core j).wide
    let word := fun (es : List (Nat × Nat)) (f : Nat × Nat → Quant) => BitVec.ofNat 64
      (256 * ((es.map fun e => (f e).flags).foldl (· ||| ·) 0).toNat + 2 ^ 16 * min 65535 (es.map fun e => (f e).unf).sum +
        2 ^ 32 * min 65535 (es.map fun e => (f e).sat).sum)
    let flags := fun (es : List (Nat × Nat)) (f : Nat × Nat → FlagSet) => word es fun e => { bits := 0, flags := f e, sat := 0, unf := 0 }
    let ends := fun (q' : Core) (w : Word) (t : State) => Ends (s.put (c.modCore k fun _ => q')) o w 0 t ∧ t.chip.mem = c.mem
    (∀ ss wide, o.body = .mx (.clr ss wide) → ∃ t acc, run = .next t ∧ ends { q with acc := acc } o.result t ∧ tags ss wide t ∧
      ∀ p, acc.byte p = if p / 16384 ∈ ss then 0 else q.acc.byte p) ∧
    (∀ ss wide m n fmt dst, o.body = .mx (.rd ss wide m n fmt dst) → tile m n →
      let row := elemBytes fmt n
      let quant := fun (e : Nat × Nat) => quantize fmt (value ss wide e.1 e.2)
      ∃ t bs, run = .next t ∧ ends { q with scratch := q.scratch.setBytes dst bs } (word (each m n) quant) t ∧ tags [] wide t ∧
        bs.length = m * row ∧ ∀ e ∈ each m n, elemAt fmt ((bs.drop (e.1 * row)).take row) e.2 = (quant e).bits) ∧
    (∀ ss wide m n h uses, o.body = .mx (.rdTile ss wide m n h uses) → tile m n → hRows h = m → hCols h = n →
      let fmt := hFmt h
      let row := elemBytes fmt n
      let code := fun (i b : Nat) => scaleCode fmt ((List.range 8).map fun t => value ss wide i (8 * b + t))
      let quant := fun (e : Nat × Nat) => let v := value ss wide e.1 e.2
        if hBlocked h = false then quantize fmt v
        else if code e.1 (e.2 / 8) = 0 ∨ code e.1 (e.2 / 8) = 255 then { bits := canonZero fmt, flags := 0, sat := 0, unf := 0 }
        else quantize fmt (v.scale (127 - code e.1 (e.2 / 8)))
      ∃ t r bs, run = .next t ∧ t.chip.mem = c.mem ∧ t.chip.reqs = c.reqs ++ [r] ∧ r.id = o.id ∧ r.part = o.part ∧ r.space = hSpace h ∧
        r.index = hIndex h ∧ r.version = hVersion h ∧ r.header = hHeader h ∧ r.body = .store uses bs ∧ r.origin = .op o.id ∧
        r.phase = .travelling ∧
        t.chip.op? o.id = some { o with body := .tile false, result := word (each m n) quant, opA := h, ranges := [] } ∧
        bs.length = m * row + (if hBlocked h then m * (n / 8) else 0) ∧
        (∀ e ∈ each m n, elemAt fmt ((bs.drop (e.1 * row)).take row) e.2 = (quant e).bits) ∧
        (hBlocked h = true → ∀ i < m, ∀ b < n / 8, (bs.getD (m * row + i * (n / 8) + b) 0).toNat = code i b)) ∧
    (∀ ss wide m n fmt src, o.body = .mx (.wr ss wide m n fmt src) → tile m n → (wide = true ↔ fmt = 1) →
      let row := elemBytes fmt n
      let load := fun (e : Nat × Nat) =>
        let v := elemValue fmt (elemAt fmt (q.scratch.bytes (src + e.1 * row) row) e.2)
        if fmt < 7 then let r := (F wide).convert 0 v; ({ bits := r.1, flags := r.2, sat := 0, unf := 0 } : Quant) else quantFlt fp32 v
      let kept := q.acc.filter fun e => !(ss.any fun p => p == e.1 / 16384 && q.wide.contains p != wide)
      ∃ t, run = .next t ∧ ends { q with acc := write ss wide kept m n fun e => (load e).bits } (word (each m n) load) t ∧ tags ss wide t) ∧
    (∀ ss wide m n op v rm, o.body = .mx (.red ss wide m n op v rm) → tile m n →
      let term := fun (i j : Nat) => value ss wide i j
      let any := fun (i : Nat) (p : FVal → Bool) => (List.range n).any fun j => p (term i j)
      let sum := fun (i : Nat) => ((List.range n).map fun j => if op = .ssq then (term i j).rat ^ 2 else (term i j).rat).sum
      let zero := fun (i : Nat) => if (op = .sum ∧ ∀ j < n, (term i j).sign = true) ∨ rm = 2 then 2 ^ 31 else 0
      ∃ (t : State) (f : Nat → FRes) (x : VWord), run = .next t ∧
        Ends (s.put (c.modThread o.tid fun u => { u with vec := u.vec.set v x })) o (flags (each m 1) fun e => (f e.1).2) 0 t ∧
        t.chip.mem = c.mem ∧ tags [] wide t ∧ (∀ i < 64, vlane x 4 i = if i < m then (f i).1 else 0) ∧ ∀ i < m,
          (any i FVal.isNan = true → f i = (fp32.nan, if any i FVal.signals then flagNV else 0)) ∧
          (any i FVal.isNan = false → op = .max → ∃ j < n, f i = fp32.convert rm (term i j) ∧ ∀ j' < n, ¬(term i j).below (term i j')) ∧
          ((∀ j < n, (term i j).finite) → op ≠ .max → if sum i = 0 then f i = (zero i, 0)
            else ∃ neg mag e, (FVal.fin neg mag e).rat = sum i ∧ f i = fp32.convert rm (.fin neg mag e))) ∧
    (∀ ss wide m n cols x rm, o.body = .mx (.scale ss wide m n cols x rm) → tile m n →
      let scaled := fun (e : Nat × Nat) => (F wide).mul rm (value ss wide e.1 e.2) (fp32.value (vlane x 4 (if cols then e.2 else e.1)))
      ∃ t, run = .next t ∧ ends { q with acc := write ss wide q.acc m n fun e => (scaled e).1 } (flags (each m n) fun e => (scaled e).2) t ∧
        tags [] wide t) ∧
    (∀ fmt n kk two src dst mp, o.body = .mx (.cmp fmt n kk two src dst mp) → kk % 8 = 0 →
      let keep := if two then 2 else 4
      let groups := n * (kk / 8)
      let element := fun (g t : Nat) => elemAt fmt (q.scratch.bytes src (n * elemBytes fmt kk)) (8 * g + t)
      let size := fun (g t : Nat) => |(elemValue fmt (element g t)).rat|
      let finite := fun (g : Nat) => ∀ t < 8, (elemValue fmt (element g t)).finite
      ∃ (t : State) (vals marks : List Byte), run = .next t ∧
        let kept := fun (g : Nat) => (List.range 8).filter fun i => (marks.getD g 0).getLsbD i
        ends { q with scratch := (q.scratch.setBytes dst vals).setBytes mp marks } (BitVec.ofNat 64 ((List.range groups).map fun g =>
          (List.range 8).countP fun i => !(marks.getD g 0).getLsbD i && !(elemValue fmt (element g i)).eqv (.fin false 0 0)).sum) t ∧
        tags [] true t ∧ marks.length = groups ∧ vals.length = elemBytes fmt (keep * groups) ∧ ∀ g < groups,
          (kept g).length = keep ∧ (∀ r < keep, elemAt fmt vals (keep * g + r) = element g ((kept g).getD r 0)) ∧
          (finite g → ∀ i ∈ kept g, ∀ j < 8, j ∉ kept g → size g j < size g i ∨ size g j = size g i ∧ i < j)) ∧
    ∀ i : Fin 10, o.body = .mx (.stat i.val) → c.unitFree o = true → ∃ t, run = .next t ∧ ends q q.mxc[i] t ∧ tags [] true t) ∧
  ∀ (s : State) (sw det wide two : Bool) (a b : Src) (k : Ctr) (f : BitVec 5) (v : VReg) (op : MRedOp),
    let x := s.val a
    let y := s.val b
    let m := s.me.geom.toNat % 2 ^ 16
    let n := s.me.geom.toNat / 2 ^ 16 % 2 ^ 16
    let kk := s.me.geom.toNat / 2 ^ 32 % 2 ^ 16
    let rm := s.me.ladder.extractLsb' 7 3
    let len := m * elemBytes f.toNat n
    let slots := fun (ss : List Nat) (wr : Bool) => ss.map fun p => ({ acc := true, lo := p, hi := p + 1, wr := wr } : LRange)
    let tag := s.chip.operandTag x.toNat
    let runs := fun (a : Start) (cmd : MxCmd) => Commands s det k a (.mx cmd) []
    let illegal := fun (y : Word) => Traps s (s.trapOf .illegalOperand 0 x y 0 (!det) none sw)
    (s.clear { sw := sw, pair := [a, b], push := !det } →
      (∃ t, exec (.mclr sw a b k det wide) s = .next t ∧
        if y = 0 ∨ 8 < y.toNat ∨ 15 < x.toNat ∨ s.me.slots.length < x.toNat + y.toNat then illegal y t
        else
          let ss := (s.me.slots.drop x.toNat).take y.toNat
          runs { opA := x, opB := y, result := y, ranges := slots ss true } (.clr ss wide) t) ∧
      (∀ p, numeric f.toNat = true → s.place y len 16 = some p →
        (∃ t, exec (.mrd sw a b k det f) s = .next t ∧ match s.readSlots x with
          | some ss => runs { opA := x, opB := y, ranges := range p len true :: slots ss false } (.rd ss tag m n f.toNat p) t
          | none => illegal y t) ∧
        ∃ t, exec (.mwr sw a b k det f) s = .next t ∧ match s.tileSlots x (f = 1) with
          | some ss => runs { opA := x, opB := y, ranges := range p len false :: slots ss true } (.wr ss (f = 1) m n f.toNat p) t
          | none => illegal y t) ∧
      (∀ p, s.place y 16 8 = some p → s.free p 16 →
        let h := s.localWord p
        let uses := (s.localWord (p + 8)).toNat
        let mine := fun (q : PureTask) => q.outs.any (sameVersion h)
        s.lenient mine (s.chip.strictSpace h) → badHandle h = false → ∃ t, exec (.mrdTile sw a b k det) s = .next t ∧ match s.readSlots x with
          | some ss =>
            if numeric (hFmt h) = true ∧ 1 ≤ uses ∧ uses < 65536 ∧ hRows h = m ∧ hCols h = n then
              HeldOr s 1 t
                (Commands s det k { opA := x, opB := y, ranges := slots ss false } (.mx (.rdTile ss tag m n h uses)) [] t ((s.noted mine).passing 1))
            else illegal y t
          | none => illegal y t) ∧
      (s.me.amode.getLsbD 7 = true → blockable (s.me.amode.toNat / 4 % 32) = false → ∃ t, exec (.mcmp sw a b k det two) s = .next t ∧
        Traps s (s.trapOf .badHandle 0 x y 0 (!det) none sw) t) ∧
      ∀ p d mp, let fmt := s.me.amode.toNat / 4 % 32
        let src := n * elemBytes fmt kk
        let dst := n * elemBytes fmt (kk / 8 * if two then 2 else 4)
        let marks := n * (kk / 8)
        cmpFormat fmt = true → (s.me.amode.getLsbD 7 = true → blockable fmt = true) → kk % 8 = 0 → s.place x src 16 = some p → s.place y dst 16 = some d →
        s.place (BitVec.ofNat 64 (s.me.sparse.toNat / 2 ^ 32)) marks 16 = some mp →
        ∃ t, exec (.mcmp sw a b k det two) s = .next t ∧
          if 1 ≤ n ∧ n ≤ 4096 ∧ 1 ≤ kk ∧ kk ≤ 4096 ∧ s.me.amode.getLsbD 7 = false ∧ (d + dst ≤ p ∨ p + src ≤ d) ∧
            (mp + marks ≤ p ∨ p + src ≤ mp) then
            runs { opA := x, opB := y, ranges := [range p src false, range d dst true, range mp marks true] }
              (.cmp fmt n kk two p d mp) t
          else illegal y t) ∧
    (s.clear { sw := sw, pair := [a], push := !det } → ∃ t, exec (.mstat sw a k det) s = .next t ∧
      if 9 < x.toNat then illegal 0 t else runs { opA := x } (.stat x.toNat) t) ∧
    (s.chip.piped = [] → s.clear { sw := sw, pair := [a], push := !det, vuse := [v] } →
      (∃ t, exec (.mscr sw a k det v) s = .next t ∧ match s.readSlots x with
        | some ss => runs { opA := x, ranges := slots ss true } (.scale ss tag m n false s.me.vec[v] rm) t
        | none => illegal 0 t) ∧
      ∃ t, exec (.mscc sw a k det v) s = .next t ∧ match s.readSlots x with
        | some ss => runs { opA := x, ranges := slots ss true } (.scale ss tag m n true s.me.vec[v] rm) t
        | none => illegal 0 t) ∧
    (s.chip.piped = [] → s.clear { sw := sw, pair := [a], push := !det, vuse := [v], vout := [v] } →
      ∃ t, exec (.mred sw a k det v op) s = .next t ∧ match s.readSlots x with
        | some ss => runs { opA := x, outst := true, ranges := slots ss false } (.red ss tag m n op v rm) t
        | none => illegal 0 t)

/-- R342 to R344, R364 to R370, R373: a copy command whose registers, addresses and local rows are allowed reads them at issue and
holds its local rows, a CPYD with its place in its queue; an address or a stride that is not a multiple of 4, a flag that is not one of
8, and a local row outside its window raise ALIGN, other registers that R365 does not allow ILLEGAL_OPERAND, in its order; and a CPYD
whose queue holds 32 commands is held. It rests on the model's choices of log 12, log 58. -/
def Obligations.CopyCommands : Prop :=
  ∀ (s : State) (sw det : Bool) (a b : Src) (k : Ctr), s.clear { sw := sw, pair := [a, b], push := !det } →
    let x := s.val a
    let y := s.val b
    let die := dieOf s.myCore
    let far := s.me.cpQueue.toNat % 8
    let queue := if far = die then none else some (4 * (8 * die + far) + s.me.cpQueue.toNat / 16 % 4)
    let trap := fun (cause : Cause) (addr : Word) => Traps s (s.trapOf cause 0 x y addr (!det) none sw)
    let side := fun (la : Word) (g : CopyGeo) (stride : Nat) (good : List Nat → State → Prop) (t : State) =>
      let place := fun r => s.place (la + BitVec.ofNat 64 (r * stride)) g.rowBytes 1
      (∀ ps, ps.length = g.rows → (∀ r p, ps[r]? = some p → place r = some p) → good ps t) ∧
      ((∃ r < g.rows, place r = none) → trap .align la t)
    let held := fun (ps : List Nat) (n : Nat) (wr : Bool) => ps.map fun p => range p n wr
    let acts := fun (i : Instr) (fill queued ours : Bool) (addrs : List Word) (target : Prop) (good : CopyGeo → State → Prop) =>
      s.lenient (fun _ => ours) → ∃ t, exec i s = .next t ∧ match addrs.find? fun p => p.toNat % 4 != 0 with
        | some p => trap .align p t
        | none =>
          (¬s.copyAligned fill → trap .align 0 t) ∧
          (s.copyAligned fill → if s.me.cpFlag.toNat % 8 ≠ 0 then trap .align s.me.cpFlag t
            else (¬(s.copyOk fill queued ∧ target) → trap .illegalOperand 0 t) ∧
              (s.copyOk fill queued ∧ target → good (s.copyGeo fill) t))
    let runs := fun (ranges : List LRange) (g : CopyGeo) (src dst : CopySide) (q : Option Nat) (t : State) =>
      let ours := match src, dst with
        | .loc _, .loc _ | .pattern _, .loc _ => true
        | _, _ => false
      if 32 ≤ (q.map s.chip.queueLoad).getD 0 then Waits s (.copyQueue (q.getD 0)) t
      else Commands s det k { opA := x, opB := y, ranges := ranges }
        (.copy { geo := g, src := src, dst := dst, done := 0, queue := q, order := if q.isSome then s.chip.nextId + 1 else 0, arrived := none }) [] t (s.noted fun _ => ours)
    acts (.cpy sw a b k det) false false true [x, y] True (fun g => side x g g.sstride fun ra => side y g g.dstride fun rb =>
      runs (held ra g.rowBytes false ++ held rb g.rowBytes true) g (.loc ra) (.loc rb) none) ∧
    acts (.cpyg sw a b k det) false false false [x, y] True (fun g => side y g g.dstride fun rb =>
      runs (held rb g.rowBytes true) g (.mem x) (.loc rb) none) ∧
    acts (.cpygOut sw a b k det) false false false [x, y] True (fun g => side x g g.sstride fun ra =>
      runs (held ra g.rowBytes false) g (.loc ra) (.mem y) none) ∧
    acts (.cpyd sw a b k det) false true false [x, y] True (fun g => side x g g.sstride fun ra =>
      runs (held ra g.rowBytes false) g (.loc ra) (.mem y) queue) ∧
    acts (.cpydLoc sw a b k det) false true false [x, BitVec.ofNat 64 (y.toNat % 2 ^ 32)] (y.toNat < 2 ^ 45 ∧ y.toNat / 2 ^ 42 = far)
      (fun g => side x g g.sstride fun ra =>
        runs (held ra g.rowBytes false) g (.loc ra) (.far (y.toNat / 2 ^ 36) (y.toNat / 2 ^ 32 % 16) (y.toNat % 2 ^ 32)) queue) ∧
    acts (.cfil sw a b k det) true false true [x] True (fun g => side x g g.dstride fun ra =>
      runs (held ra g.rowBytes true) g (.pattern y) (.loc ra) none) ∧
    acts (.cfilG sw a b k det) true false false [x] True fun g => runs [] g (.pattern y) (.mem x) none

/-! ### Tasks -/

/-- R29, R251, R253, R270 to R272: SPAWN and SPAWNG check the entry and placement words in their order and trap with the first
cause. SPAWN pushes the TASK word of the next index of its graph and queues its record at the issuing core; SPAWNG takes consecutive
indices from the next multiple of 64 and forms a gang of them. A task takes q3 to q0, the spawner's modes and its ASID, and waits for
the byte accesses of the spawner that are not performed (R283). In a strict pure task they raise PURITY instead (R282). It rests on
the model's choices of log 17, log 21, log 58. -/
def Obligations.TaskSpawns : Prop :=
  ∀ (s : State) (sw : Bool) (a b : Src), s.clear (spawnHdr sw a b) →
    let c := s.noted.chip
    let entry := s.val a
    let place := s.val b
    let n := place.toNat / 2 ^ 23 % 2 ^ 8
    let next := (c.graph? s.me.part s.me.graph).map Graph.next
    let task := fun (i : Nat) => BitVec.ofNat 64 (s.me.graph * 2 ^ 16 + i)
    let traps := fun (cause : Cause) (t : State) => Traps s (s.trapOf cause 0 entry place 0 true none sw) t
    let child := fun (id i : Nat) => ({
      id := id, part := s.me.part, graph := s.me.graph, index := i, place := place, entry := entry,
      args := [s.me.age 3, s.me.age 2, s.me.age 1, s.me.age 0],
      modes := { ladder := s.me.ladder, budget := s.me.budget, alpha := s.me.alpha, vrm := s.me.vrm, frm := s.me.fflags.extractLsb' 5 3 },
      asid := s.me.asid, pool := .blocked, block := [], pureTask := none, pagerOf := none, saved := none, requested := false,
      home := s.myCore / 64, waits := c.unperformedIds } : Record)
    (∃ t, exec (.spawn sw a b) s = .next t ∧
      if entry.toNat % 4 ≠ 0 ∨ placeBad place = true ∨ n ≠ 0 ∨ place.getLsbD 22 = true then traps .illegalOperand t
      else match c.placeCause s.me.part place false, next with
        | some cause, _ => traps cause t
        | none, none => traps .illegalOperand t
        | none, some i =>
          if 0xFFFF < i then traps .illegalOperand t
          else if ¬s.lenient then traps .purity t
          else Does s (spawnHdr sw a b)
            ((Chip.emit { (c.addTask s.me.part s.me.graph i (i + 1)) with nextId := c.nextId + 1 } none (task i) 0).enqueue
              (child c.nextId i) (some s.myCore)) t) ∧
    ∃ t, exec (.spawng sw a b) s = .next t ∧
      if entry.toNat % 4 ≠ 0 ∨ placeBad place = true then traps .illegalOperand t
      else match c.placeCause s.me.part place true, next with
        | some cause, _ => traps cause t
        | none, none => traps .illegalOperand t
        | none, some i =>
          let first := (i + 63) / 64 * 64
          if 0xFFFF < first + n - 1 then traps .illegalOperand t
          else if ¬s.lenient then traps .purity t
          else ∃ c' : Chip, Does s (spawnHdr sw a b) (c'.gangRun c.nextId n) t ∧
            c'.records = c.records ++ (List.range n).map (fun k =>
              { child (c.nextId + 1 + k) (first + k) with pool := .gang c.nextId }) ∧
            c'.gangs = c.gangs ++ [newGang c.nextId s.me.part (c.part s.me.part).gangSeq n place] ∧
            (c'.part s.me.part).gangSeq = (c.part s.me.part).gangSeq + 1 ∧
            c'.ops = c.ops ++ [{ s.opOf { push := true } (.value (task first) 0) with id := c.nextId + n + 1 }] ∧
            (c'.thread c.cur).queue = pushSlot s.me.queue (c.nextId + n + 1) ∧
            (0 < n → (c'.graph? s.me.part s.me.graph).map Graph.next = some (first + n)) ∧ c'.mem = c.mem

/-- R244 to R246: SPAWNP reads its entry record and its argument block at issue. An entry record that is not at a multiple of 8
raises ALIGN; fields or counts that R244, R245 and R289 do not allow, or no free index, ILLEGAL_OPERAND; a bad handle among the
arguments and outputs BAD_HANDLE; a placement that can never be met the cause of R253; a strict pure task PURITY (R282). Otherwise the task is formed with the next
index, the command is in flight with the block and the modes as they stand, the digest of each argument is asked for, and the code
digest and generation are read (R287): from the cache of the die if it is there, else from the code, which may be refused. It
rests on the model's choices of log 57, log 58, log 64. -/
def Obligations.PureSpawns : Prop :=
  ∀ (s : State) (sw : Bool) (a b : Src), s.clear { sw := sw, pair := [a, b], push := true } →
    let c := s.chip
    let va := s.val a
    let traps := fun (cause : Cause) (addr : Word) (t : State) => Traps s (s.trapOf cause 0 va (s.val b) addr true none sw) t
    (va.toNat % 8 ≠ 0 → ∃ t, exec (.spawnp sw a b) s = .next t ∧ traps .align va t) ∧
    ∀ p rec_, va.toNat % 8 = 0 → s.place (s.val b) 160 16 = some p → s.free p 160 → s.early va 16 rec_ →
      let block := (c.core s.myCore).scratch.bytes p 160
      let blk := argBlock block
      let entry := wordOfBytes64 (rec_.take 8)
      let w := wordOfBytes64 (rec_.drop 8)
      let handles := blk.args.take blk.na
      ∃ t, exec (.spawnp sw a b) s = .next t ∧
        match (c.graph? s.me.part s.me.graph).map Graph.next with
        | some i =>
          if blk.ok entry w = true ∧ i ≤ 0xFFFF ∧ (∀ h ∈ handles ++ blk.outs.take blk.no, badHandle h = false) ∧
              c.placeCause s.me.part blk.place false = none ∧ s.lenient then
            let cmd := blk.command entry w block (s.me.graph * 2 ^ 16 + i) s.me.modes (c.part s.me.part).keyNo
            let cached := c.codeCache.find? fun e => e.die == dieOf s.myCore && e.part == s.me.part && e.asid == s.me.asid &&
              e.entry == entry && e.len == cmd.len && e.gen == (c.part s.me.part).codeGen
            let flies := fun (code : Option Digest) (gen : Word) => ∃ o ∈ t.chip.ops, o.id = c.nextId ∧ o.tid = c.cur ∧ o.push = true ∧
              o.named = none ∧ o.body = .spawnp { cmd with code := code, gen := gen }
            (match cached with
              | some e => flies (some e.digest) (c.part s.me.part).codeGen
              | none => (∃ code gen, flies code gen) ∨ t.chip.op? c.nextId = none ∧ ∃ x ∈ t.me.owed, x.id = c.nextId ∧ x.op.isSome = true) ∧
            t.me.queue = pushSlot s.me.queue c.nextId ∧ t.me.pc = s.me.pc + 4 ∧ t.me.pureTask = s.noted.me.pureTask ∧
            t.chip.reqs = c.reqs ++ handles.zipIdx.map (fun (h, k) =>
              { s.reqOf h (.look .key) h with id := c.nextId + 1 + k, origin := .argDigest c.nextId k, graph := s.me.task / 2 ^ 16 }) ∧
            (t.chip.graph? s.me.part s.me.graph).map Graph.next = some (i + 1)
          else t.me.pc = s.me.pc ∧ t.me.stopped = true ∧ t.chip.ops = c.ops ∧ t.chip.reqs = c.reqs ∧
            ∃ x ∈ t.me.owed, x.id = c.nextId ∧ x.cause =
              if ¬(blk.ok entry w = true ∧ i ≤ 0xFFFF) then .illegalOperand
              else if ¬∀ h ∈ handles ++ blk.outs.take blk.no, badHandle h = false then .badHandle
              else (c.placeCause s.me.part blk.place false).getD .purity
        | none => t.me.pc = s.me.pc ∧ t.me.stopped = true ∧ ∃ x ∈ t.me.owed, x.id = c.nextId ∧ x.cause = .illegalOperand

/-- R248, R249, R273 to R281: QUIT waits for everything of its thread, then frees the context and ends the task, or in the handler
ends the graph of the record; JOIN pushes 0 for a task that has quit and waits for one that has not, and a word that names no other
task of the graph raises ILLEGAL_OPERAND; TRIG waits for the thread's accesses and triggers its task; YIELD lets the other ready
threads of the core issue first; SLEEP parks until TIME reaches its target; PPT raises ILLEGAL_OPERAND for a live list with
a bad header or range, has no effect unless a pre-emption is pending or a slot waits for its graph, and its record fits, and then takes
a save record from the pool and begins the save with its live list (R327). It rests on the model's choices of log 17, log 52. -/
def Obligations.TaskSteps : Prop :=
  ∀ (s : State) (sw rel : Bool) (a : Src) (mask : BitVec 15),
    let c := s.chip
    let me := s.me
    let x := s.val a
    let stands := fun (t : State) => Moves s (me.pc + 4) t ∧ t.me.park = me.park
    (s.clear { sw := sw } → ∃ t, exec (.quit sw) s = .next t ∧
      if c.flying = true ∨ me.owed ≠ [] then Waits s .drain t
      else match me.handling, me.pureTask with
        | some _, _ => t = s.put (c.endHandler c.cur 2)
        | none, none => t = s.put ((((c.vacate c.cur).freed me s.myCore).taskQuit me.part me.graph me.index).fill me.part s.myCore)
        | none, some p =>
          t = s.put (((((c.cellarDecide me.part p).vacate c.cur).freed me s.myCore).taskQuit me.part me.graph me.index).fill me.part s.myCore)) ∧
    (s.clear { sw := sw, pair := [a], push := true } → ∃ t, exec (.join sw a) s = .next t ∧
      match (c.graph? me.part me.graph).bind fun g => g.tasks.find? fun i => i.idx == x.toNat % 2 ^ 16 with
      | some i =>
        if x.toNat / 2 ^ 48 % 2 ^ 15 = 0 ∧ x.toNat / 2 ^ 16 % 2 ^ 32 = me.graph ∧ i.idx ≠ me.index then
          if i.quit then Pushes s none 0 0 t ∧ Acquired s [] s.myCore .domain t
          else Begins s { push := true, opA := x } (.join me.graph i.idx) (me.pc + 4) [] t
        else Traps s (s.trapOf .illegalOperand 0 x 0 0 true none sw) t
      | none => Traps s (s.trapOf .illegalOperand 0 x 0 0 true none sw) t) ∧
    (s.clear { sw := sw } → ∃ t, exec (.trig sw) s = .next t ∧
      if c.unperformedIds = [] then Does s { sw := sw } (c.trigger me.part me.graph me.index) t
      else Waits s (.gone c.unperformedIds) t) ∧
    (s.clear { sw := sw } → ∃ t, exec (.yield sw) s = .next t ∧ Moves s (me.pc + 4) t ∧
      let others := ((c.readyThreads s.myCore).filter (· != c.cur)).map fun u => (u, (c.thread u).placedAt)
      t.me.park = if others = [] then me.park else .yielded others) ∧
    (s.clear { sw := sw, pair := [a] } → ∃ t, exec (.sleep sw a rel) s = .next t ∧ Moves s (me.pc + 4) t ∧
      let now := (c.part me.part).time.toNat
      let until_ := if rel then min (2 ^ 64 - 1) (now + x.toNat) else x.toNat
      t.me.park = if until_ ≤ now then me.park else .sleep (BitVec.ofNat 64 until_)) ∧
    (s.clear { sw := sw, pair := [a] } → ∀ list : List Word,
      (if a = .n 0 then list = [] else ∃ p n, s.place x (8 + 8 * n) 8 = some p ∧ s.free p (8 + 8 * n) ∧
        (s.localWord p).toNat / 2 ^ 20 % 2 ^ 8 = n ∧ list = (List.range (1 + n)).map fun i => s.localWord (p + 8 * i)) →
      ∃ t, exec (.ppt sw a mask) s = .next t ∧
        if a ≠ .n 0 ∧ (me.headOk (list.headD 0) = false ∨ me.listOk list = false) then Traps s (s.trapOf .illegalOperand 0 x 0 0 false none sw) t
        else if me.marked = none ∧ c.slotWants c.cur = false ∨ me.gang.isSome = true ∨ me.handling.isSome = true then stands t
        else match c.poolPlace me.part (saveSize list) with
          | none => stands t
          | some off =>
            let held := Chip.areaHeader { (c.modPart me.part fun q =>
              { q with saves := Table.put q.saves c.nextId { offset := off, size := saveSize list } }) with nextId := c.nextId + 1 } me.part
            Does s { sw := sw, pair := [a] } (held.modThread c.cur fun u =>
              { u with park := .saving mask list c.nextId false, marked := u.marked.or (some 0) }) t ∧ t.chip.ops = c.ops)

/-! ### Control registers and partitions -/

/-- R332, R340, R341: CTLRD pushes the value of a control register, read at issue; one that needs SUP raises PRIVILEGE in a user
thread, and one other than VCSR and FFLAGS raises PURITY in a strict pure task. It rests on the model's choices of log 47. -/
def Obligations.ControlReads : Prop :=
  ∀ (s : State) (sw : Bool) (d : Dest) (r : CReg),
    let me := s.me
    let p := s.chip.part me.part
    let k := s.chip.core s.myCore
    (s.me.live = true → me.level = .user →
      r ∈ [.trapvec, .hearth, .trapsave, .asid, .ptbase, .gen, .fbbase, .fbstatus, .fbheld, .pagertab, .celkey, .celquota, .slottab,
        .ptpctl, .ltol, .pstate, .partIl, .partNb, .partGroups, .partCtl, .cqStatus] →
      ∃ t, exec (.ctlrd sw d r) s = .next t ∧ Traps s (s.trapOf .privilege 0 0 0 0 true d sw) t) ∧
    (s.clear { sw := sw, dest := d, push := true, level := r.readLevel } →
      (let free := fun (_ : PureTask) => decide (r = .vcsr ∨ r = .fflags)
      s.lenient free → ∃ t, exec (.ctlrd sw d r) s = .next t ∧ Pushes (s.noted free) d (s.chip.ctlRead r) 0 t) ∧
      ∀ q, me.pureTask = some q → q.strict = true → r ≠ .vcsr → r ≠ .fflags →
        ∃ t, exec (.ctlrd sw d r) s = .next t ∧ Traps s (s.trapOf .purity 0 0 0 0 true d sw) t) ∧
    (∀ row ∈ [(CReg.tid, BitVec.ofNat 64 (s.chip.device.toNat * 2 ^ 13 + s.chip.cur)),
        (.task, BitVec.ofNat 64 (me.graph * 2 ^ 16 + me.index)), (.prio, BitVec.ofNat 64 me.prio), (.partid, BitVec.ofNat 64 me.part),
        (.cls, if s.myCore / 64 < 4 then 1 else 2), (.winsz, BitVec.ofNat 64 me.winSize), (.accn, BitVec.ofNat 64 me.slots.length),
        (.vcsr, me.vrm.setWidth 64), (.fflags, me.fflags.setWidth 64), (.time, p.time), (.cycles, k.cycles),
        (.vtStall, p.vtStall), (.vtWonce, p.vtWonce), (.vtWaits, p.vtWaits), (.dupCollapse, p.dupCollapse), (.cel 0, p.celHit),
        (.cel 1, p.celMiss), (.cel 2, p.celIns), (.cel 3, p.celDemote), (.cel 4, p.celEvict), (.trapvec, p.trapvec),
        (.hearth, p.hearth), (.trapsave, p.trapsave), (.asid, me.asid.setWidth 64), (.fbbase, p.fbbase), (.fbheld, p.fbheld),
        (.pagertab, p.pagertab), (.slottab, p.slottab), (.ltol, p.ltol.setWidth 64)], s.chip.ctlRead row.1 = row.2) ∧
    ∀ i : Fin 10, s.chip.ctlRead (.mxc i) = k.mxc[i]

/-- R4, R340, R341: CTLWR raises ILLEGAL_OPERAND for a value that the register does not take, PURITY in a strict pure task (R290), and otherwise writes it; a register
that is read only keeps its value, reserved bits read as 0, and PART_IL, PART_NB and PART_GROUPS write the staged layout of SEL. The
rows of the table for a write of one register act likewise. It rests on the model's choices of log 16, log 47, log 50, log 51, log
52. -/
def Obligations.ControlWrites : Prop :=
  ∀ (s : State) (sw : Bool) (a : Src) (r : CReg) (v : Word),
    let bad := fun (r : CReg) (v : Word) => s.chip.ctlBad r v = true
    (s.clear { sw := sw, pair := [a], level := r.writeLevel } → ∃ t, exec (.ctlwr sw a r) s = .next t ∧
      if bad r (s.val a) then Traps s (s.trapOf .illegalOperand 0 (s.val a) 0 0 false none sw) t
      else if ¬s.lenient then Traps s (s.trapOf .purity 0 (s.val a) 0 0 false none sw) t
      else Does s { sw := sw, pair := [a], level := r.writeLevel } (s.noted.chip.ctlSet r (s.val a)) t) ∧
    (s.me.live = true → ∀ row ∈ [(Instr.slottabWrite, CReg.slottab), (.ptbaseWrite, .ptbase), (.asidWrite, .asid),
        (.trapsaveWrite, .trapsave), (.hearthWrite, .hearth), (.trapvecWrite, .trapvec), (.pagertabWrite, .pagertab),
        (.fbstatusWrite, .fbstatus), (.celquotaWrite, .celquota), (.ptpctlWrite, .ptpctl), (.fflagsWrite, .fflags),
        (.vcsrWrite, .vcsr), (.partCtlSelWrite, .partCtl)],
      ∃ t, exec (row.1 v) s = .next t ∧ if bad row.2 v then Traps s (s.trapOf .illegalOperand 0 v 0 0 false none false) t
        else t = s.put (s.chip.ctlSet row.2 v)) ∧
    (∀ row ∈ [(CReg.vcsr, (7 : Word)), (.fflags, 0xFF), (.trapvec, BitVec.allOnes 64), (.hearth, 0x3FFFFF),
        (.trapsave, 0xFFFFFFFFFFF0003F), (.asid, 0xFFFF), (.ptbase, 0xFFFFFFFFFFFFF001), (.fbbase, 0xFFFFFFFFFFFF0000),
        (.pagertab, 0xFFFFFFFFFFFFF07F), (.slottab, 0xFFFFFFFFFFFFF001), (.ltol, 0xFFFFFFFF)],
      ¬bad row.1 v → (s.chip.ctlSet row.1 v).ctlRead row.1 = v &&& row.2) ∧
    (s.me.level = .pkg → ∀ row ∈ [(CReg.partIl, (0x0FFFFFFFFFFFFFFF : Word)), (.partNb, 0x3FF), (.partGroups, 0xFFFFFFF)],
      ¬bad row.1 v ∧ (s.chip.ctlSet row.1 v).ctlRead row.1 = v &&& row.2) ∧
    (bad .vcsr v ↔ 4 < v.toNat % 8) ∧ (bad .fflags v ↔ 4 < v.toNat / 2 ^ 5 % 8) ∧ (bad .trapvec v ↔ v.toNat % 4 ≠ 0) ∧
    (bad .pagertab v ↔ 64 < v.toNat % 2 ^ 7) ∧ (bad .celquota v ↔ 131072 < v.toNat % 2 ^ 18) ∧
    (bad .trapsave v ↔ v.toNat % 2 ^ 6 < 20 ∨ 40 < v.toNat % 2 ^ 6 ∨ (s.chip.part s.me.part).saves ≠ []) ∧
    (bad .partCtl v ↔ 19 < v.toNat / 2 ^ 56 % 2 ^ 5 ∨ 4 < v.toNat % 8) ∧
    ∀ r ∈ [CReg.tid, .task, .prio, .partid, .cls, .winsz, .accn, .time, .cycles, .vtStall, .vtWonce, .vtWaits, .dupCollapse, .gen,
      .fbheld, .pstate, .cqStatus], ¬bad r v ∧ s.chip.ctlSet r v = s.chip

/-- R399, R400: CREATE, COMMIT, MERGE and DESTROY act on the partition SEL. One that its state does not allow leaves RESULT 1, a
layout that is not allowed 2, copy commands on their way 3 (MERGE), and state that would be lost 4, and they change nothing else.
Otherwise RESULT is 0: CREATE makes a quiesced partition of the staged layout, COMMIT puts the staged layout in force, MERGE joins
MSRC's groups, slices and channels to it and leaves MSRC undefined, and DESTROY leaves the partition undefined. It rests on the
model's choices of log 24, log 46. -/
def Obligations.PartitionCommands : Prop :=
  ∀ (s : State),
    let c := s.chip
    let p := c.sel
    let q := c.part p
    let m := c.part q.msrc
    let joined := q.staged.join m.layout
    let ends := fun (i : Instr) (refused : Option Nat) (done : Chip → Prop) => ∃ t, exec i s = .next t ∧ t.trust = s.trust ∧
      match refused with
      | some r => t.chip = c.modPart p fun x => { x with result := r }
      | none => (t.chip.part p).result = 0 ∧ done t.chip
    let asids := fun (x : Partition) => (x.asids.filter fun e => e.2.root.getLsbD 0).map Prod.fst
    ends .create (if q.state ≠ .undefined then some 1 else if c.layoutBad [p] q.staged = true then some 2 else none) (fun d =>
      (d.part p).state = .quiesced ∧ (d.part p).layout = q.staged ∧ (d.part p).staged = q.staged ∧ (d.part p).asids = [] ∧
      d.mem = c.mem ∧ launchSpace p ∈ d.spaces ∧ ∀ x, x ≠ p → d.part x = c.part x) ∧
    ends .commit (if q.state ≠ .quiesced then some 1 else if c.layoutBad [p] q.staged = true then some 2
        else if c.holdsOn p (fun x => q.layout.hasSlice x && !q.staged.hasSlice x) = true ∨ c.strands p q.staged = true then some 4
        else none) (fun d => (d.part p).layout = q.staged ∧ (d.part p).state = .quiesced ∧ d.mem = c.mem) ∧
    ends .merge (if q.state ≠ .quiesced ∨ m.state ≠ .quiesced ∨ p = q.msrc then some 1
        else if c.layoutBad [p, q.msrc] joined = true ∨ 16 < (c.vfsOf p).length + (c.vfsOf q.msrc).length ∨
          (∃ x ∈ asids q, x ∈ asids m) then some 2
        else if c.cqStatus p ≠ 0 ∨ c.cqStatus q.msrc ≠ 0 then some 3
        else if c.holdsState q.msrc = true ∨ c.holdsOn p (fun x => q.layout.hasSlice x && !joined.hasSlice x) = true ∨
          c.strands p joined = true then some 4
        else none) (fun d => (d.part p).layout = joined ∧ (d.part q.msrc).state = .undefined ∧ (d.part p).state = .quiesced ∧
          d.mem = c.mem) ∧
    ends .destroy (if q.state ≠ .quiesced then some 1 else if c.holdsState p = true then some 4 else none) (fun d =>
      (d.part p).state = .undefined ∧ (∀ x ∈ d.spaces, x.part ≠ p) ∧ d.mem = c.mem)

/-! ### System instructions, traps and their answers -/

/-- R51, R334 to R339: GENBUMP leaves a new generation of an ASID under way, and raises ILLEGAL_OPERAND for one whose table is not
defined; PGDONE leaves the completion of a record under way with its source held; PQUI answers 2 for no partition and 1 for a
quiesced one, and else starts the quiesce; PRES answers 2, 1 or 0 and lets go a partition that is held, its launch names with it; CFLUSH sends the lines of
its range back once the thread's own writes to them are performed, and is a NOP in a pure task; CELFL removes every cellar entry and
code digest of the partition. It rests on the model's choices of log 26, log 48, log 49. -/
def Obligations.SystemSteps : Prop :=
  ∀ (s : State) (sw : Bool) (d : Dest) (a b : Src),
    let c := s.chip
    let me := s.me
    let x := s.val a
    let y := s.val b
    let illegal := fun (y : Word) (push : Bool) (d : Dest) (t : State) =>
      Traps s (s.trapOf .illegalOperand 0 x y 0 push d sw) t
    (s.clear { sw := sw, pair := [a], dest := d, push := true, level := .sup } → ∃ t, exec (.genbump sw d a) s = .next t ∧
      let p := if s.me.level = .pkg then c.sel else s.me.part
      if x.toNat < 2 ^ 16 ∧ (∃ e, Table.get? (c.part p).asids x.toNat = some e ∧ e.root.getLsbD 0 = true) then
        Begins s { push := true, named := d, opA := x } (.genbump p (x.extractLsb' 0 16) 0 []) (s.me.pc + 4) [] t
      else illegal 0 true d t) ∧
    (s.lenient → s.clear { sw := sw, pair := [a, b], dest := d, push := true } → ∃ t, exec (.pgdone sw d a b) s = .next t ∧
      if x.toNat / 2 ^ 32 % 2 ^ 31 = 0 then
        let src := if x.getLsbD 63 = true then s.place y 65536 1 else none
        Begins s.noted { push := true, named := d, opA := x, opB := y, ranges := (src.map fun p => range p 65536 false).toList }
          (.pgdone (x.toNat % 2 ^ 32) (x.getLsbD 63) src y) (s.me.pc + 4) [] t
      else illegal y true d t) ∧
    (s.clear { sw := sw, pair := [a, b], dest := d, push := true, level := .pkg } → ∃ t, exec (.pqui sw d a b) s = .next t ∧
      let p := x.toNat
      let limit := min (2 ^ 64 - 1) ((c.part s.me.part).time.toNat + y.toNat)
      if 19 < p ∨ (c.part p).state = .undefined then Pushes s d 2 0 t
      else if (c.part p).state = .quiesced then Pushes s d 1 0 t
      else Begins (s.put (c.modPart p fun q => { q with state := .quiescing })) { push := true, named := d, opA := x, opB := y }
        (.pqui p (if y = 0 then none else some (BitVec.ofNat 64 limit))) (s.me.pc + 4) [] t) ∧
    (s.clear { sw := sw, pair := [a], dest := d, push := true, level := .pkg } → ∃ t, exec (.pres sw d a) s = .next t ∧
      let p := x.toNat
      if 19 < p ∨ (c.part p).state = .undefined then Pushes s d 2 0 t
      else if (c.part p).state = .running then Pushes s d 1 0 t
      else Does s { sw := sw, pair := [a], dest := d, push := true, level := .pkg }
        ((((c.modPart p fun q => { q with state := .running }).armLaunches p).emit d 0 0).fill p 0) t) ∧
    (s.clear { sw := sw, pair := [a, b] } → ∃ t, exec (.cflush sw a b) s = .next t ∧
      let own := (c.ops.filter fun o => o.tid == c.cur && o.body.writes && o.body.touches.any fun r => meets r (x, y.toNat)).map Op.id
      if s.me.pureTask.isSome = true then Moves s (s.me.pc + 4) t
      else if 2 ^ 64 < x.toNat + y.toNat then illegal y false none t
      else if y = 0 then Moves s (s.me.pc + 4) t
      else if own ≠ [] then Waits s (.gone own) t
      else t.me.pc = s.me.pc + 4 ∧ t.chip.mem = c.mem ∧ t.chip.ops = c.ops ∧ (∀ j, (t.chip.thread j).regs = (c.thread j).regs) ∧
        let hit := c.lineIn me (c.leaves s.me.part s.me.asid) x.toNat y.toNat
        (∀ l, hit l = true → l ∉ (t.chip.core s.myCore).l1 ∧ ∀ v, (l, v) ∉ t.chip.devLines) ∧
        t.chip.sent = c.sent ++ (c.devLines.filter fun e => hit e.1).map fun e =>
          .d2h (if e.2 then .dirtyEvict else .cleanEvict) (e.1 - 2 ^ 46)) ∧
    (s.clear { sw := sw, level := .sup } → ∃ t, exec (.celfl sw) s = .next t ∧ t.me.pc = s.me.pc + 4 ∧
      t.chip.cellar = c.cellar.filter (fun e => e.part != s.me.part) ∧ t.chip.codeCache = c.codeCache.filter (fun e => e.part != s.me.part) ∧
      t.chip.mem = c.mem ∧ t.chip.ops = c.ops ∧ ∀ j, (t.chip.thread j).regs = (c.thread j).regs)

/-- R51: TRET, GENBUMP and CELFL need SUP, PQUI and PRES need PKG; a thread below that level raises PRIVILEGE and the instruction
does nothing else. NOP, TRAP, PGDONE and CFLUSH raise it in no thread. -/
def Obligations.Privilege : Prop :=
  ∀ (s : State) (sw : Bool) (d : Dest) (a b : Src) (code : BitVec 10), s.me.live = true →
    let below := fun (i : Instr) (x y : Word) (push : Bool) (d : Dest) =>
      ∃ t, exec i s = .next t ∧ Traps s (s.trapOf .privilege 0 x y 0 push d sw) t
    let free := fun (i : Instr) => ∀ t, exec i s = .next t → ∀ x ∈ t.me.owed, x.cause = .privilege → x ∈ s.me.owed
    (s.me.level = .user →
      below (.tret sw a) (s.val a) 0 false none ∧ below (.genbump sw d a) (s.val a) 0 true d ∧ below (.celfl sw) 0 0 false none) ∧
    (s.me.level ≠ .pkg → below (.pqui sw d a b) (s.val a) (s.val b) true d ∧ below (.pres sw d a) (s.val a) 0 true d) ∧
    free (.nop sw) ∧ free (.trap sw code) ∧ free (.pgdone sw d a b) ∧ free (.cflush sw a b)

/-- R23, R52, R303 to R305, R308, R309, R334: TRAP and a word that is no instruction stop their thread with the trap owed. The
first trap that a thread owes is posted once every other result has returned: the thread parks and its record joins the trap queue.
The hearth takes the next record when it handles none: context 15 of the record's core starts at TRAPVEC with the record's address, SEQ
and cause, and acquires, once the trapping thread's accesses are performed (R353). TRET frees that context, for what waits and fits
there (R254), and answers: 0 goes on after the instruction as if it had pushed 0, 1 issues it again, any other
value asks for the end of the graph. It rests on the model's choices of log 17, log 29, log 35, log 54. -/
def Obligations.TrapsAndAnswers : Prop :=
  ∀ (s : State) (sw : Bool) (a : Src) (code : BitVec 10) (w : IWord) (v p : Nat) (r : TrapRec) (q : QueuedTrap) (rest : List QueuedTrap),
    let c := s.chip
    let th := c.thread v
    (s.me.live = true → ∃ t, exec (.trap sw code) s = .next t ∧ Traps s (s.trapOf .trapInstr code.toNat 0 0 0 false none sw) t) ∧
    (s.me.live = true → ∀ e, decodeWord w = .error e → ∃ t, exec (.notAnInstruction w) s = .next t ∧
      Traps s (s.trapOf (if e = .illegalEtype then .illegalOperand else .illegalOpcode) 0 0 0 0 false none false) t) ∧
    (c.deliverable v = some r → r.cause.resumable = true → th.handling = none → (c.part th.part).hearth.getLsbD 21 = false →
      c.areaOk th.part = true → c.queueUsed th.part < 256 → ∃ t, exec (.trapPost v) s = .next t ∧
        (let stood := match th.park with
          | .saving _ _ _ false => { th with park := .run, pc := th.pc - 4 }
          | _ => th
        t.chip.thread v = { stood with
          posted := some { r with seq := (c.part th.part).trapSeq.toNat }, owed := th.owed.tail, park := .trapped, under := stood.park }) ∧
        (∀ j, j ≠ v → t.chip.thread j = c.thread j) ∧
        (∃ x, (t.chip.part th.part).trapQueue = (c.part th.part).trapQueue ++ [x] ∧ x.tid = c.device.toNat * 2 ^ 13 + v ∧
          x.seq = (c.part th.part).trapSeq.toNat ∧ x.own = x.seq ∧ x.asid = th.asid ∧ x.cause = r.cause.code ∧
          x.core = coreOf (c.supervisor th.part) ∧ x.words = c.recordWords v r) ∧
        (t.chip.part th.part).trapSeq = (c.part th.part).trapSeq + 1 ∧ t.chip.ops = c.ops) ∧
    ((c.part p).trapQueue = q :: rest → (c.part p).hearthBusy = none → (c.thread (16 * q.core + 15)).live = false →
      (c.part p).trapvec ≠ 0 → (∀ x ∈ c.unitWork, x.part ≠ p) → (∀ u, c.localTid q.tid = some u → c.awaits u q.own q.task = true → c.accessing u = false) → ∃ t, exec (.handlerStart p) s = .next t ∧
        (let h := t.chip.thread (16 * q.core + 15)
        h.live = true ∧ h.level = .sup ∧ h.pc = (c.part p).trapvec ∧ h.asid = q.asid ∧ h.handling = some q.tid ∧ h.queue = [] ∧
          h.named[1] = c.areaVa p (0x1000 + 64 * (q.seq % 256)) ∧ h.named[2] = BitVec.ofNat 64 q.seq ∧
          h.named[3] = BitVec.ofNat 64 q.cause) ∧
        (t.chip.part p).hearthBusy = some q ∧ (t.chip.part p).trapQueue = rest ∧ t.chip.mem = c.mem ∧
        (t.chip.core q.core).stale = [] ∧ ∀ j, j ≠ 16 * q.core + 15 → t.chip.thread j = c.thread j) ∧
    (s.clear { sw := sw, pair := [a], level := .sup } → ∃ t, exec (.tret sw a) s = .next t ∧
      if s.me.handling = none then Traps s (s.trapOf .illegalOperand 0 (s.val a) 0 0 false none sw) t
      else if c.flying = true ∨ s.me.owed ≠ [] then Waits s .drain t
      else (c.part s.me.part).hearthBusy = some q → c.localTid q.tid = some v → v ≠ c.cur → s.me.gang = none →
        th.posted = some r → r.op = none → c.awaits v q.own q.task = true →
        let later := th.owed.any fun x => x.op.isNone
        ∃ d : Chip, t = s.put (d.fill s.me.part s.myCore) ∧ d.thread c.cur = .empty ∧ (d.part s.me.part).hearthBusy = none ∧
        let u := d.thread v
        match (s.val a).toNat with
        | 0 => u.pc = r.pc + 4 ∧ u.posted = none ∧ u.park = c.waitAgain v th.under ∧ u.stopped = later ∧
            (∀ i, r.named = some i → i ≠ 0 → u.named[i] = 0) ∧ (r.pushes = true → ∃ e, u.queue.head? = some e ∧ e.val = some 0)
        | 1 => u = { th with posted := none, park := c.waitAgain v th.under, under := .run, stopped := later }
        | _ => th.graph ≠ 0 → u = th ∧ ∀ g ∈ c.graphs, g.part = th.part → g.id = th.graph → g.ended = none →
            ∃ g' ∈ d.graphs, g'.part = g.part ∧ g'.id = g.id ∧ g'.ended = some r.cause)

/-- R337, R382, R385, R386: a core that confirms a generation drops its translations of the ASID and is waited for no more, and the
first confirmation applies the generation, the old one and 1; a quiescing partition of which no task runs is quiesced and its PQUIs
return; a PQUI whose limit passes returns 3; the first write to a read-duplicated page collapses it and counts; a granule that is
recalled from its core becomes shared, and the core's L1 holds no line of it. It rests on the model's choices of log 48, log 49, log
53. -/
def Obligations.GenerationsAndGranules : Prop :=
  ∀ (s : State) (o : Op) (k p : Nat) (asid : BitVec 16) (g : BitVec 32) (waits : List Nat) (limit : Word),
    let c := s.chip
    (c.op? o.id = some o → o.body = .genbump p asid g waits → o.ready = true → k ∈ waits → c.genDrained p asid k = true →
      ∃ t, exec (.genConfirm o.id k) s = .next t ∧
        (t.chip.core k).tlb = (c.core k).tlb.filter (fun x => !(x.1 == p && x.2.1 == asid)) ∧
        (∀ j, j ≠ k → t.chip.core j = c.core j) ∧
        (t.chip.op? o.id).map Op.body = some (.genbump p asid g (waits.filter (· != k))) ∧ t.chip.mem = c.mem) ∧
    (c.op? o.id = some o → o.body = .genbump p asid g waits → o.ready = false → c.genMay o p asid = true →
      ∃ t, exec (.genConfirm o.id k) s = .next t ∧
        (Table.get? (t.chip.part p).asids asid.toNat).map AsidEntry.gen =
          some (((Table.get? (c.part p).asids asid.toNat).map AsidEntry.gen).getD 0 + 1)) ∧
    (c.op? o.id = some o → o.body = .genbump p asid g waits → o.ready = true → waits = [] → o.push = true → c.owned o = true →
      o.fault = none → (∀ r ∈ c.records, o.id ∉ r.waits) →
      ∃ t, exec (.resultReturn o.id) s = .next t ∧ Ends s o (g.setWidth 64) 0 t ∧ (t.chip.core (coreOf o.tid)).stale = []) ∧
    (∃ t, exec (.partitionQuiesced p) s = .next t ∧
      if (c.part p).state = .quiescing ∧ c.partRuns p = false then
        (t.chip.part p).state = .quiesced ∧ t.chip.mem = c.mem ∧ ∀ x ∈ t.chip.ops, ∀ l, x.body ≠ .pqui p l
      else t = s) ∧
    (c.op? o.id = some o → o.body = .pqui p (some limit) → limit.toNat ≤ (c.part o.part).time.toNat → c.partRuns p = true →
      o.push = true → c.owned o = true → ∃ t, exec (.pquiTimeout o.id) s = .next t ∧ Ends s o 3 0 t) ∧
    (c.ops.find? (fun x => dieOf (coreOf x.tid) == k && (c.dupWaits x).any fun y => y.1 == p) = some o →
      ∃ t size, exec (.dupCollapse p k) s = .next t ∧ (p, size) ∈ c.dupWaits o ∧ t.chip.collapsed = (p, k, size) :: c.collapsed ∧
        t.chip.mem = c.mem ∧
        (t.chip.part o.part).dupCollapse = (c.part o.part).dupCollapse + 1) ∧
    (Table.get? c.granules p = some (.priv k) → ∃ t, exec (.granuleRecall p) s = .next t ∧
      Table.get? t.chip.granules p = some .shared ∧ (∀ l ∈ (t.chip.core k).l1, l / 1024 ≠ p) ∧ t.chip.mem = c.mem ∧
      ∀ j, j ≠ k → t.chip.core j = c.core j)

/-! ### Operations in flight and the barrel -/

/-- R32, R33, R72, R74, R76, R78 to R80, R87, R90, R98, R349: an operation that nothing holds ends. A computed value, the bytes that a
load reads and the old bytes of an atomic return to their slot, named register and flags; an atomic leaves its line in no L1 line of its
core, and acquires at its scope if its order says so; a store writes its bytes at its home, under the translation that it met if it waited for a collapse (R382); an MWAIT returns once the word is at least its
bound, as signed, and acquires, and else goes on waiting; an engine command that has been answered lowers its counter by 1, and one that
pushes joins its thread (R359). It rests on the model's choices of log 12, log 14, log 19, log 53, log 63. -/
def Obligations.OperationsEnd : Prop :=
  ∀ (s : State) (o : Op), s.chip.op? o.id = some o → o.fault = none →
    let c := s.chip
    let owned := o.push = true ∧ c.owned o = true
    let here := fun (need : Need) (va : Word) (n : Nat) (keys : List Nat) (page : Option (Nat × Nat)) =>
      o.asked = false ∧ c.mayAccess o [(va, n)] = true ∧
      (if need.w then c.writeAccess o need va n else c.opAccess o need va n) = .ok keys page ∧ c.poisoned keys = false ∧
      c.hostHolds keys (!need.w) = false ∧ (need.w = true → c.single page = true) ∧ (∀ a ∈ keys, c.hostOnly a = false) ∧
      c.walkHeld (coreOf o.tid) o.part o.asid [(va, n)] = []
    let extended := fun (n : Nat) (signed : Bool) (bs : List Byte) =>
      let v := natOfBytes bs
      if signed = true ∧ 2 ^ (8 * n - 1) ≤ v then BitVec.ofInt 64 ((v : Int) - (2 ^ (8 * n) : Nat)) else BitVec.ofNat 64 v
    (∀ v fl, o.body = .value v fl → owned → ∃ t, exec (.resultReturn o.id) s = .next t ∧ Ends s o v fl t ∧ t.chip.mem = c.mem) ∧
    (∀ p n signed, o.body = .lload p n signed → owned → c.mayLocal o = true →
      ∃ t, exec (.resultReturn o.id) s = .next t ∧
        Ends s o (extended n signed ((c.core (coreOf o.tid)).scratch.bytes p n)) 0 t ∧ t.chip.mem = c.mem) ∧
    (∀ va n signed keys page, o.body = .load va n signed false → owned → here .read va n keys page →
      (∀ a ∈ keys, Table.get? (c.core (coreOf o.tid)).stale (lineOf a) = none) →
      ∃ t, exec (.resultReturn o.id) s = .next t ∧ Ends s o (extended n signed (keys.map c.mem.byte)) 0 t ∧ t.chip.mem = c.mem) ∧
    (∀ va op n x e acq rel sc keys page, o.body = .atomic va op n x e acq rel sc → owned → here .atomic va n keys page →
      (rel = true → c.releaseWaits o sc.agent = []) →
      ∃ t, exec (.resultReturn o.id) s = .next t ∧ Ends s o (extended n false (keys.map c.mem.byte)) 0 t ∧
        t.chip.mem = (if op = .cas ∧ natOfBytes (keys.map c.mem.byte) % 2 ^ (8 * n) ≠ e.toNat % 2 ^ (8 * n) then c.mem
          else c.mem.setAt keys (op.newBytes n (keys.map c.mem.byte) x e)) ∧
        (∀ a ∈ keys, lineOf a ∉ (t.chip.core (coreOf o.tid)).l1) ∧
        (acq = true → Acquired s (c.weak o.tid keys) (coreOf o.tid) sc.agent t)) ∧
    (∀ va bs keys page, o.body = .store va bs → o.push = false → o.eng = false → here .write va bs.length keys page →
      ∃ t, exec (.writePerformed o.id) s = .next t ∧ Ends s o 0 0 t ∧ t.chip.mem = c.mem.setAt keys bs) ∧
    (∀ p bs, o.body = .lstore p bs → o.push = false → o.eng = false → c.mayLocal o = true →
      ∃ t, exec (.writePerformed o.id) s = .next t ∧ t.chip.mem = c.mem ∧ t.chip.op? o.id = none ∧
        ∀ k, (t.chip.core k).scratch = if k = coreOf o.tid then (c.core k).scratch.setBytes p bs else (c.core k).scratch) ∧
    (∀ va bound keys page, o.body = .mwait va bound → owned → here .read va 8 keys page →
      let v := wordOfBytes64 (keys.map c.mem.byte)
      ∃ t, exec (.mwaitWake o.id) s = .next t ∧ t.chip.mem = c.mem ∧
        if bound.toInt ≤ v.toInt then Ends s o v 0 t ∧ Acquired s (c.weak o.tid keys) (coreOf o.tid) .domain t
        else t.chip.ops = c.ops) ∧
    ∀ acq, o.body = .tile acq → o.eng = true → o.ready = true →
      (o.push = false → ∃ t, exec (.engineCompletion o.id) s = .next t ∧ Ends s o o.result 0 t ∧ t.chip.mem = c.mem) ∧
      (owned → ∃ t, exec (.resultReturn o.id) s = .next t ∧ Ends s o o.result 0 t ∧ t.chip.mem = c.mem ∧
        (acq = true ∨ probeWord o.insn = false → (t.chip.core (coreOf o.tid)).stale = []) ∧
        (acq = false → probeWord o.insn = true → (t.chip.core (coreOf o.tid)).stale = (c.core (coreOf o.tid)).stale))

/-- R39, R277, R370: a thread held at a counter of 255 goes on once the counter is less, one held at a full copy queue once the queue
holds fewer than 32 commands, and one that sleeps once TIME has reached its target; nothing else changes. It rests on the model's
choices of log 58. -/
def Obligations.WaitsEnd : Prop :=
  ∀ (s : State) (n : Nat),
    let c := s.chip
    let runs := s.put (c.modThread n fun u => { u with park := .run })
    (∀ k, (c.thread n).park = .counterFull k →
      exec (.counterFullRelease n) s = .next (if s.counter (coreOf n) k = 255 then s else runs)) ∧
    (∀ q, (c.thread n).park = .copyQueue q →
      exec (.copyQueueAdmit n) s = .next (if c.queueLoad q < 32 then runs else s)) ∧
    ∀ u, (c.thread n).park = .sleep u →
      exec (.sleepWake n) s = .next (if u.toNat ≤ (c.part (c.thread n).part).time.toNat then runs else s)

/-- R258: in each cycle of an awake core that has a ready thread the barrel picks one: of the highest priority, the next in context
order after the last picked of that priority, but in every sixteenth slot the thread of a lower priority that has waited longest, of
equals the lowest context; the thread goes on from its wait, and a cycle without a ready thread picks none. The slot count and CYCLES
rise by 1. It rests on the model's choices of log 42. -/
def Obligations.BarrelPicks : Prop :=
  ∀ (s : State) (k : Nat),
    let c := s.chip
    let ready := c.readyThreads k
    let prio := fun (n : Nat) => (c.thread n).prio
    let since := fun (n : Nat) => (c.thread n).readySince
    let awake := c.dieState.toList.getD (k / 64) 0 = 0
    ∃ t, exec (.barrelIssueSlot k) s = .next t ∧
      (t.chip.core k).slot = (c.core k).slot + 1 ∧ (t.chip.core k).cycles = (c.core k).cycles + 1 ∧ t.chip.ops = c.ops ∧
      t.chip.mem = c.mem ∧ (t.issuing = none ↔ ready = [] ∨ ¬awake) ∧
      ∀ n, t.issuing = some n → n ∈ ready ∧ (t.chip.thread n).park = .run ∧
        ∀ top, (∀ m ∈ ready, top ≤ prio m) → (∃ m ∈ ready, prio m = top) →
          if ((c.core k).slot + 1) % 16 = 0 ∧ ∃ m ∈ ready, top < prio m then
            top < prio n ∧ ∀ m ∈ ready, top < prio m → since n ≤ since m ∧ (since m = since n → n ≤ m)
          else
            let last := (c.core k).last.toList.getD top 15
            let order := fun (m : Nat) => if last < m % 16 then m % 16 else m % 16 + 16
            prio n = top ∧ ∀ m ∈ ready, prio m = top → order n ≤ order m

/-! ### Tile requests at their home -/

/-- R22, R25, R107, R108, R114 to R118, R125, R129, R130, R136: a request of load class that reaches a PUBLISHED version of its header
is served, and a load takes a use, unless the count stands at 65535; one that reaches a PENDING version, or a version in the window,
joins the waiters; a DEAD version, or one below the window, is VDEAD, one above it VWINDOW, and another header BAD_HANDLE. TADD and
TREL change the uses and answer the new count, and TPROBE answers the state of the version. A load without a waiter record waits for
one, as does a load behind it, and registers once one is free; a request to a name whose head is waited for waits behind it. Served
bytes go where the command asked; bytes out of reach or in error refuse the load, with no use taken. It rests on the model's choices
of log 13, log 22, log 24. -/
def Obligations.TileLoads : Prop :=
  ∀ (s : State) (r : Req) (sp : Space) (id : Nat) (keep : Bool),
    let c := s.chip
    let slice := c.sliceOf r.part r.space r.index
    let room := c.recordsUsed slice < 4096 ∧
      ∀ q ∈ c.reqs, q.id ≠ r.id → q.phase = .waitRecord → c.sliceOf q.part q.space q.index ≠ slice
    let phase := fun (t : State) => (t.chip.req? r.id).map Req.phase
    let waits := fun (t : State) => if room then
        phase t = some .waiter ∧ (t.chip.part r.part).vtWaits = (c.part r.part).vtWaits + 1
      else phase t = some .waitRecord
    let good := fun (e : Entry) => e.state = .published ∧ e.header = r.header
    let first := ∀ q ∈ c.reqs, q.id ≠ r.id → q.name = r.name → q.phase ≠ .waitHead
    let alone := ∀ q ∈ c.reqs, q.id ≠ r.id → q.name = r.name → q.version = r.version → q.phase ≠ .waitRecord ∧ q.origin ≠ .launch
    (c.Arrives r sp → r.body = .load keep → (∃ q ∈ c.reqs, q.name = r.name ∧ q.phase = .waitHead) →
      ∃ t, exec (.tileLoadRegister r.id) s = .next t ∧ phase t = some .waitHead) ∧
    (c.Arrives r sp → r.body = .load keep → r.origin = .op id → first →
      (∀ e, c.entry? r.name r.version = some e →
        (good e → alone → (∀ cause, c.extentFault r.part e.extent = some cause → ∃ t, exec (.tileLoadRegister r.id) s = .next t ∧
          Refused s r cause t ∧ t.chip.entry? r.name r.version = some e)) ∧
        (good e → alone → c.extentFault r.part e.extent = none →
          ∃ t, exec (.tileLoadRegister r.id) s = .next t ∧ phase t = some (.served e.extent) ∧
          (keep = true ∨ e.uses = 65535 → t.chip.entry? r.name r.version = some e) ∧
          (keep = false → 1 < e.uses → e.uses ≠ 65535 → t.chip.entry? r.name r.version = some { e with uses := e.uses - 1 }) ∧
          (keep = false → e.uses ≤ 1 → (∀ q ∈ c.reqs, q.name = r.name → q.version = r.version → q.phase ≠ .waiter) →
            t.chip.entry? r.name r.version = none)) ∧
        (e.state = .published → e.header ≠ r.header → alone →
          ∃ t, exec (.tileLoadRegister r.id) s = .next t ∧ Refused s r .badHandle t) ∧
        (e.state = .pending → ∃ t, exec (.tileLoadRegister r.id) s = .next t ∧ waits t) ∧
        (e.state = .dead → ∃ t, exec (.tileLoadRegister r.id) s = .next t ∧ Refused s r .vdead t)) ∧
      ∀ h, c.entry? r.name r.version = none → c.head? r.name = some h →
        let ahead := (r.version - h.lo).toNat
        ∃ t, exec (.tileLoadRegister r.id) s = .next t ∧
          if 1 ≤ ahead ∧ ahead ≤ 2 ^ 15 then waits t
          else if 1 ≤ (r.version - h.hi).toNat ∧ (r.version - h.hi).toNat < 2 ^ 15 then Refused s r .vwindow t
          else Refused s r .vdead t) ∧
    (c.Arrives r sp → r.origin = .op id → first → alone → ∀ add n e, r.body = .change add n →
      c.entry? r.name r.version = some e → good e →
      ∃ t, exec (.tileUseChangeRegister r.id) s = .next t ∧
        if add = true then
          if e.uses = 65535 then Answered s r id 65535 t
          else if 65534 < e.uses + n then Refused s r .illegalOperand t
          else Answered s r id (BitVec.ofNat 64 (e.uses + n)) t ∧
            (0 < e.uses + n → t.chip.entry? r.name r.version = some { e with uses := e.uses + n })
        else if n = 0 ∨ e.uses ≤ n ∨ e.uses = 65535 then Answered s r id 0 t
        else Answered s r id (BitVec.ofNat 64 (e.uses - n)) t ∧
          t.chip.entry? r.name r.version = some { e with uses := e.uses - n }) ∧
    (c.Arrives r sp → r.origin = .op id → first → r.body = .probe → ∀ h, c.head? r.name = some h →
      let state : Nat × Nat := match c.entry? r.name r.version with
        | some e => (match e.state with | .pending => (0, 2) | .published => (e.uses, 3) | .dead => (0, 4))
        | none =>
          if c.reqs.any (fun q => q.name == r.name && q.version == r.version && q.reserves) = true then (0, 1)
          else if 1 ≤ (r.version - h.lo).toNat ∧ (r.version - h.lo).toNat ≤ 2 ^ 15 then (0, 0)
          else if 1 ≤ (r.version - h.hi).toNat ∧ (r.version - h.hi).toNat < 2 ^ 15 then (0, 6) else (0, 5)
      ∃ t, exec (.tileProbeRegister r.id) s = .next t ∧
        Answered s r id (h.lo ++ h.hi ++ BitVec.ofNat 16 state.1 ++ BitVec.ofNat 16 state.2) t) ∧
    (c.req? r.id = some r → r.phase = .waitRecord → c.space? r.part r.space = some sp → sp.home ≠ 2 → r.body = .load keep →
      r.origin = .op id → first → room → ∀ e, c.entry? r.name r.version = some e → e.state = .pending →
      ∃ t, exec (.waiterRecordFree r.id) s = .next t ∧ waits t) ∧
    ∀ o x, c.op? o.id = some o → c.servedExtent o.id = some x →
      (∀ p, o.body = .tileLocal p → c.granted (coreOf o.tid) o.id o.ranges = true →
        ∃ t, exec (.tileLoadComplete o.id) s = .next t ∧ t.chip.req? o.id = none ∧
          (t.chip.op? o.id).map Op.ready = some true ∧ t.chip.mem = c.mem ∧
          ∀ k, (t.chip.core k).scratch =
            if k = coreOf o.tid then (c.core k).scratch.setBytes p ((c.extentBytes x).take (tbytes o.opA)) else (c.core k).scratch) ∧
      ∀ v, o.body = .tileVec v → ∃ t, exec (.tileLoadComplete o.id) s = .next t ∧ t.chip.req? o.id = none ∧
        (t.chip.op? o.id).map Op.ready = some true ∧ t.chip.mem = c.mem ∧
        t.chip.thread o.tid = (c.thread o.tid).fillVecs v ((c.extentBytes x).take (tbytes o.opA))

/-- R21, R22, R106, R107, R111, R112, R134, R135: a store that reaches a version that is there or reserved counts VT_WONCE and is
WONCE; one outside the window is VWINDOW or VDEAD; one that finds room makes its entry PENDING with its bytes, and otherwise waits,
counting VT_STALL once, behind the earlier waiting stores of its name; earlier stores of other names that wait for their quota or for a place
do not hold it. A request without a head makes it, at 0xFFFF. A store that waits goes on when there is room, a TIMP once its
bytes are gathered, and a TALIAS once its source is served, with the source's extent and no copy. Publication makes the entry
PUBLISHED with the store's uses and digest and serves every waiter; its result returns once the loads of its version that registered
before it are served. It rests on the model's choices of log 13, log 22, log 23. -/
def Obligations.TileStores : Prop :=
  ∀ (s : State) (r : Req) (sp : Space) (id u : Nat) (bs : List Byte) (h : Head),
    let c := s.chip
    let slice := c.homeSlice sp r.index
    let taken := (c.entry? r.name r.version).isSome = true ∨
      ∃ q ∈ c.reqs, q.id ≠ r.id ∧ q.name = r.name ∧ q.version = r.version ∧ q.reserves = true
    let lands := fun (d : Chip) (bs : List Byte) (t : State) =>
      if sp.vquota ≤ c.liveVersions r.name ∨ c.roomFor sp slice = false ∨ d.storeQueue r = true ∨
        (d.ahead r).placeExtent sp slice (granuleCount bs.length) = none
      then (t.chip.req? r.id).map Req.phase = some .waitStore ∧
        (t.chip.part r.part).vtStall = (c.part r.part).vtStall + if r.counted then 0 else 1
      else Stored r bs t
    let inWindow := 1 ≤ (r.version - h.lo).toNat ∧ (r.version - h.lo).toNat ≤ 2 ^ 15
    (c.space? r.part r.space = some sp → c.roomFor sp slice = true → r.phase ≠ .waitStore → (∀ q ∈ c.before r, q.phase ≠ .waitHead ∧
      (q.phase = .waitStore → q.name ≠ r.name ∧ ∀ o, c.space? q.part q.space = some o →
        o.vquota ≤ c.liveVersions q.name ∨ c.storePlace o (c.homeSlice o q.index) q.body = none)) →
      c.storeQueue r = false ∧ c.ahead r = c) ∧
    ((∃ q ∈ c.before r, q.phase = .waitStore ∧ q.name = r.name) → c.storeQueue r = true) ∧
    (c.Arrives r sp → r.body = .store u bs → r.origin = .op id →
      (taken → ∃ t, exec (.tileStoreRegister r.id) s = .next t ∧ Refused s r .wonce t ∧
        (t.chip.part r.part).vtWonce = (c.part r.part).vtWonce + 1) ∧
      (¬taken → c.head? r.name = some h → (∀ q ∈ c.reqs, q.name = r.name → q.phase ≠ .waitHead) →
        ∃ t, exec (.tileStoreRegister r.id) s = .next t ∧
        if inWindow then lands (c.registered r) bs t
        else if 1 ≤ (r.version - h.hi).toNat ∧ (r.version - h.hi).toNat < 2 ^ 15 then Refused s r .vwindow t
        else Refused s r .vdead t)) ∧
    (c.req? r.id = some r → r.phase = .waitHead → c.space? r.part r.space = some sp → sp.home ≠ 2 → r.origin = .op id →
      r.body = .load false → c.nameQueue r = false → c.headQueue r = false → c.roomFor sp slice = true → c.head? r.name = none →
      c.entry? r.name r.version = none → r.version.toNat < 2 ^ 15 → c.recordsUsed (c.sliceOf r.part r.space r.index) < 4096 →
      (∀ q ∈ c.before r, q.phase ≠ .waitRecord) →
      ∃ t, exec (.headCreate r.id) s = .next t ∧ (t.chip.req? r.id).map Req.phase = some .waiter ∧
        (t.chip.head? r.name).map (fun h => (h.hi, h.lo)) = some (0xFFFF, 0xFFFF)) ∧
    (c.req? r.id = some r → r.phase = .waitStore → c.space? r.part r.space = some sp → sp.home ≠ 2 → r.body = .store u bs →
      r.origin = .op id → ∃ t, exec (.waitingStoreRelease r.id) s = .next t ∧ lands c bs t) ∧
    (c.req? r.id = some r → r.phase = .gathering → r.body = .gather u → c.space? r.part r.space = some sp → sp.home ≠ 2 →
      r.origin = .op id → ∀ o va step, c.op? r.id = some o → o.body = .gather va step bs →
      bs.length = tbytes o.opA → ∃ t, exec (.timpGatherComplete r.id) s = .next t ∧ lands c bs t) ∧
    (∀ x src, c.req? r.id = some r → r.phase = .served x → r.body = .talias src u → hHeader r.target = r.header →
      let n : Name := { part := r.part, space := hSpace r.target, index := hIndex r.target }
      let v := hVersion r.target
      let g : Req := { r with
        space := n.space, index := n.index, version := v, body := .aliasOf x u, phase := .travelling, counted := false
        target := handleOf r.header r.space r.index r.version }
      c.outOfOrder g = false →
      c.space? n.part n.space = some sp → sp.home ≠ 2 → c.head? n = some h → c.entry? n v = none →
      (∀ q ∈ c.reqs, q.id ≠ r.id → q.name = n → q.phase ≠ .waitHead ∧ (q.version = v → q.reserves = false)) →
      Chip.storeQueue ((c.modReq r.id fun _ => g).registered g) g = false → 1 ≤ (v - h.lo).toNat → (v - h.lo).toNat ≤ 2 ^ 15 →
      c.liveVersions n < sp.vquota → c.roomFor sp (c.homeSlice sp n.index) = true →
      ∃ t, exec (.taliasSourceServed r.id) s = .next t ∧ (t.chip.req? r.id).map Req.phase = some .pending ∧
        t.chip.extents = c.extents ∧
        ∃ e, t.chip.entry? n v = some e ∧ e.state = .pending ∧ e.extent = x ∧ e.header = r.header ∧ e.uses = u) ∧
    (c.req? r.id = some r → r.phase = .closing → r.origin = .op r.id →
      let ahead := ∃ q ∈ c.before r, q.name = r.name ∧ q.version = r.version ∧ q.phase = .waitRecord
      (ahead → exec (.publication r.id) s = .next s) ∧
      (¬ahead → ∃ t, exec (.publication r.id) s = .next t ∧ t.chip.req? r.id = none ∧ t.chip.mem = c.mem ∧
        ∀ o, c.op? r.id = some o → t.chip.op? r.id = some { o with ready := true })) ∧
    ∀ e, c.req? r.id = some r → r.phase = .pending → r.body = .store u bs → r.origin = .op id → c.entry? r.name r.version = some e →
      (∀ o, c.op? id = some o → (c.thread o.tid).pureTask = none) →
      (∀ q ∈ c.reqs, q.name = r.name → q.version = r.version → q.phase = .waiter →
        (q.body.isLoad = true ∨ q.body.isChange = true) ∧ (q.origin = .launch → (c.part q.part).state = .running)) →
      let behind := ∃ q ∈ c.reqs, q.name = r.name ∧ q.version = r.version ∧ q.phase = .waitRecord
      ∃ t, exec (.publication r.id) s = .next t ∧ (¬behind → t.chip.req? r.id = none) ∧
        (∀ q ∈ t.chip.reqs, q.name = r.name → q.version = r.version → q.phase ≠ .waiter) ∧
        (0 < u → (∀ q ∈ c.reqs, q.name = r.name → q.version = r.version → q.phase ≠ .waiter) →
          t.chip.entry? r.name r.version = some { e with
            state := .published, uses := u, digest := c.tileDigest r.part r.header (c.extentBytes e.extent) })

/-! ### Engines in their steps -/

/-- R171, R181 to R183, R199, R202, R203, R366 to R369: an MLDB from scratchpad that nothing holds sets the bind and the macros' rung;
an MMUL without a bind raises ILLEGAL_OPERAND, and one whose bind fits starts its first attempt at its floor, counted for that rung;
MXC_CEIL counts where a count passes its budget in an attempt that is not squashed; the copies of an attempt over scratchpad bytes
hold, row by row, what its blocks make of its start values (R177, R185); an attempt past its budget below the ceiling is squashed and starts again a rung wider, or at rung 2 after NONFIN below it; a final
attempt makes its copies active and pushes its word, or raises PRECISION where PFAULT is set and a count passed its budget, and
changes no slot. A copy within local memory reads every byte before it writes one; a copy whose units are done and that has no flag
ends with its bytes; a cpyd.loc of some bytes reaches a running thread of its graph, or is refused, with PROTECTION beyond its
partition's cores (R398). It rests on the model's choices of log 12, log 30, log 72. -/
def Obligations.EngineSteps : Prop :=
  ∀ (s : State) (o : Op), s.chip.op? o.id = some o → o.fault = none →
    let c := s.chip
    let k := coreOf o.tid
    let q := c.core k
    let starts := c.unitFree o = true ∧ c.mxTurn o = true ∧ c.heldByFork o = false ∧ c.granted k o.id o.ranges = true
    let owes := fun (cause : Cause) (t : State) => t.chip.op? o.id = none ∧
      (c.owned o = true → ∃ x ∈ (t.chip.thread o.tid).owed, x.id = o.id ∧ x.cause = cause)
    let next := fun (rung passed : Nat) => if passed = 4 ∧ rung < 2 then 2 else rung + 1
    let ceil := fun (m : MulCmd) => m.ladder.toNat / 8 % 8
    let attempt := fun (m : MulCmd) (rung n cause : Nat) (counts : Nat → Word) (t : State) =>
      ∃ a, (t.chip.op? o.id).map Op.body = some (.mmul m (some a)) ∧ a.ran = true ∧ a.rung = rung ∧ a.attempts = n ∧
        a.lastCause = cause ∧ (t.chip.core k).acc = q.acc ∧ (t.chip.core k).heldRung = some rung ∧
        ∀ i : Fin 10, (t.chip.core k).mxc[i] = q.mxc[i] + counts i.val + (if i.val = rung then 1 else 0) +
          if i.val = 9 ∧ a.passed ≠ 0 ∧ (rung = ceil m ∨ ceil m < next rung a.passed) then 1 else 0
    (∀ b p mp rung, o.body = .mldb b none mp rung → b.src = .scratch p → b.sparse = 0 → o.ready = false → starts →
      ∃ t, exec (.mldbStart o.id) s = .next t ∧ (t.chip.op? o.id).map Op.ready = some true ∧
        (t.chip.core k).bind = some { b with presence := [], olds := [q.scratch.bytes p b.len] } ∧
        (t.chip.core k).heldRung = some rung ∧ (t.chip.core k).acc = q.acc ∧ t.chip.mem = c.mem) ∧
    (∀ m, o.body = .mmul m none → starts → c.req? o.id = none → c.owned o = true →
      (q.bind = none → ∃ t, exec (.mmulStart o.id) s = .next t ∧ owes .illegalOperand t) ∧
      ∀ b p, q.bind = some b → m.src = .scratch p → m.k ≤ b.k → m.n ≤ b.n → m.sparse = (b.sparse != 0) →
        ∃ t, exec (.mmulStart o.id) s = .next t ∧ attempt m (m.ladder.toNat % 8) 1 0 (fun _ => 0) t ∧
          ∀ a, (t.chip.op? o.id).map Op.body = some (.mmul m (some a)) → 0 < m.k → p + m.m * (m.stride + m.k) + 8 * m.k < 2 ^ 64 →
            a.passed = 0 ∨ (m.ladder.getLsbD 6 = false ∧ (a.rung = ceil m ∨ ceil m < next a.rung a.passed)) →
            let x := c.mulIn k m b (m.ladder.toNat % 8) c.draws
            let blocks := (m.k + 7) / 8
            let code := fun (i n : Nat) => if m.blocked then some (q.scratch.byte (p + m.m * m.stride + i * blocks + n)).toNat else none
            let es := fun (i n : Nat) => (List.range (min 8 (m.k - 8 * n))).map fun t =>
              elemValue m.fmt (elemAt m.fmt (q.scratch.bytes (p + i * m.stride) (elemBytes m.fmt m.k)) (8 * n + t))
            let kept := fun (v : FVal) => fp64.value (accBits v)
            let row := fun (i : Nat) => (List.range blocks).foldl
              (fun accs n => (x.block n (code i n) (es i n) (x.begin, accs.map kept)).2) (x.starts x.begin i).2
            let place := fun (i j : Nat) => let tile := i / 64 * ((m.n + 63) / 64) + j / 64
              if m.wide then 16384 * m.slots.getD (2 * tile + j % 64 / 32) 0 + 256 * (i % 64) + 8 * (j % 32)
              else 16384 * m.slots.getD tile 0 + 256 * (i % 64) + 4 * (j % 64)
            a.copies = (List.range m.m).foldl (fun (mem : Memory) i => (row i).zipIdx.foldl (fun (mem : Memory) e => mem.setBytes (place i e.2)
              (bytesOfNat (if m.wide then 8 else 4) ((if m.wide then fp64 else fp32).convert 0 (kept e.1)).1)) mem) []) ∧
    (∀ m a, o.body = .mmul m (some a) → a.ran = true →
      let up := next a.rung a.passed
      (a.passed ≠ 0 → a.rung ≠ ceil m → up ≤ ceil m → c.owned o = true → ∀ b p, q.bind = some b → m.src = .scratch p →
        ∃ t, exec (.mmulSquash o.id) s = .next t ∧
          attempt m up (a.attempts + 1) a.passed (fun i => if i = 4 + a.passed then 1 else 0) t) ∧
      (a.passed = 0 ∨ a.rung = ceil m ∨ ceil m < up → c.req? o.id = none → ∃ t, exec (.mmulCommit o.id) s = .next t ∧
        if a.passed ≠ 0 ∧ m.ladder.getLsbD 6 = true then owes .precision t ∧ (t.chip.core k).acc = q.acc
        else t.chip.op? o.id = none ∧ (t.chip.core k).acc = commitCopies q.acc a.copies m ∧
          (o.push = true → c.owned o = true → (t.chip.thread o.tid).queue = fillSlot (c.thread o.tid).queue o.id
            (mulWord a.rung a.attempts (a.passed ≠ 0) (if a.passed ≠ 0 then a.passed else a.lastCause) a.counts)))) ∧
    ∀ cmd, o.body = .copy cmd → c.copyMay o cmd = true →
      (∀ ra rb, cmd.src = .loc ra → cmd.dst = .loc rb → cmd.done = 0 → 0 < cmd.geo.total → o.moving = none → c.owned o = true →
        ∃ t, exec (.copyUnit o.id) s = .next t ∧ t.chip.mem = c.mem ∧
          (t.chip.op? o.id).map Op.body = some (.copy { cmd with done := (cmd.geo.total + 4095) / 4096 }) ∧
          (t.chip.core k).scratch = q.scratch.setAt (localSpots cmd.geo rb 0 cmd.geo.total)
            ((localSpots cmd.geo ra 0 cmd.geo.total).map q.scratch.byte)) ∧
      (∀ v rb, cmd.src = .pattern v → cmd.dst = .loc rb → 4096 * cmd.done < cmd.geo.total → o.moving = none → c.owned o = true →
        ∃ t, exec (.copyUnit o.id) s = .next t ∧ t.chip.mem = c.mem ∧
          let lo := 4096 * cmd.done
          let hi := min cmd.geo.total (lo + 4096)
          (t.chip.op? o.id).map Op.body = some (.copy { cmd with done := cmd.done + 1 }) ∧
          (t.chip.core k).scratch = q.scratch.setAt (localSpots cmd.geo rb lo hi)
            ((List.range (hi - lo)).map fun i => v.extractLsb' (8 * ((lo + i) % cmd.geo.rowBytes % 8)) 8)) ∧
      (∀ rb, cmd.dst = .loc rb → cmd.units ≤ cmd.done → cmd.geo.flag = 0 → (o.push = true → c.owned o = true) →
        ∃ t, exec (.copyComplete o.id) s = .next t ∧ Ends s o (BitVec.ofNat 64 (cmd.geo.rows * cmd.geo.rowBytes)) 0 t) ∧
      ∀ j x la, cmd.dst = .far j x la → cmd.arrived = none →
        let u := c.thread (16 * j + x)
        let running := u.live = true ∧ u.part = o.part ∧ u.graph = o.task / 65536 ∧ u.handling = none ∧ u.isSaving = false
        ∃ t, exec (.cpydLocArrival o.id) s = .next t ∧
          if cmd.geo.total = 0 then t = s
          else if j ∉ c.partCores o.part then owes .protection t
          else if running then match u.localRows (BitVec.ofNat 64 la) cmd.geo cmd.geo.dstride with
            | some rows => (t.chip.op? o.id).map Op.body = some (.copy { cmd with arrived := some (c.nextId, rows) }) ∧
                t.chip.mem = c.mem
            | none => owes .align t
          else owes .illegalOperand t

/-- R246, R286, R287, R289 to R291, R295: a lookup whose digests and code digest are there finds the entry of its key, which counts
CEL_HIT and sends an alias of each output to its home, of the header it was published with, or counts CEL_MISS, queues the task and returns its TASK word. A key rotation
removes every entry and code digest of the partition, raises EPOCH and starts the sweep of its slices, during which another does
nothing; a step of the sweep finishes slices, whose PUBLISHED versions have their digests under the new key then. An error in an extent removes the cellar entries that hold it and
counts CEL_EVICT for each. It rests on the model's choices of log 21, log 57, log 64, log 65, log 75. -/
def Obligations.CellarSteps : Prop :=
  ∀ (s : State) (o : Op) (x : SpawnpCmd) (p n : Nat) (ext : Extent),
    let c := s.chip
    let mine := (c.thread c.cur).part
    (c.op? o.id = some o → o.body = .spawnp x → x.hit = false → x.digests.length = x.args.length → c.heldByAcquire o = false →
      x.keyNo = (c.part o.part).keyNo → ∀ code gen,
      x.code = some code ∧ x.gen = gen ∨ x.code = none ∧ gen = (c.part o.part).codeGen ∧
        (c.codeCache.find? fun e => e.die == dieOf (coreOf o.tid) && e.part == o.part && e.asid == o.asid && e.entry == x.entry &&
          e.len == x.len && e.gen == gen).map CodeEntry.digest = some code →
      let y := { x with code := some code, gen := gen }
      let key := digestOf (c.key o.part) (tagHeader 1 (keyMessage y code gen).length) (keyMessage y code gen)
      let home := (c.cellarHome o.part key).1 / 16
      let woken := fun (d : Chip) => if c.slices o.part ≠ [] ∧ d.asleep home = true then d.wake home else d
      ∃ t, exec (.cellarLookup o.id) s = .next t ∧
        match c.cellar.find? fun e => e.part == o.part && e.key == key with
        | some e => (t.chip.part o.part).celHit = (c.part o.part).celHit + 1 ∧
            (x.uses.length = x.outs.length → e.outs.length = x.outs.length →
              let same := fun (i : Nat) => some (hHeader (x.outs.getD i 0)) = e.outs[i]?.map (·.1)
              ∃ hits failed, (t.chip.op? o.id).map Op.body = some (.spawnp { y with hit := true, hits := hits, failed := failed }) ∧
                (∀ i, i ∈ hits ↔ i < x.outs.length ∧ same i) ∧ (failed = none ↔ ∀ i < x.outs.length, same i) ∧
                ∀ i < x.outs.length, ¬same i → (∀ j < i, same j) → failed = some (.badHandle, x.outs.getD i 0)) ∧
            (∀ r ∈ t.chip.reqs, r ∈ c.reqs ∨ ∃ i u, r.origin = .hitOutput o.id i ∧ r.body = .aliasOf u (x.uses.getD i 0) ∧
              r.target = x.outs.getD i 0 ∧ (e.outs[i]?.map fun y => y.2.1) = some u)
        | none => (t.chip.part o.part).celMiss = (c.part o.part).celMiss + 1 ∧ t.chip.op? o.id = none ∧ t.chip.cellar = c.cellar ∧
            (x.code = some code → t = s.put (Chip.finish (Chip.enqueue { ((woken (c.acquire (coreOf o.tid) .domain)).modPart o.part fun q =>
                { q with celMiss := q.celMiss + 1 }) with nextId := c.nextId + 1 }
              { id := c.nextId, part := o.part, graph := o.task / 65536, index := x.taskId % 65536, place := x.place, entry := x.entry,
                args := [x.args.headD 0, x.outs.headD 0, BitVec.ofNat 64 (x.uses.headD 0), x.scal.headD 0], modes := x.modes,
                asid := o.asid, pool := .blocked, block := x.block, pagerOf := none, saved := none, requested := false,
                home := dieOf (coreOf o.tid), waits := c.forkWaits o,
                pureTask := some { strict := x.strict, args := x.args, outs := x.outs, uses := x.uses, key := some key,
                                   keyNo := x.keyNo, violated := false, published := [], held := [] } }
              (some (coreOf o.tid))) o (BitVec.ofNat 64 x.taskId) 0))) ∧
    ((c.part mine).sweepLeft = [] → ∃ t, exec .celkeyRotate s = .next t ∧
      t.chip.cellar = c.cellar.filter (fun e => e.part != mine) ∧ t.chip.codeCache = c.codeCache.filter (fun e => e.part != mine) ∧
      (t.chip.part mine).celEpoch = (c.part mine).celEpoch + 1 ∧ (t.chip.part mine).sweepLeft = c.slices mine ∧
      (t.chip.part mine).keyNo = c.draws ∧ t.chip.draws = c.draws + 1 ∧ t.chip.mem = c.mem) ∧
    ((c.part mine).sweepLeft ≠ [] → exec .celkeyRotate s = .next s) ∧
    ((c.part p).sweepLeft ≠ [] → ∃ (t : State) (done : List Nat), exec (.digestSweepDone p) s = .next t ∧ t.chip.mem = c.mem ∧
      (∃ i, i ∈ done ∧ i ∈ (c.part p).sweepLeft) ∧ (t.chip.part p).sweepLeft = (c.part p).sweepLeft.filter (fun i => !done.contains i) ∧
      ((∀ i, ∀ v, Table.get? c.extents i = some v → v.bad = false) → ∀ e ∈ t.chip.entries, e.part = p → e.state = .published →
        c.sliceOf p e.space e.index ∈ done → e.digest = c.tileDigest p e.header (c.extentBytes e.extent))) ∧
    ((c.part p).sweepLeft = [] → exec (.digestSweepDone p) s = .next (s.put { c with draws := c.draws + 1 })) ∧
    (Table.get? c.extents n = none → exec (.scrubError n) s = .next s) ∧
    (Table.get? c.extents n = some ext → ∃ t, exec (.scrubError n) s = .next t ∧ t.chip.mem = c.mem ∧
      (∀ e ∈ t.chip.cellar, ∀ y ∈ e.outs, y.2.1 ≠ n) ∧ t.chip.cellar = c.cellar.filter (fun e => !e.outs.any fun y => y.2.1 == n) ∧
      (t.chip.part p).celEvict = (c.part p).celEvict +
        BitVec.ofNat 64 (c.cellar.countP fun e => e.part == p && e.outs.any fun y => y.2.1 == n))

/-- R251, R254, R255, R257, R261, R262, R265, R267, R268, R302, R315: room that a core gives a task is a free context, a run of its
scratchpad that no one holds, and free slots; a record moves to another die's empty pool only within its class; a gang reserves a
member at a time and starts them all at once, and loses what it holds to an older gang that needs what it would take; the version that
a scheduler's load was served is taken up row by row; a status word is written at its home or its peer's, or dropped with a stop
record; a start of an armed slot that falls due while an instance runs is skipped or held, by its policy, and no second one is held;
a graph ends with the cause that was asked for, or by the fatal trap of a thread, which is recorded first; and
the watchdog resets a unit that hangs. It rests on the model's choices of log 15, log 16, log 25, log 26, log 27, log 28, log 82. -/
def Obligations.SchedulerSteps : Prop :=
  ∀ (s : State) (p n src dst : Nat) (cause : Cause),
    let c := s.chip
    let q := c.part p
    (∀ w saved k room, c.fit p w saved k = some room → room.ctx < 16 ∧ (c.thread (16 * k + room.ctx)).live = false ∧
      16 * k + room.ctx ≠ c.supervisor p ∧ room.slots.length = pAcc w ∧ (∀ x ∈ room.slots, x < slotCount k ∧ x ∉ c.slotsUsed k) ∧
      (∀ u ∈ c.runsUsed k, u.1 + u.2 ≤ room.win ∨ room.win + winBytes w ≤ u.1) ∧ room.win + winBytes w ≤ scratchSize k ∧
      room.win % winBytes w = 0) ∧
    (∃ t, exec (.diePoolMove src dst) s = .next t ∧
      let moves := fun (r : Record) => r.pool == .die src && r.saved.isNone && !pNamed r.place && c.placeable r.part r &&
        (c.partCores r.part).any fun k => decide (k / 64 = dst) && decide (c.freeContexts r.part k ≠ [])
      match c.records.find? moves with
      | none => t = s
      | some r =>
        let ok := src / 4 = dst / 4 ∧ src ≠ dst ∧ ∀ x ∈ c.records, x.pool ≠ .die dst
        (¬ok → t = s) ∧ (ok → t = s.put (Chip.fill
          { c with records := (c.records.filter fun x => x.id != r.id) ++ [{ r with pool := .die dst }] } r.part (64 * dst)))) ∧
    (∀ g, c.gangs.find? (fun x => x.id == n) = some g → c.gangMay g = true → c.gangTurn g = true → ∀ g', c.reserveNext g = some g' →
      let rivals := c.gangs.filter fun o => o.part == g.part && c.contests (c.setGang g') o
      ∃ t, exec (.gangReserve n) s = .next t ∧
        ((∀ o ∈ rivals, o.seq = g.seq) → if g'.reserved.length = g.size then t = s.put ((c.setGang g').commitGang g')
          else t = s.put (c.setGang g')) ∧
        ((∃ o ∈ rivals, o.seq < g.seq) → (∀ o ∈ c.gangs, o.id = n → o = g) → ∀ y ∈ t.chip.gangs, y.id = n → y.reserved = [])) ∧
    (q.state = .running → n < 16 → ∃ t, exec (.launchVersionServed (16 * p + n)) s = .next t ∧
      match c.reqs.find? fun r => r.origin == .launch && r.part == p && r.index == n with
      | none => t = s.put (c.armLaunch p n)
      | some r =>
        (∀ x, r.phase = .served x →
          let d := { c with reqs := c.reqs.filter fun y => y.id != r.id }.dropRef x
          t = s.put (if r.header = 0x480 then (List.range 8).foldl (fun d i =>
            d.launchRecord p (d.sliceOf p 255 n / 16) r.asid (launchRow (c.extentBytes x) i)) d else d)) ∧
        (r.phase = .waiter → ∀ e sp, c.entry? r.name r.version = some e → c.space? p 255 = some sp → sp.home ≠ 2 →
          t = if e.state = .pending then s else s.put (c.atHome sp r))) ∧
    (∀ x, nextStatus c.statusAsked c.owedStatus = some x → ∃ t, exec .statusWordWrite s = .next t ∧
      let rest := c.owedStatus.filter fun y => y.id != x.id
      (x.va.toNat % 8 ≠ 0 → t = s.put (Chip.dropStatus { c with owedStatus := rest } x .align)) ∧
      (x.va.toNat % 8 = 0 → x.failed = true → t = s.put (Chip.dropStatus { c with owedStatus := rest } x .pageFault)) ∧
      (x.va.toNat % 8 = 0 → x.failed = false → c.hostLines = [] →
        (∀ keys page, c.access noCore x.part x.asid .user .write x.va 8 = .ok keys page → c.poisoned keys = false →
          (∀ a ∈ keys, c.hostOnly a = false) →
          t.chip.mem = c.mem.setAt keys (bytesOfNat 8 x.value.toNat) ∧ t.chip.owedStatus = rest) ∧
        let woken := Chip.walked { c with owedStatus := rest } noCore x.part x.asid [(x.va, 8)]
        (∀ dev pa, c.access noCore x.part x.asid .user .write x.va 8 = .far dev pa →
          if c.linksUp dev = true then t.chip.owedStatus = rest ∧ t.chip.unitAsks = c.unitAsks ++ [(x.id, .status x)] ∧
            t.chip.sent = c.sent ++ [.req dev x.part (tagOf x.id 0) (.write pa (bytesOfNat 8 x.value.toNat))]
          else t = s.put (woken.dropStatus x .linkLost)) ∧
        ∀ cause va, c.access noCore x.part x.asid .user .write x.va 8 = .refuse cause va → t = s.put (woken.dropStatus x cause))) ∧
    (∀ x, Table.get? q.tslots n = some x → x.armed = true → q.slottab.getLsbD 0 = true →
      x.start.toNat + x.nextK * x.period.toNat ≤ q.time.toNat → q.time.toNat < x.start.toNat + (x.nextK + 1) * x.period.toNat →
      let past := c.modSlot p n fun x => { x with nextK := x.nextK + 1 }
      ∃ t, exec (.slotStartDue p n) s = .next t ∧
        (q.state ≠ .running → t = s.put (past.countSlot p n false 1)) ∧
        (q.state = .running → x.running = [] → t = s.put (past.makeStart p n x.nextK)) ∧
        (q.state = .running → x.running ≠ [] →
          (x.policy = 0 → t = s.put (past.countSlot p n false 1)) ∧
          (x.policy ≠ 0 → x.pending.isSome = true → t = s.put (past.countSlot p n true 1)) ∧
          (x.policy ≠ 0 → x.pending = none → t.chip.threads = c.threads ∧ t.chip.mem = c.mem ∧
            Table.get? (t.chip.part p).tslots n = some { x with nextK := x.nextK + 1, pending := some x.nextK }))) ∧
    (∀ g, 0 < n → n < 2 ^ 32 → c.graph? p n = some g → c.hangs p n = false →
      (g.ended = some cause → exec (.graphEnd (p * 2 ^ 32 + n) cause) s = .next (s.put (c.endGraph p n cause))) ∧
      (∀ v r, g.ended = none → c.fatalTrap p n cause = some (v, r) → exec (.graphEnd (p * 2 ^ 32 + n) cause) s =
        .next (s.put ((c.putStop p (c.trapStop v r)).endGraph p n cause)))) ∧
    ∀ v, (c.stopThread v cause.code).thread v = .empty ∧
      ∀ o, c.hung.find? (fun x => x.id == v && x.part == p && x.task / 65536 == n) = some o → n < 2 ^ 32 →
        ∃ (t : State) (d : Chip), exec (.watchdog (p * 2 ^ 32 + n) v) s = .next t ∧ t = s.put (d.endOver p n) ∧
          d.hung = c.hung.filter (fun x => x.id != v) ∧ d.threads = c.threads ∧
          d.graphs = c.graphs.map fun g => if g.part = p ∧ g.id = n then
            { g with ended := if g.fatal = true then g.ended else some .watchdog } else g

/-! ### Page faults, pre-emption and saved tasks -/

/-- R256, R281, R298, R318 to R331: a fault whose page no record covers is fatal without a pager, and otherwise posted with its page
and its pager, or held while the buffer is full; the first fault held is posted when a slot is free; the pager of the first record
starts as a graph with the record's id, address, page and table entry. A waiting record that fits nowhere marks the victim of lowest
priority, of equals the youngest. The save waits until nothing of the thread is outstanding, writes its record, frees the context and puts the task at the head of its die's pool; the
restore makes the thread again from the record. A fault, a save and a restore wait while the host holds lines that their unit needs (R390).
It rests on the model's choices of log 15, log 16, log 18, log 37, log 40. -/
def Obligations.FaultsAndSaves : Prop :=
  ∀ (s : State) (p n k : Nat) (o : Op) (w : FaultWait) (r : Record) (f : FaultRec),
    let c := s.chip
    let q := c.part p
    (c.op? o.id = some o → o.fault = some w → o.part = p → (∀ x ∈ q.faults, x.holds o.asid w.va = false) →
      3 * o.id ∉ q.heldFaults → let found := c.pagerFor p w.va (List.range (q.pagertab.toNat % 128))
      (∀ d, c.pagerAsks p = some d → exec (.pageFaultPost (3 * o.id)) s = .next (s.put d)) ∧
      (found.1 = none → c.pagerAsks p = none → o.body.isEarly = false → ∃ t, exec (.pageFaultPost (3 * o.id)) s = .next t ∧
        t.chip.op? o.id = none ∧ (c.owned o = true → ∃ x ∈ (t.chip.thread o.tid).owed, x.id = o.id ∧ x.cause = .pageFault ∧
          x.addr = w.va)) ∧
      ∀ i, found.1 = some i →
        let entry := (found.2.pagerWord p i 2).getD 0
        let e := (found.2.pagerWord p i 3).getD 0
        found.2.pagerOk p entry e = true → c.pagerAsks p = none → ∃ t, exec (.pageFaultPost (3 * o.id)) s = .next t ∧ t.chip.ops = c.ops ∧
          match if q.heldFaults = [] then q.freeSlot else none with
          | some slot => ∃ x, (t.chip.part p).faults = q.faults ++ [x] ∧ x.slot = slot ∧ x.task = o.task ∧ x.asid = o.asid ∧
              x.page.toNat = w.va.toNat / pageSize e * pageSize e ∧ x.size = pageSize e ∧ x.entry = entry ∧ x.pidx = i ∧
              x.started = false ∧ (t.chip.part p).heldFaults = q.heldFaults
          | none => (t.chip.part p).heldFaults = q.heldFaults ++ [3 * o.id] ∧ (t.chip.part p).fbOvf = true ∧
              (t.chip.part p).fbheld = q.fbheld + 1 ∧ (t.chip.part p).faults = q.faults) ∧
    (∃ t, exec (.faultRecordRepost p) s = .next t ∧ match q.heldFaults with
      | x :: rest => if q.freeSlot = none then t = s
          else t = s.put (match c.pagerAsks p with
            | some d => d
            | none => (c.modPart p fun q => { q with heldFaults := rest }).postFault x true)
      | [] => t = s) ∧
    (q.faults.find? (fun x => !x.started) = some f → ∃ (t : State) (d : Chip), exec (.pagerStart p f.rid.toNat) s = .next t ∧
      t = s.put (d.formGraph {
        part := p, entry := f.entry, place := f.place, asid := f.asid, status := 0, pred := none, slot := none,
        args := [f.rid.setWidth 64, q.fbbase + BitVec.ofNat 64 (64 * f.slot), f.page, BitVec.ofNat 64 f.pidx],
        pager := some f.rid.toNat, home := coreOf f.thread / 64, blocked := false }) ∧
      (d.part p).faults = q.faults.map (fun x => if x.rid = f.rid then { x with started := true, graph := q.nextGraph.toNat } else x) ∧
      d.threads = c.threads ∧ d.mem = c.mem) ∧
    (c.records.find? (fun x => x.id == n) = some r → c.asks r = true →
      let cores := (c.partCores r.part).filter (c.eligible r.part r.place r.saved.isSome)
      (∀ e ∈ c.threads, e.2.marked ≠ some (n + 1) ∧ (e.2.live = true → e.2.isSaving = true → coreOf e.1 ∉ cores)) →
      (∀ j ∈ cores, c.roomOn r j = false) →
      let victims := (c.threads.map Prod.fst).filter fun v => cores.contains (coreOf v) && c.victimOk r v
      victims ≠ [] → ∃ t, exec (.preemptRequest n) s = .next t ∧ ∃ v ∈ victims,
        (∀ u ∈ victims, (c.thread u).prio ≤ (c.thread v).prio ∧
          ((c.thread u).prio = (c.thread v).prio → (c.thread u).placedAt ≤ (c.thread v).placedAt)) ∧
        t.chip.thread v = { c.thread v with marked := some (n + 1) } ∧ ∀ u, u ≠ v → t.chip.thread u = c.thread u) ∧
    (∀ mask list save place_, (c.thread k).park = .saving mask list save false →
      Table.get? (c.part (c.thread k).part).saves save = some place_ → ∃ t, exec (.saveWrite k) s = .next t ∧
        let x := (c.thread k).part
        let bytes := c.saveBytes k mask list
        let va := c.areaVa x (0x30000 + place_.offset)
        if (∃ o ∈ c.ops, o.tid = k) ∨ (c.thread k).owed ≠ [] then t = s
        else match c.unitAsksHost (.engine k) x (c.part x).areaAsid .sup .write (cutRuns va bytes.length) with
        | some d => t = s.put d
        | none => t.chip.thread k = { c.thread k with park := .saving mask list save true } ∧ t.chip.ops = c.ops ∧
          (∀ u, u ≠ k → t.chip.thread u = c.thread u) ∧
          ∀ keys page, c.areaOk x = true → c.hostLines = [] → (∀ a ∈ keys, c.hostOnly a = false) → va.toNat % 65536 + bytes.length ≤ 65536 →
            c.access (coreOf k) x (c.part x).areaAsid .sup .write va bytes.length = .ok keys page →
            t.chip.mem = c.mem.setAt keys bytes) ∧
    (∀ mask list save, (c.thread k).park = .saving mask list save true → (c.thread k).gang = none →
      ∃ (t : State) (d : Chip), exec (.saveComplete k) s = .next t ∧
        (let give := fun (e : Chip) => e.giveCore (c.thread k).part (coreOf k) (c.thread k).prio
        let slot := fun (e : Chip) (core : Option Nat) => e.slotAfterSave (c.thread k).part (c.thread k).graph core
        t = s.put ((if (c.thread k).marked = some 0 then give (slot d (some (coreOf k))) else slot (give d) none).fill
          (c.thread k).part (coreOf k))) ∧
        d.thread k = .empty ∧ (∀ u, u ≠ k → d.thread u = c.thread u) ∧ d.mem = c.mem ∧
        ∃ x, d.records = x :: c.records ∧ x.saved = some save ∧ x.pool = .die (coreOf k / 64) ∧ x.graph = (c.thread k).graph ∧
          x.index = (c.thread k).index ∧ x.place = (c.thread k).place ∧ x.entry = (c.thread k).pc) ∧
    ∀ save room place_, c.records.find? (fun x => x.id == n) = some r → r.saved = some save →
      c.fit r.part r.place true k = some room →
      ((c.sources r.part k).find? fun x => (c.fit r.part x.place x.saved.isSome k).isSome).map Record.id = some n →
      Table.get? (c.part r.part).saves save = some place_ →
      let eng : Agent := .engine (16 * k + room.ctx)
      let va := c.areaVa r.part (0x30000 + place_.offset)
      let asks := c.unitAsksHost eng r.part (c.part r.part).areaAsid .sup .read (cutRuns va place_.size)
      (∀ d, asks = some d → exec (.restore n k) s = .next (s.put (d.fill r.part k))) ∧
      ∀ bs, asks = none → (c.devOpen eng r.part (c.part r.part).areaAsid .sup va place_.size).devRead eng r.part (c.part r.part).areaAsid
        .sup va place_.size = some bs →
      ∃ (t : State) (d : Chip), exec (.restore n k) s = .next t ∧ t = s.put (d.fill r.part k) ∧
        { d.thread (16 * k + room.ctx) with park := .run } = restoreThread (r.thread room c.tick) bs ∧
        (d.thread (16 * k + room.ctx)).pc = wordOfBytes64 ((bs.drop 0x18).take 8) ∧
        Table.get? (d.part r.part).saves save = none ∧ d.records = c.records.filter fun x => x.id != n

/-! ### The world outside -/

/-- R389 to R392, R403 to R405, R417: a host write of PUB by a bound virtual function stores its LTILE bytes into the launch space, unless
the function is busy or a reserved bit is set, which PUBSTAT shows; LTOL is written; an unbound function takes no write. SNP_DATA
leaves the device's line clean, SNP_INV takes it away, both after every L1 copy of it, SNP_CUR changes nothing; each is answered, with
the data of a line that the device owns. The host reads, and has the line's data, or
writes a line of HBM of a live die that a committed decoder covers, once a full record has room for it; its answer to what the home asked gives the
line up, or keeps it clean, with its data; before the host port takes CXL.cache and CXL.mem traffic none of these acts (R417); a decoder commits only a range of 256 MiB units that one partition owns; and a CXL port goes
down. It rests on the model's choices of log 4, log 9, log 40. -/
def Obligations.HostSteps : Prop :=
  ∀ (s : State) (vf line n base size : Nat) (v : Word) (bs : List Byte) (writes : List (Nat × Byte)) (keeps : Bool),
    let c := s.chip
    let host := 2 ^ 46 + line
    let exposed := c.liveDies.getLsbD (dieOfHbm (64 * line)) = true ∧
      ∃ e ∈ c.decoders, e.2.base ≤ 64 * line ∧ 64 * line < e.2.base + e.2.size
    let answered := fun (t : State) => t.chip.sent = c.sent ++ [.snpRsp line (if Table.get? c.devLines host = some true
      then some (c.mem.bytes (64 * host) 64) else none)]
    let keys := (List.range 64).map (64 * line + ·)
    (∀ x part asid, Table.get? c.vfs vf = some x → x.bound = some (part, asid) →
      let tile := x.ltile.setAt (writes.map Prod.fst) (writes.map Prod.snd)
      (∃ t, exec (.pub vf v writes) s = .next t ∧
        if x.busy = true ∨ v.toNat / 2 ^ 4 % 2 ^ 12 ≠ 0 ∨ v.toNat / 2 ^ 32 ≠ 0 then
          t.chip.reqs = c.reqs ∧ Table.get? t.chip.vfs vf = some { x with ltile := tile, stat := 3 }
        else Table.get? t.chip.vfs vf = some { x with ltile := tile, busy := true } ∧ ∃ r, t.chip.reqs = c.reqs ++ [r] ∧
          r.part = part ∧ r.space = 255 ∧ r.index = v.toNat % 16 ∧ r.version = v.extractLsb' 16 16 ∧ r.header = 0x480 ∧
          r.body = .store 1 (tile.bytes 0 512) ∧ r.origin = .vf vf ∧ r.asid = asid ∧ r.phase = .travelling) ∧
      ∃ t, exec (.vfLtolWrite vf v) s = .next t ∧ Table.get? t.chip.vfs vf = some { x with ltol := v.extractLsb' 0 32 } ∧
        t.chip.mem = c.mem) ∧
    (∀ x, Table.get? c.vfs vf = some x → x.bound = none → exec (.pub vf v writes) s = .next s ∧ exec (.vfLtolWrite vf v) s = .next s) ∧
    (s.trust.cxlOpen = true → ∃ t, exec (.snpData line) s = .next t ∧ t.chip.mem = c.mem ∧ answered t ∧
      (∀ d, Table.get? c.devLines host = some d → Table.get? t.chip.devLines host = some false ∧
        ∀ k, host ∉ (t.chip.core k).l1 ∧ ∀ x, (host, x) ∉ (t.chip.core k).stale) ∧
      ∀ l, l ≠ host → Table.get? t.chip.devLines l = Table.get? c.devLines l) ∧
    (s.trust.cxlOpen = true → ∃ t, exec (.snpInv line) s = .next t ∧ Table.get? t.chip.devLines host = none ∧ answered t ∧ t.chip.mem = c.mem ∧
      ∀ k, host ∉ (t.chip.core k).l1 ∧ ∀ x, (host, x) ∉ (t.chip.core k).stale) ∧
    (s.trust.cxlOpen = true → ∃ t, exec (.snpCur line) s = .next t ∧ answered t ∧ t = s.put { c with sent := t.chip.sent }) ∧
    (s.trust.cxlOpen = false → ∀ i ∈ [Instr.snpData line, .snpInv line, .snpCur line, .birsp line (some bs), .hostMemRequest line (some bs) keeps],
      exec i s = .next s) ∧
    (s.trust.cxlOpen = true → c.unitWork = [] → exposed → 64 * line + 64 ≤ 2 ^ 52 → bs.length = 64 → (∀ a ∈ keys, c.hostOnly a = false) → ∀ data ∈ [some bs, none],
      ∃ t, exec (.hostMemRequest line data keeps) s = .next t ∧
        match if keeps = true ∧ line ∉ c.hostOrder then c.recordFull line else none with
        | some old => t.inputs = s.inputs ++ [.hostMem line data keeps] ∧ t.chip.mem = c.mem ∧ t.chip.hostLines = c.hostLines ∧
            (Table.get? c.hostLines old ≠ none → Table.get? t.chip.snooped old = some true)
        | none => t.inputs = s.inputs ∧ t.chip.mem = (if data = none then c.mem else c.mem.setAt keys bs) ∧
            (data = none → t.chip.sent = c.sent ++ [.memData line (if c.poisoned keys = true then none else some (c.mem.bytes (64 * line) 64))]) ∧
            (Table.get? t.chip.hostLines line).isSome = keeps ∧ Table.get? t.chip.snooped line = none) ∧
    (s.trust.cxlOpen = true → c.unitWork = [] → 64 * line + 64 ≤ 2 ^ 52 → bs.length = 64 → (∀ a ∈ keys, c.hostOnly a = false) → ∀ inv, Table.get? c.snooped line = some inv →
      ∀ data ∈ [some bs, none], ∃ t, exec (.birsp line data) s = .next t ∧
        t.chip.mem = (if data = none then c.mem else c.mem.setAt keys bs) ∧ Table.get? t.chip.snooped line = none ∧
        Table.get? t.chip.hostLines line = if inv then none else some false) ∧
    (Table.get? c.snooped line = none → exec (.birsp line (some bs)) s = .next s) ∧
    (¬exposed → exec (.hostMemRequest line (some bs) keeps) s = .next s) ∧
    (∃ t, exec (.hdmDecoderCommit n base size) s = .next t ∧
      if n ≤ 3 ∧ base % 2 ^ 28 = 0 ∧ size % 2 ^ 28 = 0 ∧ 0 < size ∧ base + size ≤ 12 * 48 * 2 ^ 30 ∧ c.oneOwner base size = true then
        Table.get? t.chip.decoders n = some { base := base, size := size } ∧ t.chip.mem = c.mem
      else t = s) ∧
    ∀ h : n < 3, ∃ t, exec (.cxlLinkDown n) s = .next t ∧ t.chip.portUp[n] = false ∧ t.chip.mem = c.mem ∧
      ∀ j : Fin 3, j.val ≠ n → t.chip.portUp[j] = c.portUp[j]

/-- R81, R102, R115, R307 to R309, R361, R387, R398, R408, R411 to R413: a peer's read, write or atomic of bytes that its partition
may reach is performed at the home and answered, and refused with LINK_LOST where the partition does not take part and with PROTECTION
beyond the memory; a fence is answered once no access of the peer waits. An answer fills the request that it names: the bytes of a
tile arrive, or its operation has its word. A trap record of a peer joins the queue; the answer to a record that a peer handled is
carried out where the thread still waits for it. A link goes down, narrows at a lane failure, and retrains to a width or a frequency, the
frequency first and the width only if it holds at it. It rests on the model's choices of log 22, log 38, log 39, log 41, log 54. -/
def Obligations.LinkSteps : Prop :=
  ∀ (s : State) (src : BitVec 12) (p tag pa link n : Nat) (bs : List Byte) (x : Word) (keeps : Bool),
    let c := s.chip
    let keys := fun (n : Nat) => (List.range n).map (pa + ·)
    let takesPart := (c.part p).state ≠ .undefined ∧ (c.part p).layout.nb.getLsbD 8 = true
    let reach := fun (n : Nat) => takesPart ∧ frameInRange (classOfPa pa) pa 0 = true ∧ c.reach p (classOfPa pa) pa = none ∧
      c.hostLines = [] ∧ c.poisoned (keys n) = false ∧ pa + n ≤ 2 ^ 52 ∧ ∀ a ∈ keys n, c.hostOnly a = false
    let answers := fun (a : LinkRsp) (t : State) => t.chip.sent = c.sent ++ [.rsp src.toNat tag a]
    let old := (Table.get? c.links link).getD .empty
    let becomes := fun (l : Link) (t : State) => t = s.put { c with links := Table.put c.links link l }
    let falls := fun (l : Link) (t : State) => let d := { c with links := Table.put c.links link l }
      ((∀ dev, c.linksUp dev = true → d.linksUp dev = true) → t = s.put d) ∧
      ((∃ dev, c.linksUp dev = true ∧ d.linksUp dev = false) → t = s.put (d.cutOff c))
    let last := fun (i : Input) => s.inputs.filter (fun x => x.stream != i.stream) ++ i :: s.inputs.filter fun x => x.stream == i.stream
    (∃ t, exec (.linkReqReceive src p tag (.read pa n)) s = .next t ∧
      (reach n → answers (.data ((keys n).map c.mem.byte)) t ∧ t.chip.mem = c.mem) ∧ (¬takesPart → answers (.refused .linkLost) t) ∧
      (takesPart → frameInRange (classOfPa pa) pa 0 = true → ∀ cause, c.reach p (classOfPa pa) pa = some cause →
        answers (.refused cause) t) ∧
      (takesPart → frameInRange (classOfPa pa) pa 0 = true → c.reach p (classOfPa pa) pa = none → c.poisoned (keys n) = true →
        answers (.refused .memUncorrectable) t) ∧
      (takesPart → frameInRange (classOfPa pa) pa 0 = true → c.reach p (classOfPa pa) pa = none → c.poisoned (keys n) = false →
        c.hostHolds (keys n) true = true → t.inputs = last (.linkReq src p tag (.read pa n)) ∧ t.chip.mem = c.mem) ∧
      (takesPart → frameInRange (classOfPa pa) pa 0 = false → answers (.refused .protection) t)) ∧
    (∃ t, exec (.linkReqReceive src p tag (.write pa bs)) s = .next t ∧
      (reach bs.length → answers .done t ∧ t.chip.mem = c.mem.setAt (keys bs.length) bs) ∧
      (¬takesPart → answers (.refused .linkLost) t)) ∧
    (∀ op width e, ∃ t, exec (.linkAtomReceive src p tag { pa := pa, op := op, width := width, operand := x, expected := e }) s = .next t ∧
      (reach width.bytes → let before := (keys width.bytes).map c.mem.byte
        answers (.data before) t ∧
        t.chip.mem = if op = .cas ∧ natOfBytes before % 2 ^ (8 * width.bytes) ≠ e.toNat % 2 ^ (8 * width.bytes) then c.mem
          else c.mem.setAt (keys width.bytes) (op.newBytes width.bytes before x e))) ∧
    (∃ t, exec (.linkFenceReceive src p tag) s = .next t ∧
      if (c.part p).layout.nb.getLsbD 8 = false then answers (.refused .linkLost) t ∧ t.chip.mem = c.mem
      else if s.inputs.any (Input.peerAccessOf src) = true then t.chip = c ∧ t.inputs = last (.linkFence src p tag)
      else answers .done t ∧ t.chip.mem = c.mem) ∧
    (∀ i ∈ [Instr.linkRspReceive, .arrivalNotice], ∀ r id, tag % 8192 = 8191 → c.req? (tag / 8192) = some r → r.abroad = true →
      r.origin = .op id →
      (r.phase = .away → ∃ t, exec (i tag .done) s = .next t ∧ (t.chip.req? r.id).map Req.phase = some .remote) ∧
      (∀ u, r.body = .gather u → ∃ t, exec (i tag .begin) s = .next t ∧ (t.chip.req? r.id).map Req.phase = some .gathering) ∧
      (r.body = .load keeps → ∃ t, exec (i tag (.served x bs)) s = .next t ∧
        ((t.chip.req? r.id).map Req.phase = some (.served c.nextId)) ∧ t.chip.extentBytes c.nextId = bs) ∧
      (r.body = .probe → ∃ t, exec (i tag (.served x bs)) s = .next t ∧ Answered s r id x t) ∧
      ∀ cause, ∃ t, exec (i tag (.refused cause)) s = .next t ∧ Refused s r cause t) ∧
    (∀ i ∈ [Instr.linkRspReceive, .arrivalNotice], tag % 8192 ≠ 8191 →
      (∀ o, c.op? (tag / 8192) = some o → o.asked = true → Table.get? o.replies (tag % 8192) = none →
        ∃ t, exec (i tag (.data bs)) s = .next t ∧
          (t.chip.op? o.id).map Op.replies = some (Table.put o.replies (tag % 8192) bs)) ∧
      ∀ w cause, c.op? (tag / 8192) = none → Table.get? c.unitAsks (tag / 8192) = some (.status w) →
        let d := { c with unitAsks := Table.erase c.unitAsks (tag / 8192) }
        exec (i tag .done) s = .next (s.put d) ∧ exec (i tag (.refused cause)) s = .next (s.put (d.dropStatus w cause))) ∧
    (∀ core asid ws q, c.ownerOf core = some q → c.areaOk q = true →
      ∃ t, exec (.linkMgmtReceive src (.trapRecord core asid ws)) s = .next t ∧
        if c.queueUsed q < 256 then (t.chip.part q).trapSeq = (c.part q).trapSeq + 1 ∧
          ∃ e, (t.chip.part q).trapQueue = (c.part q).trapQueue ++ [e] ∧ e.tid = (ws.headD 0).toNat / 2 ^ 32 ∧ e.asid = asid ∧
            e.core = core ∧ e.seq = (c.part q).trapSeq.toNat ∧ e.own = (ws.getD 3 0).toNat / 2 ^ 32 ∧
            e.cause = (ws.headD 0).toNat % 2 ^ 8
        else t.chip = c ∧ t.inputs = last (.linkMgmt src (.trapRecord core asid ws))) ∧
    (∀ thread seq task action cause, let u := thread % 2 ^ 13
      ∃ t, exec (.linkMgmtReceive src (.trapAnswer thread seq task action cause)) s = .next t ∧
        if thread / 2 ^ 13 = c.device.toNat ∧ c.awaits u seq task = true then
          (cause = none ∨ action < 2 → t = s.put (c.answerTrap u action)) ∧
          ∀ x r, cause = some x → 2 ≤ action → (c.thread u).posted = some r → (c.thread u).graph ≠ 0 →
            t = s.put (c.requestEnd (c.thread u).part (c.thread u).graph x true)
        else t = s) ∧
    (∃ t, exec (.linkDown link) s = .next t ∧ falls { old with up := false } t) ∧
    (∃ t, exec (.laneFailure link) s = .next t ∧ falls (if old.lanes ≤ 2 then { old with up := false }
      else { old with lanes := if old.lanes = 8 then 4 else 2, retrains := old.retrains + 1 }) t) ∧
    (∃ t, exec (.linkWidthRequest link n pa) s = .next t ∧
      ((∀ f, Input.freqChange link f pa ∉ s.inputs) → becomes (if old.up = true ∧ n ∈ [8, 4, 2] ∧
        (old.freqAt = some pa → Config.widthHolds link n old.freq = true) then
        { old with lanes := n, retrains := old.retrains + 1 } else old) t) ∧
      ∀ f, s.inputs = [.freqChange link f pa] → old.up = true → t.inputs = [] ∧
        let holds := n ∈ [8, 4, 2] ∧ Config.widthHolds link n f = true
        Table.get? t.chip.links link = some { old with
          lanes := if holds then n else old.lanes, freq := f, freqAt := some pa
          retrains := old.retrains + if holds then 2 else 1 }) ∧
    ∃ t, exec (.linkFreqChange link ⟨n, pa⟩) s = .next t ∧ becomes (if old.up = true then
      { old with freq := n, retrains := old.retrains + 1, freqAt := some pa } else old) t

/-- R12, R399, R413 to R415, R417 to R419: a sample of time steps TIME where it is off by more than STEP, and else is slewed to, LOCK
showing an offset of at most 100 ns; a die on which no thread runs, for which no record waits and no launch stands enters the deepest
state that its partitions tolerate, and wakes at once. A staged image is kept for the next package reset. A package reset clears the
measurements and the package, checks the image's signatures and version, measures what it found, and creates the partitions of a
configuration that verifies, in their order, and starts their supervisors and its own contexts at PKG; without them it comes up in recovery, with no partition. Evidence carries the
measurements that were asked for, signed. It rests on the model's choices of log 8, log 42, log 43,
log 44, log 45, log 55, log 74. -/
def Obligations.PowerAndBoot : Prop :=
  ∀ (s : State) (p die : Nat) (sample : Word) (b : BootInput) (nonce : BitVec 256) (mask : BitVec 8) (image : List Byte),
    let c := s.chip
    let q := c.part p
    let off : Int := (sample.toNat : Int) - q.time.toNat
    let far := 1000 * max 1 (q.ptpctl.toNat / 2 ^ 32 % 2 ^ 16) < off.natAbs
    let found := s.trust.staged.getD b.image
    let ordered := (List.range 20).flatMap fun i => b.parts.filter fun x => x.id == i
    let good := bothOk found b.imageEd b.imageMl = true ∧ Config.minVersion ≤ b.version
    let fresh := fun (t : State) => t.issuing = none ∧ t.inputs = [] ∧ t.trust.unused ∧ t.trust.evidence = s.trust.evidence ∧
      t.chip.device = (if 1 ≤ b.device.toNat ∧ b.device.toNat ≤ 0x900 then b.device else c.device) ∧ t.chip.liveDies = b.live ∧ t.chip.ops = [] ∧ t.chip.records = [] ∧ t.chip.graphs = [] ∧
      (∀ r ∈ t.chip.reqs, r.origin = .launch) ∧ t.trust.staged = none
    let recovers := fun (t : State) => t.trust.recovery = true ∧ t.chip.parts = [] ∧ t.chip.threads = [] ∧ t.chip.reqs = [] ∧
      t.trust.meas[3] = 0 ∧ t.trust.meas[4] = 0
    let measures := fun (t : State) => t.trust.image = found ∧ t.trust.meas[0] = extendMeas 0 b.rom ∧ t.trust.meas[1] = extendMeas 0 found ∧
      t.trust.meas[2] = extendMeas 0 (BitVec.ofNat 8 b.live.toNat :: b.found ++ b.ports.flatMap (bytesOfNat 8))
    (q.ptpctl.toNat % 4 = 1 ∨ q.ptpctl.toNat % 4 = 2 → ∃ t, exec (.ptpUpdate p sample) s = .next t ∧ t.chip.mem = c.mem ∧
      ((∀ e ∈ c.parts, e.2.state ≠ .quiescing) → t.chip.threads = c.threads) ∧
      (t.chip.part p).time = (if far then sample else q.time) ∧ (t.chip.part p).slew = (if far then 0 else off) ∧
      ((t.chip.part p).ptpLock = true ↔ far ∨ off.natAbs ≤ 100)) ∧
    (q.ptpctl.toNat % 4 = 0 ∨ q.ptpctl.toNat % 4 = 3 → exec (.ptpUpdate p sample) s = .next s) ∧
    (∀ h : die < 8, exec (.dieWake die) s = .next (s.put { c with dieState := c.dieState.set die 0 }) ∧
      ((∀ e ∈ c.threads, e.2.live = true → coreOf e.1 / 64 ≠ die) → (∀ r ∈ c.records, c.waitsFor r die = false) →
        c.launchPending die = false →
        exec (.dieStateEntry die) s = .next (s.put { c with dieState := c.dieState.set die (max c.dieState[die] (c.deepest die)) })) ∧
      (c.dieIdle die = false → exec (.dieStateEntry die) s = .next s)) ∧
    exec (.firmwareStage image) s = .next { s with trust := { s.trust with staged := some image } } ∧
    (∃ t, exec (.packageReset b) s = .next t ∧ fresh t ∧ (¬good → recovers t ∧ t.trust.meas = Vector.replicate 8 0) ∧
      (good → measures t ∧
        (bothOk b.config b.configEd b.configMl = false → recovers t) ∧
        (bothOk b.config b.configEd b.configMl = true → t.trust.recovery = false ∧ t.trust.cxlOpen = true ∧
          t.trust.meas[3] = extendMeas 0 b.config ∧ t.trust.meas[4] = (ordered.map PartSpec.supervisor).foldl extendMeas 0 ∧
          ∀ x, b.parts = [x] → x.id < 20 →
            let layout : Layout := { groups := x.groups, il := x.il, nb := x.nb, vtshare := x.vtshare }
            (c.restart b).layoutBad [x.id] layout = false →
            (t.chip.part x.id).state = .running ∧ (t.chip.part x.id).layout = layout ∧ (t.chip.part x.id).hearth = x.hearth ∧
            t.chip.thread (t.chip.supervisor x.id) = bootThread x c.tick ∧
            t.chip.mem = (c.restart b).mem.setBytes x.loadAt x.supervisor ∧
            ∀ f, b.firmware = [f] → f.part = x.id → coreOf f.context ∈ t.chip.partCores x.id → f.context ≠ t.chip.supervisor x.id →
              let u := t.chip.thread f.context
              u.live = true ∧ u.level = .pkg ∧ u.part = x.id ∧ u.asid = f.asid ∧ u.pc = f.entry))) ∧
    (s.trust.recovery = false → ∃ t, exec (.evidenceRequest nonce mask) s = .next t ∧ t.chip = c ∧ t.trust.meas = s.trust.meas ∧
      ∃ body sigs, t.trust.evidence = s.trust.evidence ++ [body ++ sigs] ∧
        body = bytesOfNat 8 (1 + 2 ^ 16 * c.device.toNat) ++ bytesOfNat 8 (c.part 0).time.toNat ++ bytesOfNat 32 nonce.toNat ++
          bytesOfNat 8 mask.toNat ++ ((List.finRange 8).filter fun i => mask.getLsbD i.val).flatMap fun i =>
            bytesOfNat 64 s.trust.meas[i].toNat) ∧
    (s.trust.recovery = true → exec (.evidenceRequest nonce mask) s = .next s)

/-! ### The step, the encoding and the machine as a whole -/

/-- R46, R47, R258, R421: where the four bytes at the pc of the thread at its issue are there for a fetch, the step runs the
instruction that they decode to, or NOT_AN_INSTRUCTION where they decode to none, in the state with that thread and word at issue:
no context, byte, request or operation is changed by the fetch, and nothing is at issue after it. A fetch that brings no word
leaves the state that it leaves, and a word kept from an earlier fetch is used once. With nothing at issue the step is the
happening that comes next. It rests on the model's choices of log 3, log 57, log 58. -/
def Obligations.StepRunsDecoded : Prop :=
  ∀ (s : State) (n : Nat),
    let c := s.chip
    let me := c.thread n
    let fetched := fun (u : State) => u.chip.cur = n ∧ u.issuing = none ∧ u.inputs = s.inputs ∧ u.trust = s.trust ∧
      u.chip.mem = c.mem ∧ u.chip.ops = c.ops ∧ u.chip.reqs = c.reqs ∧ u.chip.parts = c.parts
    (s.issuing = some n →
      (∀ keys page, me.fetched = none → c.access (coreOf n) me.part me.asid me.level .fetch me.pc 4 = .ok keys page →
        c.walkHeld (coreOf n) me.part me.asid [(me.pc, 4)] = [] → c.poisoned keys = false → c.hostHolds keys true = false →
        (∀ a ∈ keys, c.hostOnly a = false) → ∃ u : State, fetched u ∧ u.chip.threads = c.threads ∧ bytesOfWord u.chip.insn = keys.map c.mem.byte ∧
          (∀ i rest, decode (keys.map c.mem.byte) = .ok (i, rest) → step s = exec i u) ∧
          (∀ e, decode (keys.map c.mem.byte) = .error e → step s = exec (.notAnInstruction u.chip.insn) u)) ∧
      (∀ w, me.fetched = some w → ∃ u : State, fetched u ∧ u.chip.insn = w ∧
        (∀ m, u.chip.thread m = if m = n then { me with fetched := none } else c.thread m) ∧
        (∀ i, decodeWord w = .ok i → step s = exec i u) ∧ ∀ e, decodeWord w = .error e → step s = exec (.notAnInstruction w) u) ∧
      ∀ u, s.fetch n = (none, u) → step s = .next u) ∧
    (s.issuing = none → step s = match s.nextHappening with
      | some h => h.run s.advanceTick
      | none => .next s.advanceTick)

/-- Words that the specification works out decode to the instructions that they stand for. -/
def Obligations.DecodedWords : Prop :=
  decodeWord 0x8360D000 = .ok (.add true (some 6) (.q 1) (.n 4) false) ∧
  decodeWord 0x1DD07FFC = .ok (.br false .nz (.n 13) (.q 0) 0xFFC) ∧
  decodeWord 0x300001D3 = .ok (.fncReg false (.q 0) (.q 0) true 6 .domain) ∧
  decodeWord 0x25C96008 = .ok (.ld false (some 12) (.n 2) .d64 8) ∧
  decodeWord 0xAC008030 = .ok (.amoAdd true none (.q 1) (.q 0) .w64 .rlx .die) ∧
  decodeWord 0x35C07010 = .ok (.fadd false (some 12) (.q 0) (.n 12) .rne .f32) ∧
  decodeWord 0x370A6403 = .ok (.vfma false 4 1 2 3 .f32 0 false) ∧
  decodeWord 0x3C5C5403 = .ok (.vcmp false 1 3 4 .lt .s32 0 false) ∧
  decodeWord 0x416D8060 = .ok (.tld false (.n 6) (.n 11) 1 true false) ∧
  decodeWord 0x439D15A5 = .ok (.mrd false (.n 9) (.n 10) 6 true 5) ∧
  decodeWord 0xC5DB0C60 = .ok (.cpyd true (.n 13) (.n 6) 1 true) ∧
  decodeWord 0xC72E8400 = .ok (.spawnp true (.n 2) (.n 13)) ∧
  decodeWord 0x4A0DC140 = .ok (.ctlwr false (.n 11) .slottab)

/-- R46, R49, R52: a word decodes to an instruction exactly where it is the word of that well-formed instruction: no operand bit is
dropped, no reserved field is overlooked, and no word has two readings; the four bytes of it at the head of a list decode so, and
the rest is what follows. -/
def Obligations.DecodeEncode : Prop :=
  ∀ (w : IWord) (i : Instr), (decodeWord w = .ok i ↔ i.wf = true ∧ encode i = some w) ∧
    ∀ rest, decodeWord w = .ok i → decode (bytesOfWord w ++ rest) = .ok (i, rest)

/-- The model's own promise: no row of the table is refused, and the one fault is that of a context without a thread; a step whose
issuing context holds a thread answers a next state. It rests on the model's choices of log 11, log 12. -/
def Obligations.NeverStops : Prop :=
  (∀ (i : Instr) (s : State), (∃ t, exec i s = .next t) ∨ exec i s = .fault .idleContext ∧ s.me.live = false) ∧
  ∀ s : State, (∀ n, s.issuing = some n → (s.chip.thread n).live = true) → ∃ t, step s = .next t

/-- R399, R418: right after reset no partition is defined, no context holds a thread, nothing is in flight or waits, every counter is
0, no bind is set, no byte is listed in memory, whose form is canonical, and every measurement is 0. It rests on the model's choices
of log 1, log 2. -/
def Obligations.ResetState : Prop :=
  let c := State.reset.chip
  (∀ p, (c.part p).state = .undefined ∧ (c.part p).time = 0 ∧ (c.part p).trapQueue = [] ∧ (c.part p).faults = []) ∧
  (∀ n, (c.thread n).live = false) ∧
  (∀ k, (c.core k).cc = Vector.replicate 16 0 ∧ (c.core k).mxc = Vector.replicate 10 0 ∧ (c.core k).bind = none) ∧
  c.ops = [] ∧ c.reqs = [] ∧ c.records = [] ∧ c.graphs = [] ∧ c.entries = [] ∧ c.cellar = [] ∧ c.mem = [] ∧ c.mem.wf = true ∧
  State.reset.trust.meas = Vector.replicate 8 0 ∧ State.reset.trust.unused ∧ State.reset.issuing = none ∧ State.reset.inputs = []

/-- R418: a step leaves each measurement register as it is or extended, any number of times, unless it is a package reset, after
which MEAS0 to MEAS4 hold the extensions of zero by the ROM, the image, the devices, the configuration and each supervisor in
partition order, as far as the boot came, and else zero. MEAS5 to MEAS7 stay zero. It rests on the model's choices of log 8, log 44,
log 74. -/
def Obligations.MeasurementsOnlyExtend : Prop :=
  ∀ (s t : State), step s = .next t →
    (s.trust.unused → t.trust.unused) ∧
    ((∀ i : Fin 8, Extended s.trust.meas[i] t.trust.meas[i]) ∨
      ∃ b, s.issuing = none ∧ s.nextHappening = some (.input (.reset b)) ∧ t.trust.unused ∧
        let found := s.trust.staged.getD b.image
        if bothOk found b.imageEd b.imageMl = true ∧ Config.minVersion ≤ b.version then
          let verified := bothOk b.config b.configEd b.configMl
          t.trust.meas[0] = extendMeas 0 b.rom ∧ t.trust.meas[1] = extendMeas 0 found ∧
          t.trust.meas[2] = extendMeas 0 (BitVec.ofNat 8 b.live.toNat :: b.found ++ b.ports.flatMap (bytesOfNat 8)) ∧
          t.trust.meas[3] = (if verified then extendMeas 0 b.config else 0) ∧
          t.trust.meas[4] = if verified then (((List.range 20).flatMap fun i => b.parts.filter fun x => x.id == i).map
            PartSpec.supervisor).foldl extendMeas 0 else 0
        else ∀ i : Fin 8, t.trust.meas[i] = 0)
end

