-- ==== Sys2Proof/Laws/Encoding.lean ====
section
/-!
SUPPORT. The fields of a packed word, and that each code of a field reads as what it was written for.
-/

namespace Sys2Proof

theorem ofBool_beq (b : Bool) : (BitVec.ofBool b == 1#1) = b := by cases b <;> rfl

/-- A cut above the last part of a word. -/
theorem cut_hi {m n : Nat} (x : BitVec m) (y : BitVec n) {s l : Nat} (h : n ≤ s) :
    (x ++ y).extractLsb' s l = x.extractLsb' (s - n) l := by
  ext i hi
  simp only [BitVec.getElem_extractLsb', BitVec.getLsbD_append]
  rw [if_neg (by omega)]
  congr 1
  omega

/-- A cut within the last part of a word. -/
theorem cut_lo {m n : Nat} (x : BitVec m) (y : BitVec n) {s l : Nat} (h : s + l ≤ n) :
    (x ++ y).extractLsb' s l = y.extractLsb' s l := by
  ext i hi
  simp only [BitVec.getElem_extractLsb', BitVec.getLsbD_append]
  rw [if_pos (by omega)]

theorem cut_all {n : Nat} (x : BitVec n) : x.extractLsb' 0 n = x := by simp

/-! ### Formats -/

@[simp] theorem packR_major (sw : Bool) (mj : BitVec 6) (d : BitVec 5) (a : BitVec 5) (b : BitVec 5) (f : BitVec 10) :
    (packR sw mj d a b f).extractLsb' 25 6 = mj := by
  change @BitVec.extractLsb' (1+6+5+5+5+10) 25 6 (BitVec.ofBool sw ++ mj ++ d ++ a ++ b ++ f) = mj
  simp (disch := decide) only [cut_hi, cut_lo, Nat.reduceSub, cut_all]

@[simp] theorem viaR_packR (sw : Bool) (mj : BitVec 6) (d : BitVec 5) (a : BitVec 5) (b : BitVec 5) (f : BitVec 10) (g) :
    viaR (packR sw mj d a b f) g = g sw d a b f := by
  change g (@BitVec.extractLsb' (1+6+5+5+5+10) 31 1 (BitVec.ofBool sw ++ mj ++ d ++ a ++ b ++ f) == 1#1)
    (@BitVec.extractLsb' (1+6+5+5+5+10) 20 5 (BitVec.ofBool sw ++ mj ++ d ++ a ++ b ++ f))
    (@BitVec.extractLsb' (1+6+5+5+5+10) 15 5 (BitVec.ofBool sw ++ mj ++ d ++ a ++ b ++ f))
    (@BitVec.extractLsb' (1+6+5+5+5+10) 10 5 (BitVec.ofBool sw ++ mj ++ d ++ a ++ b ++ f))
    (@BitVec.extractLsb' (1+6+5+5+5+10) 0 10 (BitVec.ofBool sw ++ mj ++ d ++ a ++ b ++ f)) = _
  simp (disch := decide) only [cut_hi, cut_lo, Nat.reduceSub, cut_all, ofBool_beq]

@[simp] theorem packI_major (sw : Bool) (mj : BitVec 6) (d : BitVec 5) (a : BitVec 5) (i : BitVec 15) :
    (packI sw mj d a i).extractLsb' 25 6 = mj := by
  change @BitVec.extractLsb' (1+6+5+5+15) 25 6 (BitVec.ofBool sw ++ mj ++ d ++ a ++ i) = mj
  simp (disch := decide) only [cut_hi, cut_lo, Nat.reduceSub, cut_all]

@[simp] theorem viaI_packI (sw : Bool) (mj : BitVec 6) (d : BitVec 5) (a : BitVec 5) (i : BitVec 15) (g) :
    viaI (packI sw mj d a i) g = g sw d a i := by
  change g (@BitVec.extractLsb' (1+6+5+5+15) 31 1 (BitVec.ofBool sw ++ mj ++ d ++ a ++ i) == 1#1)
    (@BitVec.extractLsb' (1+6+5+5+15) 20 5 (BitVec.ofBool sw ++ mj ++ d ++ a ++ i))
    (@BitVec.extractLsb' (1+6+5+5+15) 15 5 (BitVec.ofBool sw ++ mj ++ d ++ a ++ i))
    (@BitVec.extractLsb' (1+6+5+5+15) 0 15 (BitVec.ofBool sw ++ mj ++ d ++ a ++ i)) = _
  simp (disch := decide) only [cut_hi, cut_lo, Nat.reduceSub, cut_all, ofBool_beq]

@[simp] theorem packL_major (sw : Bool) (mj : BitVec 6) (d : BitVec 5) (i : BitVec 20) :
    (packL sw mj d i).extractLsb' 25 6 = mj := by
  change @BitVec.extractLsb' (1+6+5+20) 25 6 (BitVec.ofBool sw ++ mj ++ d ++ i) = mj
  simp (disch := decide) only [cut_hi, cut_lo, Nat.reduceSub, cut_all]

@[simp] theorem viaL_packL (sw : Bool) (mj : BitVec 6) (d : BitVec 5) (i : BitVec 20) (g) :
    viaL (packL sw mj d i) g = g sw d i := by
  change g (@BitVec.extractLsb' (1+6+5+20) 31 1 (BitVec.ofBool sw ++ mj ++ d ++ i) == 1#1)
    (@BitVec.extractLsb' (1+6+5+20) 20 5 (BitVec.ofBool sw ++ mj ++ d ++ i))
    (@BitVec.extractLsb' (1+6+5+20) 0 20 (BitVec.ofBool sw ++ mj ++ d ++ i)) = _
  simp (disch := decide) only [cut_hi, cut_lo, Nat.reduceSub, cut_all, ofBool_beq]

@[simp] theorem packM_major (sw : Bool) (mj : BitVec 6) (d : BitVec 5) (a : BitVec 5) (wd : BitVec 3) (i : BitVec 12) :
    (packM sw mj d a wd i).extractLsb' 25 6 = mj := by
  change @BitVec.extractLsb' (1+6+5+5+3+12) 25 6 (BitVec.ofBool sw ++ mj ++ d ++ a ++ wd ++ i) = mj
  simp (disch := decide) only [cut_hi, cut_lo, Nat.reduceSub, cut_all]

@[simp] theorem viaM_packM (sw : Bool) (mj : BitVec 6) (d : BitVec 5) (a : BitVec 5) (wd : BitVec 3) (i : BitVec 12) (g) :
    viaM (packM sw mj d a wd i) g = g sw d a wd i := by
  change g (@BitVec.extractLsb' (1+6+5+5+3+12) 31 1 (BitVec.ofBool sw ++ mj ++ d ++ a ++ wd ++ i) == 1#1)
    (@BitVec.extractLsb' (1+6+5+5+3+12) 20 5 (BitVec.ofBool sw ++ mj ++ d ++ a ++ wd ++ i))
    (@BitVec.extractLsb' (1+6+5+5+3+12) 15 5 (BitVec.ofBool sw ++ mj ++ d ++ a ++ wd ++ i))
    (@BitVec.extractLsb' (1+6+5+5+3+12) 12 3 (BitVec.ofBool sw ++ mj ++ d ++ a ++ wd ++ i))
    (@BitVec.extractLsb' (1+6+5+5+3+12) 0 12 (BitVec.ofBool sw ++ mj ++ d ++ a ++ wd ++ i)) = _
  simp (disch := decide) only [cut_hi, cut_lo, Nat.reduceSub, cut_all, ofBool_beq]

@[simp] theorem packJ_major (sw : Bool) (mj : BitVec 6) (i : BitVec 25) :
    (packJ sw mj i).extractLsb' 25 6 = mj := by
  change @BitVec.extractLsb' (1+6+25) 25 6 (BitVec.ofBool sw ++ mj ++ i) = mj
  simp (disch := decide) only [cut_hi, cut_lo, Nat.reduceSub, cut_all]

@[simp] theorem viaJ_packJ (sw : Bool) (mj : BitVec 6) (i : BitVec 25) (g) :
    viaJ (packJ sw mj i) g = g sw i := by
  change g (@BitVec.extractLsb' (1+6+25) 31 1 (BitVec.ofBool sw ++ mj ++ i) == 1#1)
    (@BitVec.extractLsb' (1+6+25) 0 25 (BitVec.ofBool sw ++ mj ++ i)) = _
  simp (disch := decide) only [cut_hi, cut_lo, Nat.reduceSub, cut_all, ofBool_beq]

@[simp] theorem packV_major (sw : Bool) (mj : BitVec 6) (vd : BitVec 3) (va : BitVec 3) (vb : BitVec 3) (vc : BitVec 3) (e : BitVec 3) (m : BitVec 2) (q : BitVec 1) (f : BitVec 7) :
    (packV sw mj vd va vb vc e m q f).extractLsb' 25 6 = mj := by
  change @BitVec.extractLsb' (1+6+3+3+3+3+3+2+1+7) 25 6 (BitVec.ofBool sw ++ mj ++ vd ++ va ++ vb ++ vc ++ e ++ m ++ q ++ f) = mj
  simp (disch := decide) only [cut_hi, cut_lo, Nat.reduceSub, cut_all]

@[simp] theorem viaV_packV (sw : Bool) (mj : BitVec 6) (vd : BitVec 3) (va : BitVec 3) (vb : BitVec 3) (vc : BitVec 3) (e : BitVec 3) (m : BitVec 2) (q : BitVec 1) (f : BitVec 7) (g) :
    viaV (packV sw mj vd va vb vc e m q f) g = g sw vd va vb vc e m q f := by
  change g (@BitVec.extractLsb' (1+6+3+3+3+3+3+2+1+7) 31 1 (BitVec.ofBool sw ++ mj ++ vd ++ va ++ vb ++ vc ++ e ++ m ++ q ++ f) == 1#1)
    (@BitVec.extractLsb' (1+6+3+3+3+3+3+2+1+7) 22 3 (BitVec.ofBool sw ++ mj ++ vd ++ va ++ vb ++ vc ++ e ++ m ++ q ++ f))
    (@BitVec.extractLsb' (1+6+3+3+3+3+3+2+1+7) 19 3 (BitVec.ofBool sw ++ mj ++ vd ++ va ++ vb ++ vc ++ e ++ m ++ q ++ f))
    (@BitVec.extractLsb' (1+6+3+3+3+3+3+2+1+7) 16 3 (BitVec.ofBool sw ++ mj ++ vd ++ va ++ vb ++ vc ++ e ++ m ++ q ++ f))
    (@BitVec.extractLsb' (1+6+3+3+3+3+3+2+1+7) 13 3 (BitVec.ofBool sw ++ mj ++ vd ++ va ++ vb ++ vc ++ e ++ m ++ q ++ f))
    (@BitVec.extractLsb' (1+6+3+3+3+3+3+2+1+7) 10 3 (BitVec.ofBool sw ++ mj ++ vd ++ va ++ vb ++ vc ++ e ++ m ++ q ++ f))
    (@BitVec.extractLsb' (1+6+3+3+3+3+3+2+1+7) 8 2 (BitVec.ofBool sw ++ mj ++ vd ++ va ++ vb ++ vc ++ e ++ m ++ q ++ f))
    (@BitVec.extractLsb' (1+6+3+3+3+3+3+2+1+7) 7 1 (BitVec.ofBool sw ++ mj ++ vd ++ va ++ vb ++ vc ++ e ++ m ++ q ++ f))
    (@BitVec.extractLsb' (1+6+3+3+3+3+3+2+1+7) 0 7 (BitVec.ofBool sw ++ mj ++ vd ++ va ++ vb ++ vc ++ e ++ m ++ q ++ f)) = _
  simp (disch := decide) only [cut_hi, cut_lo, Nat.reduceSub, cut_all, ofBool_beq]

@[simp] theorem packVS_major (sw : Bool) (mj : BitVec 6) (vd : BitVec 3) (va : BitVec 3) (s : BitVec 5) (z : BitVec 1) (e : BitVec 3) (m : BitVec 2) (q : BitVec 1) (f : BitVec 7) :
    (packVS sw mj vd va s z e m q f).extractLsb' 25 6 = mj := by
  change @BitVec.extractLsb' (1+6+3+3+5+1+3+2+1+7) 25 6 (BitVec.ofBool sw ++ mj ++ vd ++ va ++ s ++ z ++ e ++ m ++ q ++ f) = mj
  simp (disch := decide) only [cut_hi, cut_lo, Nat.reduceSub, cut_all]

@[simp] theorem viaVS_packVS (sw : Bool) (mj : BitVec 6) (vd : BitVec 3) (va : BitVec 3) (s : BitVec 5) (z : BitVec 1) (e : BitVec 3) (m : BitVec 2) (q : BitVec 1) (f : BitVec 7) (g) :
    viaVS (packVS sw mj vd va s z e m q f) g = g sw vd va s z e m q f := by
  change g (@BitVec.extractLsb' (1+6+3+3+5+1+3+2+1+7) 31 1 (BitVec.ofBool sw ++ mj ++ vd ++ va ++ s ++ z ++ e ++ m ++ q ++ f) == 1#1)
    (@BitVec.extractLsb' (1+6+3+3+5+1+3+2+1+7) 22 3 (BitVec.ofBool sw ++ mj ++ vd ++ va ++ s ++ z ++ e ++ m ++ q ++ f))
    (@BitVec.extractLsb' (1+6+3+3+5+1+3+2+1+7) 19 3 (BitVec.ofBool sw ++ mj ++ vd ++ va ++ s ++ z ++ e ++ m ++ q ++ f))
    (@BitVec.extractLsb' (1+6+3+3+5+1+3+2+1+7) 14 5 (BitVec.ofBool sw ++ mj ++ vd ++ va ++ s ++ z ++ e ++ m ++ q ++ f))
    (@BitVec.extractLsb' (1+6+3+3+5+1+3+2+1+7) 13 1 (BitVec.ofBool sw ++ mj ++ vd ++ va ++ s ++ z ++ e ++ m ++ q ++ f))
    (@BitVec.extractLsb' (1+6+3+3+5+1+3+2+1+7) 10 3 (BitVec.ofBool sw ++ mj ++ vd ++ va ++ s ++ z ++ e ++ m ++ q ++ f))
    (@BitVec.extractLsb' (1+6+3+3+5+1+3+2+1+7) 8 2 (BitVec.ofBool sw ++ mj ++ vd ++ va ++ s ++ z ++ e ++ m ++ q ++ f))
    (@BitVec.extractLsb' (1+6+3+3+5+1+3+2+1+7) 7 1 (BitVec.ofBool sw ++ mj ++ vd ++ va ++ s ++ z ++ e ++ m ++ q ++ f))
    (@BitVec.extractLsb' (1+6+3+3+5+1+3+2+1+7) 0 7 (BitVec.ofBool sw ++ mj ++ vd ++ va ++ s ++ z ++ e ++ m ++ q ++ f)) = _
  simp (disch := decide) only [cut_hi, cut_lo, Nat.reduceSub, cut_all, ofBool_beq]

@[simp] theorem packX_major (sw : Bool) (mj : BitVec 6) (a : BitVec 5) (b : BitVec 5) (u : BitVec 5) (k : BitVec 4) (t : BitVec 1) (y : BitVec 5) :
    (packX sw mj a b u k t y).extractLsb' 25 6 = mj := by
  change @BitVec.extractLsb' (1+6+5+5+5+4+1+5) 25 6 (BitVec.ofBool sw ++ mj ++ a ++ b ++ u ++ k ++ t ++ y) = mj
  simp (disch := decide) only [cut_hi, cut_lo, Nat.reduceSub, cut_all]

@[simp] theorem viaX_packX (sw : Bool) (mj : BitVec 6) (a : BitVec 5) (b : BitVec 5) (u : BitVec 5) (k : BitVec 4) (t : BitVec 1) (y : BitVec 5) (g) :
    viaX (packX sw mj a b u k t y) g = g sw a b k t y u := by
  change g (@BitVec.extractLsb' (1+6+5+5+5+4+1+5) 31 1 (BitVec.ofBool sw ++ mj ++ a ++ b ++ u ++ k ++ t ++ y) == 1#1)
    (@BitVec.extractLsb' (1+6+5+5+5+4+1+5) 20 5 (BitVec.ofBool sw ++ mj ++ a ++ b ++ u ++ k ++ t ++ y))
    (@BitVec.extractLsb' (1+6+5+5+5+4+1+5) 15 5 (BitVec.ofBool sw ++ mj ++ a ++ b ++ u ++ k ++ t ++ y))
    (@BitVec.extractLsb' (1+6+5+5+5+4+1+5) 6 4 (BitVec.ofBool sw ++ mj ++ a ++ b ++ u ++ k ++ t ++ y))
    (@BitVec.extractLsb' (1+6+5+5+5+4+1+5) 5 1 (BitVec.ofBool sw ++ mj ++ a ++ b ++ u ++ k ++ t ++ y))
    (@BitVec.extractLsb' (1+6+5+5+5+4+1+5) 0 5 (BitVec.ofBool sw ++ mj ++ a ++ b ++ u ++ k ++ t ++ y))
    (@BitVec.extractLsb' (1+6+5+5+5+4+1+5) 10 5 (BitVec.ofBool sw ++ mj ++ a ++ b ++ u ++ k ++ t ++ y)) = _
  simp (disch := decide) only [cut_hi, cut_lo, Nat.reduceSub, cut_all, ofBool_beq]

@[simp] theorem packC_major (sw : Bool) (mj : BitVec 6) (d : BitVec 5) (a : BitVec 5) (wr : BitVec 1) (z : BitVec 2) (i : BitVec 12) :
    (packC sw mj d a wr z i).extractLsb' 25 6 = mj := by
  change @BitVec.extractLsb' (1+6+5+5+1+2+12) 25 6 (BitVec.ofBool sw ++ mj ++ d ++ a ++ wr ++ z ++ i) = mj
  simp (disch := decide) only [cut_hi, cut_lo, Nat.reduceSub, cut_all]

@[simp] theorem viaC_packC (sw : Bool) (mj : BitVec 6) (d : BitVec 5) (a : BitVec 5) (wr : BitVec 1) (z : BitVec 2) (i : BitVec 12) (g) :
    viaC (packC sw mj d a wr z i) g = g sw d a wr z i := by
  change g (@BitVec.extractLsb' (1+6+5+5+1+2+12) 31 1 (BitVec.ofBool sw ++ mj ++ d ++ a ++ wr ++ z ++ i) == 1#1)
    (@BitVec.extractLsb' (1+6+5+5+1+2+12) 20 5 (BitVec.ofBool sw ++ mj ++ d ++ a ++ wr ++ z ++ i))
    (@BitVec.extractLsb' (1+6+5+5+1+2+12) 15 5 (BitVec.ofBool sw ++ mj ++ d ++ a ++ wr ++ z ++ i))
    (@BitVec.extractLsb' (1+6+5+5+1+2+12) 14 1 (BitVec.ofBool sw ++ mj ++ d ++ a ++ wr ++ z ++ i))
    (@BitVec.extractLsb' (1+6+5+5+1+2+12) 12 2 (BitVec.ofBool sw ++ mj ++ d ++ a ++ wr ++ z ++ i))
    (@BitVec.extractLsb' (1+6+5+5+1+2+12) 0 12 (BitVec.ofBool sw ++ mj ++ d ++ a ++ wr ++ z ++ i)) = _
  simp (disch := decide) only [cut_hi, cut_lo, Nat.reduceSub, cut_all, ofBool_beq]

@[simp] theorem packV_funct (sw : Bool) (mj : BitVec 6) (vd : BitVec 3) (va : BitVec 3) (vb : BitVec 3) (vc : BitVec 3) (e : BitVec 3) (m : BitVec 2) (q : BitVec 1) (f : BitVec 7) :
    (packV sw mj vd va vb vc e m q f).extractLsb' 0 7 = f := by
  change @BitVec.extractLsb' (1+6+3+3+3+3+3+2+1+7) 0 7 (BitVec.ofBool sw ++ mj ++ vd ++ va ++ vb ++ vc ++ e ++ m ++ q ++ f) = f
  simp (disch := decide) only [cut_lo, cut_all]

@[simp] theorem packVS_funct (sw : Bool) (mj : BitVec 6) (vd : BitVec 3) (va : BitVec 3) (s : BitVec 5) (z : BitVec 1) (e : BitVec 3) (m : BitVec 2) (q : BitVec 1) (f : BitVec 7) :
    (packVS sw mj vd va s z e m q f).extractLsb' 0 7 = f := by
  change @BitVec.extractLsb' (1+6+3+3+5+1+3+2+1+7) 0 7 (BitVec.ofBool sw ++ mj ++ vd ++ va ++ s ++ z ++ e ++ m ++ q ++ f) = f
  simp (disch := decide) only [cut_lo, cut_all]

/-! ### Codes -/

@[simp] theorem Src.dec_enc (x : Src) : Src.dec x.enc = x := by
  cases x with
  | q i => revert i; decide
  | n i => revert i; decide

@[simp] theorem decDest_encDest (d : Dest) : decDest (encDest d) = .ok d := by
  cases d with
  | none => rfl
  | some i => revert i; decide

@[simp] theorem EType.dec_enc (x : EType) : EType.dec x.enc = x := by cases x <;> rfl

@[simp] theorem Cond.dec_enc (x : Cond) : Cond.dec x.enc = x := by cases x <;> rfl

@[simp] theorem Order.dec_enc (x : Order) : Order.dec x.enc = x := by cases x <;> rfl

@[simp] theorem Prec.dec_enc (x : Prec) : Prec.dec x.enc = x := by cases x <;> rfl

@[simp] theorem FPred.dec_enc (x : FPred) : FPred.dec x.enc = x := by cases x <;> rfl

@[simp] theorem CvtKind.dec_enc (x : CvtKind) : CvtKind.dec x.enc = x := by cases x <;> rfl

@[simp] theorem VCond.dec_enc (x : VCond) : VCond.dec x.enc = x := by cases x <;> rfl

@[simp] theorem LdWidth.dec_enc (x : LdWidth) : LdWidth.dec x.enc = .ok x := by cases x <;> rfl

@[simp] theorem StWidth.dec_enc (x : StWidth) : StWidth.dec x.enc = .ok x := by cases x <;> rfl

@[simp] theorem AmoWidth.dec_enc (x : AmoWidth) : AmoWidth.dec x.enc = .ok x := by cases x <;> rfl

@[simp] theorem AmoScope.dec_enc (x : AmoScope) : AmoScope.dec x.enc = .ok x := by cases x <;> rfl

@[simp] theorem AgentScope.dec_enc (x : AgentScope) : AgentScope.dec x.enc = .ok x := by cases x <;> rfl

@[simp] theorem Rnd.dec_enc (x : Rnd) : Rnd.dec x.enc = .ok x := by cases x <;> rfl

@[simp] theorem RedOp.dec_enc (x : RedOp) : RedOp.dec x.enc = .ok x := by cases x <;> rfl

@[simp] theorem ScanOp.dec_enc (x : ScanOp) : ScanOp.dec x.enc = .ok x := by cases x <;> rfl

@[simp] theorem MskOp.dec_enc (x : MskOp) : MskOp.dec x.enc = .ok x := by cases x <;> rfl

@[simp] theorem Narrow.dec_enc (x : Narrow) : Narrow.dec x.enc = .ok x := by cases x <;> rfl

@[simp] theorem MRedOp.dec_enc (x : MRedOp) : MRedOp.dec x.enc = .ok x := by cases x <;> rfl

@[simp] theorem CReg.dec_enc (x : CReg) : CReg.dec x.enc = .ok x := by
  cases x with
  | mxc k => revert k; decide
  | cel k => revert k; decide
  | _ => rfl

/-! ### Majors: what the decoder does with a packed word -/

theorem decodeWord_00 (sw : Bool) (d : BitVec 5) (a : BitVec 5) (b : BitVec 5) (f : BitVec 10) :
    decodeWord (packR sw 0x00#6 d a b f) = (decSys) sw d a b f := by
  rw [decodeWord, packR_major]
  exact viaR_packR ..

theorem decodeWord_01 (sw : Bool) (d : BitVec 5) (a : BitVec 5) (b : BitVec 5) (f : BitVec 10) :
    decodeWord (packR sw 0x01#6 d a b f) = (decInt) sw d a b f := by
  rw [decodeWord, packR_major]
  exact viaR_packR ..

theorem decodeWord_02 (sw : Bool) (d : BitVec 5) (a : BitVec 5) (i : BitVec 15) :
    decodeWord (packI sw 0x02#6 d a i) = (fun sw fD fA fI => (decDest fD).bind fun d => .ok (.addi sw d (Src.dec fA) fI)) sw d a i := by
  rw [decodeWord, packI_major]
  exact viaI_packI ..

theorem decodeWord_03 (sw : Bool) (d : BitVec 5) (a : BitVec 5) (i : BitVec 15) :
    decodeWord (packI sw 0x03#6 d a i) = (fun sw fD fA fI => (decDest fD).bind fun d => .ok (.andi sw d (Src.dec fA) fI)) sw d a i := by
  rw [decodeWord, packI_major]
  exact viaI_packI ..

theorem decodeWord_04 (sw : Bool) (d : BitVec 5) (a : BitVec 5) (i : BitVec 15) :
    decodeWord (packI sw 0x04#6 d a i) = (fun sw fD fA fI => (decDest fD).bind fun d => .ok (.ori sw d (Src.dec fA) fI)) sw d a i := by
  rw [decodeWord, packI_major]
  exact viaI_packI ..

theorem decodeWord_05 (sw : Bool) (d : BitVec 5) (a : BitVec 5) (i : BitVec 15) :
    decodeWord (packI sw 0x05#6 d a i) = (fun sw fD fA fI => (decDest fD).bind fun d => .ok (.xori sw d (Src.dec fA) fI)) sw d a i := by
  rw [decodeWord, packI_major]
  exact viaI_packI ..

theorem decodeWord_06 (sw : Bool) (d : BitVec 5) (a : BitVec 5) (i : BitVec 15) :
    decodeWord (packI sw 0x06#6 d a i) = (fun sw fD fA fI => (decDest fD).bind fun d => decShift (.shli sw d (Src.dec fA)) fI) sw d a i := by
  rw [decodeWord, packI_major]
  exact viaI_packI ..

theorem decodeWord_07 (sw : Bool) (d : BitVec 5) (a : BitVec 5) (i : BitVec 15) :
    decodeWord (packI sw 0x07#6 d a i) = (fun sw fD fA fI => (decDest fD).bind fun d => decShift (.shri sw d (Src.dec fA)) fI) sw d a i := by
  rw [decodeWord, packI_major]
  exact viaI_packI ..

theorem decodeWord_08 (sw : Bool) (d : BitVec 5) (a : BitVec 5) (i : BitVec 15) :
    decodeWord (packI sw 0x08#6 d a i) = (fun sw fD fA fI => (decDest fD).bind fun d => decShift (.srai sw d (Src.dec fA)) fI) sw d a i := by
  rw [decodeWord, packI_major]
  exact viaI_packI ..

theorem decodeWord_09 (sw : Bool) (d : BitVec 5) (a : BitVec 5) (i : BitVec 15) :
    decodeWord (packI sw 0x09#6 d a i) = (fun sw fD fA fI => (decDest fD).bind fun d => .ok (.slti sw d (Src.dec fA) fI)) sw d a i := by
  rw [decodeWord, packI_major]
  exact viaI_packI ..

theorem decodeWord_0A (sw : Bool) (d : BitVec 5) (a : BitVec 5) (i : BitVec 15) :
    decodeWord (packI sw 0x0A#6 d a i) = (fun sw fD fA fI => (decDest fD).bind fun d => .ok (.sltiu sw d (Src.dec fA) fI)) sw d a i := by
  rw [decodeWord, packI_major]
  exact viaI_packI ..

theorem decodeWord_0B (sw : Bool) (d : BitVec 5) (i : BitVec 20) :
    decodeWord (packL sw 0x0B#6 d i) = (fun sw fD fI => (decDest fD).bind fun d => .ok (.ldi sw d fI)) sw d i := by
  rw [decodeWord, packL_major]
  exact viaL_packL ..

theorem decodeWord_0C (sw : Bool) (d : BitVec 5) (i : BitVec 20) :
    decodeWord (packL sw 0x0C#6 d i) = (fun sw fD fI => (decDest fD).bind fun d => .ok (.ldpc sw d fI)) sw d i := by
  rw [decodeWord, packL_major]
  exact viaL_packL ..

theorem decodeWord_0D (sw : Bool) (d : BitVec 5) (a : BitVec 5) (b : BitVec 5) (f : BitVec 10) :
    decodeWord (packR sw 0x0D#6 d a b f) = (decHnd) sw d a b f := by
  rw [decodeWord, packR_major]
  exact viaR_packR ..

theorem decodeWord_0E (sw : Bool) (d : BitVec 5) (a : BitVec 5) (wd : BitVec 3) (i : BitVec 12) :
    decodeWord (packM sw 0x0E#6 d a wd i) = (decBr) sw d a wd i := by
  rw [decodeWord, packM_major]
  exact viaM_packM ..

theorem decodeWord_0F (sw : Bool) (i : BitVec 25) :
    decodeWord (packJ sw 0x0F#6 i) = (fun sw fI => .ok (.j sw fI)) sw i := by
  rw [decodeWord, packJ_major]
  exact viaJ_packJ ..

theorem decodeWord_10 (sw : Bool) (i : BitVec 25) :
    decodeWord (packJ sw 0x10#6 i) = (fun sw fI => .ok (.call sw fI)) sw i := by
  rw [decodeWord, packJ_major]
  exact viaJ_packJ ..

theorem decodeWord_11 (sw : Bool) (d : BitVec 5) (a : BitVec 5) (b : BitVec 5) (f : BitVec 10) :
    decodeWord (packR sw 0x11#6 d a b f) = (decJr) sw d a b f := by
  rw [decodeWord, packR_major]
  exact viaR_packR ..

theorem decodeWord_12 (sw : Bool) (d : BitVec 5) (a : BitVec 5) (wd : BitVec 3) (i : BitVec 12) :
    decodeWord (packM sw 0x12#6 d a wd i) = (fun sw fD fA fW fI => (decDest fD).bind fun d => (LdWidth.dec fW).bind fun wd => .ok (.ld sw d (Src.dec fA) wd fI)) sw d a wd i := by
  rw [decodeWord, packM_major]
  exact viaM_packM ..

theorem decodeWord_13 (sw : Bool) (d : BitVec 5) (a : BitVec 5) (wd : BitVec 3) (i : BitVec 12) :
    decodeWord (packM sw 0x13#6 d a wd i) = (fun sw fD fA fW fI => (StWidth.dec fW).bind fun wd => .ok (.st sw (Src.dec fD) (Src.dec fA) wd fI)) sw d a wd i := by
  rw [decodeWord, packM_major]
  exact viaM_packM ..

theorem decodeWord_14 (sw : Bool) (d : BitVec 5) (a : BitVec 5) (wd : BitVec 3) (i : BitVec 12) :
    decodeWord (packM sw 0x14#6 d a wd i) = (fun sw fD fA fW fI => (decDest fD).bind fun d => (LdWidth.dec fW).bind fun wd => .ok (.ldl sw d (Src.dec fA) wd fI)) sw d a wd i := by
  rw [decodeWord, packM_major]
  exact viaM_packM ..

theorem decodeWord_15 (sw : Bool) (d : BitVec 5) (a : BitVec 5) (wd : BitVec 3) (i : BitVec 12) :
    decodeWord (packM sw 0x15#6 d a wd i) = (fun sw fD fA fW fI => (StWidth.dec fW).bind fun wd => .ok (.stl sw (Src.dec fD) (Src.dec fA) wd fI)) sw d a wd i := by
  rw [decodeWord, packM_major]
  exact viaM_packM ..

theorem decodeWord_16 (sw : Bool) (d : BitVec 5) (a : BitVec 5) (b : BitVec 5) (f : BitVec 10) :
    decodeWord (packR sw 0x16#6 d a b f) = (decAmo) sw d a b f := by
  rw [decodeWord, packR_major]
  exact viaR_packR ..

theorem decodeWord_17 (sw : Bool) (d : BitVec 5) (a : BitVec 5) (b : BitVec 5) (f : BitVec 10) :
    decodeWord (packR sw 0x17#6 d a b f) = (decCas) sw d a b f := by
  rw [decodeWord, packR_major]
  exact viaR_packR ..

theorem decodeWord_18 (sw : Bool) (d : BitVec 5) (a : BitVec 5) (b : BitVec 5) (f : BitVec 10) :
    decodeWord (packR sw 0x18#6 d a b f) = (decFnc) sw d a b f := by
  rw [decodeWord, packR_major]
  exact viaR_packR ..

theorem decodeWord_19 (sw : Bool) (d : BitVec 5) (a : BitVec 5) (b : BitVec 5) (f : BitVec 10) :
    decodeWord (packR sw 0x19#6 d a b f) = (decMemx) sw d a b f := by
  rw [decodeWord, packR_major]
  exact viaR_packR ..

theorem decodeWord_1A (sw : Bool) (d : BitVec 5) (a : BitVec 5) (b : BitVec 5) (f : BitVec 10) :
    decodeWord (packR sw 0x1A#6 d a b f) = (decFp) sw d a b f := by
  rw [decodeWord, packR_major]
  exact viaR_packR ..

theorem decodeWord_1B (sw : Bool) (vd : BitVec 3) (va : BitVec 3) (vb : BitVec 3) (vc : BitVec 3) (e : BitVec 3) (m : BitVec 2) (q : BitVec 1) (f : BitVec 7) :
    decodeWord (packV sw 0x1B#6 vd va vb vc e m q f) = (decVfp) sw vd va vb vc e m q f := by
  rw [decodeWord, packV_major]
  exact viaV_packV ..

theorem decodeWord_1C (sw : Bool) (vd : BitVec 3) (va : BitVec 3) (vb : BitVec 3) (vc : BitVec 3) (e : BitVec 3) (m : BitVec 2) (q : BitVec 1) (f : BitVec 7) :
    decodeWord (packV sw 0x1C#6 vd va vb vc e m q f) = (decVint) sw vd va vb vc e m q f := by
  rw [decodeWord, packV_major]
  exact viaV_packV ..

theorem decodeWord_1D (sw : Bool) (vd : BitVec 3) (va : BitVec 3) (s : BitVec 5) (z : BitVec 1) (e : BitVec 3) (m : BitVec 2) (q : BitVec 1) (f : BitVec 7) :
    decodeWord (packVS sw 0x1D#6 vd va s z e m q f) = (decVmem) sw vd va s z e m q f := by
  rw [decodeWord, packVS_major]
  exact viaVS_packVS ..

theorem decodeWord_1EV (sw : Bool) (vd : BitVec 3) (va : BitVec 3) (vb : BitVec 3) (vc : BitVec 3) (e : BitVec 3) (m : BitVec 2) (q : BitVec 1) (f : BitVec 7) :
    decodeWord (packV sw 0x1E#6 vd va vb vc e m q f) = decVmisc (packV sw 0x1E#6 vd va vb vc e m q f) := by
  rw [decodeWord, packV_major]
  rfl

theorem decodeWord_1EVS (sw : Bool) (vd : BitVec 3) (va : BitVec 3) (s : BitVec 5) (z : BitVec 1) (e : BitVec 3) (m : BitVec 2) (q : BitVec 1) (f : BitVec 7) :
    decodeWord (packVS sw 0x1E#6 vd va s z e m q f) = decVmisc (packVS sw 0x1E#6 vd va s z e m q f) := by
  rw [decodeWord, packVS_major]
  rfl

theorem decodeWord_20 (sw : Bool) (a : BitVec 5) (b : BitVec 5) (u : BitVec 5) (k : BitVec 4) (t : BitVec 1) (y : BitVec 5) :
    decodeWord (packX sw 0x20#6 a b u k t y) = (decTile) sw a b k t y u := by
  rw [decodeWord, packX_major]
  exact viaX_packX ..

theorem decodeWord_21 (sw : Bool) (a : BitVec 5) (b : BitVec 5) (u : BitVec 5) (k : BitVec 4) (t : BitVec 1) (y : BitVec 5) :
    decodeWord (packX sw 0x21#6 a b u k t y) = (decMx) sw a b k t y u := by
  rw [decodeWord, packX_major]
  exact viaX_packX ..

theorem decodeWord_22 (sw : Bool) (a : BitVec 5) (b : BitVec 5) (u : BitVec 5) (k : BitVec 4) (t : BitVec 1) (y : BitVec 5) :
    decodeWord (packX sw 0x22#6 a b u k t y) = (decCp) sw a b k t y u := by
  rw [decodeWord, packX_major]
  exact viaX_packX ..

theorem decodeWord_23 (sw : Bool) (a : BitVec 5) (b : BitVec 5) (u : BitVec 5) (k : BitVec 4) (t : BitVec 1) (y : BitVec 5) :
    decodeWord (packX sw 0x23#6 a b u k t y) = (decTask) sw a b k t y u := by
  rw [decodeWord, packX_major]
  exact viaX_packX ..

theorem decodeWord_24 (sw : Bool) (d : BitVec 5) (a : BitVec 5) (i : BitVec 15) :
    decodeWord (packI sw 0x24#6 d a i) = (fun sw fD fA fI => if fD == 0#5 then .ok (.ppt sw (Src.dec fA) fI) else .error .reservedField) sw d a i := by
  rw [decodeWord, packI_major]
  exact viaI_packI ..

theorem decodeWord_25 (sw : Bool) (d : BitVec 5) (a : BitVec 5) (wr : BitVec 1) (z : BitVec 2) (i : BitVec 12) :
    decodeWord (packC sw 0x25#6 d a wr z i) = (decCtl) sw d a wr z i := by
  rw [decodeWord, packC_major]
  exact viaC_packC ..

end Sys2Proof
end

