-- ==== Sys2Proof/Laws/Tables.lean ====
section
/-!
SUPPORT. Tables and memory: reading after writing, and the canonical form of memory.
-/

namespace Sys2Proof.Machine

/-! ### Tables -/

variable {α : Type}

@[simp] theorem Table.get?_put_self (t : Table α) (k : Nat) (v : α) : Table.get? (Table.put t k v) k = some v := by
  induction t with
  | nil => simp [Table.put, Table.get?]
  | cons e t ih =>
    obtain ⟨j, u⟩ := e
    simp only [Table.put]
    split
    · simp [Table.get?]
    · split
      · simp [Table.get?]
      · simp [Table.get?, *]

theorem Table.get?_put_ne (t : Table α) {k i : Nat} (v : α) (h : i ≠ k) :
    Table.get? (Table.put t k v) i = Table.get? t i := by
  induction t with
  | nil => simp [Table.put, Table.get?, h]
  | cons e t ih =>
    obtain ⟨j, u⟩ := e
    simp only [Table.put]
    split
    · next hk => subst hk; simp [Table.get?, h]
    · split
      · simp [Table.get?, h]
      · simp only [Table.get?, ih]

@[simp] theorem Table.put_put (t : Table α) (k : Nat) (u v : α) : Table.put (Table.put t k u) k v = Table.put t k v := by
  induction t with
  | nil => simp [Table.put]
  | cons e t ih =>
    obtain ⟨j, w⟩ := e
    by_cases h : k = j
    · simp [Table.put, h]
    · by_cases l : k < j
      · simp [Table.put, h, l]
      · simp [Table.put, h, l, ih]

@[simp] theorem Table.get?_erase_self (t : Table α) (k : Nat) : Table.get? (Table.erase t k) k = none := by
  induction t with
  | nil => rfl
  | cons e t ih =>
    obtain ⟨j, u⟩ := e
    simp only [Table.erase] at ih ⊢
    by_cases h : j = k
    · simp [h, ih]
    · simp [h, Ne.symm h, Table.get?, ih]

theorem Table.get?_erase_ne (t : Table α) {k i : Nat} (h : i ≠ k) : Table.get? (Table.erase t k) i = Table.get? t i := by
  induction t with
  | nil => rfl
  | cons e t ih =>
    obtain ⟨j, u⟩ := e
    simp only [Table.erase] at ih ⊢
    by_cases hj : j = k
    · subst hj; simp [Table.get?, h, ih]
    · simp [hj, Table.get?, ih]

/-! ### Bytes of memory -/

@[simp] theorem Memory.byte_setByte_self (m : Memory) (a : Nat) (b : Byte) : (m.setByte a b).byte a = b := by
  simp only [Memory.setByte, Memory.byte]
  split
  · simp [*]
  · simp

theorem Memory.byte_setByte_ne (m : Memory) {a i : Nat} (b : Byte) (h : i ≠ a) : (m.setByte a b).byte i = m.byte i := by
  simp only [Memory.setByte, Memory.byte]
  split
  · rw [Table.get?_erase_ne m h]
  · rw [Table.get?_put_ne m b h]

theorem Memory.byte_setBytes_out (m : Memory) (a : Nat) (bs : List Byte) {i : Nat} (h : i < a ∨ a + bs.length ≤ i) :
    (m.setBytes a bs).byte i = m.byte i := by
  induction bs generalizing m a with
  | nil => rfl
  | cons b bs ih =>
    simp only [Memory.setBytes, List.length_cons] at h ⊢
    rw [ih _ _ (by omega), Memory.byte_setByte_ne _ _ (by omega)]

theorem Memory.byte_setBytes_in (m : Memory) (a : Nat) (bs : List Byte) {j : Nat} (h : j < bs.length) :
    (m.setBytes a bs).byte (a + j) = bs[j] := by
  induction bs generalizing m a j with
  | nil => simp at h
  | cons b bs ih =>
    simp only [Memory.setBytes]
    match j with
    | 0 => rw [Memory.byte_setBytes_out _ _ _ (by omega)]; simp
    | j + 1 =>
      have := ih (m.setByte a b) (a + 1) (j := j) (by simpa using h)
      rw [show a + (j + 1) = a + 1 + j by omega, this]
      rfl

/-- A write at listed addresses leaves every other byte. -/
theorem Memory.byte_setAt_out (m : Memory) (as : List Nat) (bs : List Byte) {i : Nat} (h : i ∉ as) :
    (m.setAt as bs).byte i = m.byte i := by
  induction as generalizing m bs with
  | nil => rfl
  | cons a as ih =>
    match bs with
    | [] => rfl
    | b :: bs =>
      simp only [List.mem_cons, not_or] at h
      simp only [Memory.setAt]
      rw [ih _ _ h.2, Memory.byte_setByte_ne _ _ h.1]

/-- A write at listed, distinct addresses puts each byte at its address. -/
theorem Memory.byte_setAt_in (m : Memory) (as : List Nat) (bs : List Byte) (hn : as.Nodup) {j : Nat} (ha : j < as.length)
    (hb : j < bs.length) : (m.setAt as bs).byte as[j] = bs[j] := by
  induction as generalizing m bs j with
  | nil => simp at ha
  | cons a as ih =>
    match bs, hb with
    | b :: bs, hb =>
      simp only [Memory.setAt]
      rw [List.nodup_cons] at hn
      match j with
      | 0 => simp [Memory.byte_setAt_out _ _ _ hn.1]
      | j + 1 => simpa using ih (m.setByte a b) bs hn.2 (j := j) (by simpa using ha) (by simpa using hb)

/-! ### The canonical form -/

/-- Addresses rise strictly and no listed byte is emptyByte. -/
theorem Memory.wf_iff (m : Memory) :
    m.wf = true ↔ m.Pairwise (fun x y => x.1 < y.1) ∧ ∀ e ∈ m, e.2 ≠ emptyByte := by
  induction m with
  | nil => simp [Memory.wf]
  | cons e m ih =>
    obtain ⟨a, b⟩ := e
    match m with
    | [] => simp [Memory.wf]
    | (a', b') :: m =>
      rw [show Memory.wf ((a, b) :: (a', b') :: m) = (b != emptyByte && decide (a < a') && Memory.wf ((a', b') :: m)) from rfl]
      simp only [Bool.and_eq_true, bne_iff_ne, ne_eq, decide_eq_true_eq, ih]
      constructor
      · rintro ⟨⟨hb, hlt⟩, hp, hne⟩
        refine ⟨List.pairwise_cons.2 ⟨?_, hp⟩, by simpa [hb] using hne⟩
        intro e he
        rcases List.mem_cons.1 he with rfl | he
        · exact hlt
        · exact Nat.lt_trans hlt (List.rel_of_pairwise_cons hp he)
      · rintro ⟨hp, hne⟩
        have hp' := List.pairwise_cons.1 hp
        exact ⟨⟨hne (a, b) (by simp), hp'.1 (a', b') (by simp)⟩, hp'.2, fun e he => hne e (by simp only [List.mem_cons] at he ⊢; tauto)⟩

theorem Table.mem_put {t : Table α} {k : Nat} {v : α} {e : Nat × α} (h : e ∈ Table.put t k v) : e = (k, v) ∨ e ∈ t := by
  induction t with
  | nil => simpa [Table.put] using h
  | cons x t ih =>
    obtain ⟨j, u⟩ := x
    simp only [Table.put] at h
    split at h
    · simp only [List.mem_cons] at h ⊢; tauto
    · split at h
      · simpa using h
      · simp only [List.mem_cons] at h ⊢
        rcases h with h | h
        · tauto
        · rcases ih h with h | h <;> tauto

/-- Keys that rise keep rising when one is put. -/
theorem Table.rising_put {t : Table α} (h : t.Pairwise fun x y => x.1 < y.1) (k : Nat) (v : α) :
    (Table.put t k v).Pairwise fun x y => x.1 < y.1 := by
  induction t with
  | nil => simp [Table.put]
  | cons x t ih =>
    obtain ⟨j, u⟩ := x
    have hx := List.pairwise_cons.1 h
    simp only [Table.put]
    split
    · next hk => subst hk; exact List.pairwise_cons.2 ⟨hx.1, hx.2⟩
    · split
      · next hlt =>
        refine List.pairwise_cons.2 ⟨fun e he => ?_, h⟩
        rcases List.mem_cons.1 he with rfl | he
        · exact hlt
        · exact Nat.lt_trans hlt (hx.1 e he)
      · refine List.pairwise_cons.2 ⟨fun e he => ?_, ih hx.2⟩
        rcases Table.mem_put he with rfl | he
        · simp only; omega
        · exact hx.1 e he

theorem Memory.wf_setByte {m : Memory} (h : m.wf = true) (a : Nat) (b : Byte) : (m.setByte a b).wf = true := by
  rw [Memory.wf_iff] at h ⊢
  simp only [Memory.setByte]
  split
  · exact ⟨h.1.filter _, fun e he => h.2 e (List.mem_of_mem_filter he)⟩
  · next hb =>
    refine ⟨Table.rising_put h.1 a b, fun e he => ?_⟩
    rcases Table.mem_put he with rfl | he
    · exact hb
    · exact h.2 e he

theorem Memory.wf_setBytes {m : Memory} (h : m.wf = true) (a : Nat) (bs : List Byte) : (m.setBytes a bs).wf = true := by
  induction bs generalizing m a with
  | nil => exact h
  | cons b bs ih => exact ih (Memory.wf_setByte h a b) _

theorem Memory.wf_setAt {m : Memory} (h : m.wf = true) (as : List Nat) (bs : List Byte) : (m.setAt as bs).wf = true := by
  induction as generalizing m bs with
  | nil => exact h
  | cons a as ih =>
    match bs with
    | [] => exact h
    | b :: bs => exact ih (Memory.wf_setByte h a b) bs

theorem Memory.wf_filter {m : Memory} (h : m.wf = true) (p : Host.Cell → Bool) : Memory.wf (m.filter p) = true := by
  rw [Memory.wf_iff] at h ⊢
  exact ⟨h.1.filter _, fun e he => h.2 e (List.mem_of_mem_filter he)⟩

end Sys2Proof.Machine
end

