-- ==== Sys2Proof/Laws/State.lean ====
section
/-!
SUPPORT. One lemma per field per update: what changing a context, a core, a partition or an operation leaves of the package, and what an
order that reaches the package leaves of it.
-/

namespace Sys2Proof.Machine

@[simp] theorem Chip.thread_modThread_self (c : Chip) (t : Nat) (f : Thread → Thread) : (c.modThread t f).thread t = f (c.thread t) := by
  simp [Chip.modThread, Chip.thread]

theorem Chip.thread_modThread_ne (c : Chip) {t j : Nat} (f : Thread → Thread) (h : j ≠ t) : (c.modThread t f).thread j = c.thread j := by
  simp [Chip.modThread, Chip.thread, Table.get?_put_ne _ _ h]

@[simp] theorem Chip.modThread_modThread (c : Chip) (t : Nat) (f g : Thread → Thread) :
    (c.modThread t f).modThread t g = c.modThread t fun x => g (f x) := by
  simp [Chip.modThread, Chip.thread]

@[simp] theorem Chip.core_modCore_self (c : Chip) (k : Nat) (f : Core → Core) : (c.modCore k f).core k = f (c.core k) := by
  simp [Chip.modCore, Chip.core]

theorem Chip.core_modCore_ne (c : Chip) {k j : Nat} (f : Core → Core) (h : j ≠ k) : (c.modCore k f).core j = c.core j := by
  simp [Chip.modCore, Chip.core, Table.get?_put_ne _ _ h]

@[simp] theorem Chip.part_modPart_self (c : Chip) (p : Nat) (f : Partition → Partition) : (c.modPart p f).part p = f (c.part p) := by
  simp [Chip.modPart, Chip.part]

theorem Chip.part_modPart_ne (c : Chip) {p j : Nat} (f : Partition → Partition) (h : j ≠ p) : (c.modPart p f).part j = c.part j := by
  simp [Chip.modPart, Chip.part, Table.get?_put_ne _ _ h]

/-! ### modThread -/

@[simp] theorem Chip.modThread_device (c : Chip) (t : Nat) (f : Thread → Thread) : (c.modThread t f).device = c.device := rfl
@[simp] theorem Chip.modThread_liveDies (c : Chip) (t : Nat) (f : Thread → Thread) : (c.modThread t f).liveDies = c.liveDies := rfl
@[simp] theorem Chip.modThread_dieState (c : Chip) (t : Nat) (f : Thread → Thread) : (c.modThread t f).dieState = c.dieState := rfl
@[simp] theorem Chip.modThread_portUp (c : Chip) (t : Nat) (f : Thread → Thread) : (c.modThread t f).portUp = c.portUp := rfl
@[simp] theorem Chip.modThread_portSize (c : Chip) (t : Nat) (f : Thread → Thread) : (c.modThread t f).portSize = c.portSize := rfl
@[simp] theorem Chip.modThread_cores (c : Chip) (t : Nat) (f : Thread → Thread) : (c.modThread t f).cores = c.cores := rfl
@[simp] theorem Chip.modThread_core (c : Chip) (t : Nat) (f : Thread → Thread) (j : Nat) : (c.modThread t f).core j = c.core j := rfl
@[simp] theorem Chip.modThread_parts (c : Chip) (t : Nat) (f : Thread → Thread) : (c.modThread t f).parts = c.parts := rfl
@[simp] theorem Chip.modThread_part (c : Chip) (t : Nat) (f : Thread → Thread) (j : Nat) : (c.modThread t f).part j = c.part j := rfl
@[simp] theorem Chip.modThread_sel (c : Chip) (t : Nat) (f : Thread → Thread) : (c.modThread t f).sel = c.sel := rfl
@[simp] theorem Chip.modThread_graphs (c : Chip) (t : Nat) (f : Thread → Thread) : (c.modThread t f).graphs = c.graphs := rfl
@[simp] theorem Chip.modThread_records (c : Chip) (t : Nat) (f : Thread → Thread) : (c.modThread t f).records = c.records := rfl
@[simp] theorem Chip.modThread_gangs (c : Chip) (t : Nat) (f : Thread → Thread) : (c.modThread t f).gangs = c.gangs := rfl
@[simp] theorem Chip.modThread_mem (c : Chip) (t : Nat) (f : Thread → Thread) : (c.modThread t f).mem = c.mem := rfl
@[simp] theorem Chip.modThread_granules (c : Chip) (t : Nat) (f : Thread → Thread) : (c.modThread t f).granules = c.granules := rfl
@[simp] theorem Chip.modThread_marks (c : Chip) (t : Nat) (f : Thread → Thread) : (c.modThread t f).marks = c.marks := rfl
@[simp] theorem Chip.modThread_codeCache (c : Chip) (t : Nat) (f : Thread → Thread) : (c.modThread t f).codeCache = c.codeCache := rfl
@[simp] theorem Chip.modThread_releases (c : Chip) (t : Nat) (f : Thread → Thread) : (c.modThread t f).releases = c.releases := rfl
@[simp] theorem Chip.modThread_fulls (c : Chip) (t : Nat) (f : Thread → Thread) : (c.modThread t f).fulls = c.fulls := rfl
@[simp] theorem Chip.modThread_collapsed (c : Chip) (t : Nat) (f : Thread → Thread) : (c.modThread t f).collapsed = c.collapsed := rfl
@[simp] theorem Chip.modThread_poison (c : Chip) (t : Nat) (f : Thread → Thread) : (c.modThread t f).poison = c.poison := rfl
@[simp] theorem Chip.modThread_hostLines (c : Chip) (t : Nat) (f : Thread → Thread) : (c.modThread t f).hostLines = c.hostLines := rfl
@[simp] theorem Chip.modThread_hostOrder (c : Chip) (t : Nat) (f : Thread → Thread) : (c.modThread t f).hostOrder = c.hostOrder := rfl
@[simp] theorem Chip.modThread_snooped (c : Chip) (t : Nat) (f : Thread → Thread) : (c.modThread t f).snooped = c.snooped := rfl
@[simp] theorem Chip.modThread_devLines (c : Chip) (t : Nat) (f : Thread → Thread) : (c.modThread t f).devLines = c.devLines := rfl
@[simp] theorem Chip.modThread_decoders (c : Chip) (t : Nat) (f : Thread → Thread) : (c.modThread t f).decoders = c.decoders := rfl
@[simp] theorem Chip.modThread_spaces (c : Chip) (t : Nat) (f : Thread → Thread) : (c.modThread t f).spaces = c.spaces := rfl
@[simp] theorem Chip.modThread_heads (c : Chip) (t : Nat) (f : Thread → Thread) : (c.modThread t f).heads = c.heads := rfl
@[simp] theorem Chip.modThread_entries (c : Chip) (t : Nat) (f : Thread → Thread) : (c.modThread t f).entries = c.entries := rfl
@[simp] theorem Chip.modThread_extents (c : Chip) (t : Nat) (f : Thread → Thread) : (c.modThread t f).extents = c.extents := rfl
@[simp] theorem Chip.modThread_reqs (c : Chip) (t : Nat) (f : Thread → Thread) : (c.modThread t f).reqs = c.reqs := rfl
@[simp] theorem Chip.modThread_cellar (c : Chip) (t : Nat) (f : Thread → Thread) : (c.modThread t f).cellar = c.cellar := rfl
@[simp] theorem Chip.modThread_vfs (c : Chip) (t : Nat) (f : Thread → Thread) : (c.modThread t f).vfs = c.vfs := rfl
@[simp] theorem Chip.modThread_owedStatus (c : Chip) (t : Nat) (f : Thread → Thread) : (c.modThread t f).owedStatus = c.owedStatus := rfl
@[simp] theorem Chip.modThread_unitAsks (c : Chip) (t : Nat) (f : Thread → Thread) : (c.modThread t f).unitAsks = c.unitAsks := rfl
@[simp] theorem Chip.modThread_unitWork (c : Chip) (t : Nat) (f : Thread → Thread) : (c.modThread t f).unitWork = c.unitWork := rfl
@[simp] theorem Chip.modThread_links (c : Chip) (t : Nat) (f : Thread → Thread) : (c.modThread t f).links = c.links := rfl
@[simp] theorem Chip.modThread_sent (c : Chip) (t : Nat) (f : Thread → Thread) : (c.modThread t f).sent = c.sent := rfl
@[simp] theorem Chip.modThread_ops (c : Chip) (t : Nat) (f : Thread → Thread) : (c.modThread t f).ops = c.ops := rfl
@[simp] theorem Chip.modThread_hung (c : Chip) (t : Nat) (f : Thread → Thread) : (c.modThread t f).hung = c.hung := rfl
@[simp] theorem Chip.modThread_nextId (c : Chip) (t : Nat) (f : Thread → Thread) : (c.modThread t f).nextId = c.nextId := rfl
@[simp] theorem Chip.modThread_draws (c : Chip) (t : Nat) (f : Thread → Thread) : (c.modThread t f).draws = c.draws := rfl
@[simp] theorem Chip.modThread_tick (c : Chip) (t : Nat) (f : Thread → Thread) : (c.modThread t f).tick = c.tick := rfl
@[simp] theorem Chip.modThread_cur (c : Chip) (t : Nat) (f : Thread → Thread) : (c.modThread t f).cur = c.cur := rfl
@[simp] theorem Chip.modThread_insn (c : Chip) (t : Nat) (f : Thread → Thread) : (c.modThread t f).insn = c.insn := rfl

/-! ### modCore -/

@[simp] theorem Chip.modCore_device (c : Chip) (k : Nat) (f : Core → Core) : (c.modCore k f).device = c.device := rfl
@[simp] theorem Chip.modCore_liveDies (c : Chip) (k : Nat) (f : Core → Core) : (c.modCore k f).liveDies = c.liveDies := rfl
@[simp] theorem Chip.modCore_dieState (c : Chip) (k : Nat) (f : Core → Core) : (c.modCore k f).dieState = c.dieState := rfl
@[simp] theorem Chip.modCore_portUp (c : Chip) (k : Nat) (f : Core → Core) : (c.modCore k f).portUp = c.portUp := rfl
@[simp] theorem Chip.modCore_portSize (c : Chip) (k : Nat) (f : Core → Core) : (c.modCore k f).portSize = c.portSize := rfl
@[simp] theorem Chip.modCore_threads (c : Chip) (k : Nat) (f : Core → Core) : (c.modCore k f).threads = c.threads := rfl
@[simp] theorem Chip.modCore_thread (c : Chip) (k : Nat) (f : Core → Core) (j : Nat) : (c.modCore k f).thread j = c.thread j := rfl
@[simp] theorem Chip.modCore_parts (c : Chip) (k : Nat) (f : Core → Core) : (c.modCore k f).parts = c.parts := rfl
@[simp] theorem Chip.modCore_part (c : Chip) (k : Nat) (f : Core → Core) (j : Nat) : (c.modCore k f).part j = c.part j := rfl
@[simp] theorem Chip.modCore_sel (c : Chip) (k : Nat) (f : Core → Core) : (c.modCore k f).sel = c.sel := rfl
@[simp] theorem Chip.modCore_graphs (c : Chip) (k : Nat) (f : Core → Core) : (c.modCore k f).graphs = c.graphs := rfl
@[simp] theorem Chip.modCore_records (c : Chip) (k : Nat) (f : Core → Core) : (c.modCore k f).records = c.records := rfl
@[simp] theorem Chip.modCore_gangs (c : Chip) (k : Nat) (f : Core → Core) : (c.modCore k f).gangs = c.gangs := rfl
@[simp] theorem Chip.modCore_mem (c : Chip) (k : Nat) (f : Core → Core) : (c.modCore k f).mem = c.mem := rfl
@[simp] theorem Chip.modCore_granules (c : Chip) (k : Nat) (f : Core → Core) : (c.modCore k f).granules = c.granules := rfl
@[simp] theorem Chip.modCore_marks (c : Chip) (k : Nat) (f : Core → Core) : (c.modCore k f).marks = c.marks := rfl
@[simp] theorem Chip.modCore_codeCache (c : Chip) (k : Nat) (f : Core → Core) : (c.modCore k f).codeCache = c.codeCache := rfl
@[simp] theorem Chip.modCore_releases (c : Chip) (k : Nat) (f : Core → Core) : (c.modCore k f).releases = c.releases := rfl
@[simp] theorem Chip.modCore_fulls (c : Chip) (k : Nat) (f : Core → Core) : (c.modCore k f).fulls = c.fulls := rfl
@[simp] theorem Chip.modCore_collapsed (c : Chip) (k : Nat) (f : Core → Core) : (c.modCore k f).collapsed = c.collapsed := rfl
@[simp] theorem Chip.modCore_poison (c : Chip) (k : Nat) (f : Core → Core) : (c.modCore k f).poison = c.poison := rfl
@[simp] theorem Chip.modCore_hostLines (c : Chip) (k : Nat) (f : Core → Core) : (c.modCore k f).hostLines = c.hostLines := rfl
@[simp] theorem Chip.modCore_hostOrder (c : Chip) (k : Nat) (f : Core → Core) : (c.modCore k f).hostOrder = c.hostOrder := rfl
@[simp] theorem Chip.modCore_snooped (c : Chip) (k : Nat) (f : Core → Core) : (c.modCore k f).snooped = c.snooped := rfl
@[simp] theorem Chip.modCore_devLines (c : Chip) (k : Nat) (f : Core → Core) : (c.modCore k f).devLines = c.devLines := rfl
@[simp] theorem Chip.modCore_decoders (c : Chip) (k : Nat) (f : Core → Core) : (c.modCore k f).decoders = c.decoders := rfl
@[simp] theorem Chip.modCore_spaces (c : Chip) (k : Nat) (f : Core → Core) : (c.modCore k f).spaces = c.spaces := rfl
@[simp] theorem Chip.modCore_heads (c : Chip) (k : Nat) (f : Core → Core) : (c.modCore k f).heads = c.heads := rfl
@[simp] theorem Chip.modCore_entries (c : Chip) (k : Nat) (f : Core → Core) : (c.modCore k f).entries = c.entries := rfl
@[simp] theorem Chip.modCore_extents (c : Chip) (k : Nat) (f : Core → Core) : (c.modCore k f).extents = c.extents := rfl
@[simp] theorem Chip.modCore_reqs (c : Chip) (k : Nat) (f : Core → Core) : (c.modCore k f).reqs = c.reqs := rfl
@[simp] theorem Chip.modCore_cellar (c : Chip) (k : Nat) (f : Core → Core) : (c.modCore k f).cellar = c.cellar := rfl
@[simp] theorem Chip.modCore_vfs (c : Chip) (k : Nat) (f : Core → Core) : (c.modCore k f).vfs = c.vfs := rfl
@[simp] theorem Chip.modCore_owedStatus (c : Chip) (k : Nat) (f : Core → Core) : (c.modCore k f).owedStatus = c.owedStatus := rfl
@[simp] theorem Chip.modCore_unitAsks (c : Chip) (k : Nat) (f : Core → Core) : (c.modCore k f).unitAsks = c.unitAsks := rfl
@[simp] theorem Chip.modCore_unitWork (c : Chip) (k : Nat) (f : Core → Core) : (c.modCore k f).unitWork = c.unitWork := rfl
@[simp] theorem Chip.modCore_links (c : Chip) (k : Nat) (f : Core → Core) : (c.modCore k f).links = c.links := rfl
@[simp] theorem Chip.modCore_sent (c : Chip) (k : Nat) (f : Core → Core) : (c.modCore k f).sent = c.sent := rfl
@[simp] theorem Chip.modCore_ops (c : Chip) (k : Nat) (f : Core → Core) : (c.modCore k f).ops = c.ops := rfl
@[simp] theorem Chip.modCore_hung (c : Chip) (k : Nat) (f : Core → Core) : (c.modCore k f).hung = c.hung := rfl
@[simp] theorem Chip.modCore_nextId (c : Chip) (k : Nat) (f : Core → Core) : (c.modCore k f).nextId = c.nextId := rfl
@[simp] theorem Chip.modCore_draws (c : Chip) (k : Nat) (f : Core → Core) : (c.modCore k f).draws = c.draws := rfl
@[simp] theorem Chip.modCore_tick (c : Chip) (k : Nat) (f : Core → Core) : (c.modCore k f).tick = c.tick := rfl
@[simp] theorem Chip.modCore_cur (c : Chip) (k : Nat) (f : Core → Core) : (c.modCore k f).cur = c.cur := rfl
@[simp] theorem Chip.modCore_insn (c : Chip) (k : Nat) (f : Core → Core) : (c.modCore k f).insn = c.insn := rfl

/-! ### modPart -/

@[simp] theorem Chip.modPart_device (c : Chip) (p : Nat) (f : Partition → Partition) : (c.modPart p f).device = c.device := rfl
@[simp] theorem Chip.modPart_liveDies (c : Chip) (p : Nat) (f : Partition → Partition) : (c.modPart p f).liveDies = c.liveDies := rfl
@[simp] theorem Chip.modPart_dieState (c : Chip) (p : Nat) (f : Partition → Partition) : (c.modPart p f).dieState = c.dieState := rfl
@[simp] theorem Chip.modPart_portUp (c : Chip) (p : Nat) (f : Partition → Partition) : (c.modPart p f).portUp = c.portUp := rfl
@[simp] theorem Chip.modPart_portSize (c : Chip) (p : Nat) (f : Partition → Partition) : (c.modPart p f).portSize = c.portSize := rfl
@[simp] theorem Chip.modPart_threads (c : Chip) (p : Nat) (f : Partition → Partition) : (c.modPart p f).threads = c.threads := rfl
@[simp] theorem Chip.modPart_thread (c : Chip) (p : Nat) (f : Partition → Partition) (j : Nat) : (c.modPart p f).thread j = c.thread j := rfl
@[simp] theorem Chip.modPart_cores (c : Chip) (p : Nat) (f : Partition → Partition) : (c.modPart p f).cores = c.cores := rfl
@[simp] theorem Chip.modPart_core (c : Chip) (p : Nat) (f : Partition → Partition) (j : Nat) : (c.modPart p f).core j = c.core j := rfl
@[simp] theorem Chip.modPart_sel (c : Chip) (p : Nat) (f : Partition → Partition) : (c.modPart p f).sel = c.sel := rfl
@[simp] theorem Chip.modPart_graphs (c : Chip) (p : Nat) (f : Partition → Partition) : (c.modPart p f).graphs = c.graphs := rfl
@[simp] theorem Chip.modPart_records (c : Chip) (p : Nat) (f : Partition → Partition) : (c.modPart p f).records = c.records := rfl
@[simp] theorem Chip.modPart_gangs (c : Chip) (p : Nat) (f : Partition → Partition) : (c.modPart p f).gangs = c.gangs := rfl
@[simp] theorem Chip.modPart_mem (c : Chip) (p : Nat) (f : Partition → Partition) : (c.modPart p f).mem = c.mem := rfl
@[simp] theorem Chip.modPart_granules (c : Chip) (p : Nat) (f : Partition → Partition) : (c.modPart p f).granules = c.granules := rfl
@[simp] theorem Chip.modPart_marks (c : Chip) (p : Nat) (f : Partition → Partition) : (c.modPart p f).marks = c.marks := rfl
@[simp] theorem Chip.modPart_codeCache (c : Chip) (p : Nat) (f : Partition → Partition) : (c.modPart p f).codeCache = c.codeCache := rfl
@[simp] theorem Chip.modPart_releases (c : Chip) (p : Nat) (f : Partition → Partition) : (c.modPart p f).releases = c.releases := rfl
@[simp] theorem Chip.modPart_fulls (c : Chip) (p : Nat) (f : Partition → Partition) : (c.modPart p f).fulls = c.fulls := rfl
@[simp] theorem Chip.modPart_collapsed (c : Chip) (p : Nat) (f : Partition → Partition) : (c.modPart p f).collapsed = c.collapsed := rfl
@[simp] theorem Chip.modPart_poison (c : Chip) (p : Nat) (f : Partition → Partition) : (c.modPart p f).poison = c.poison := rfl
@[simp] theorem Chip.modPart_hostLines (c : Chip) (p : Nat) (f : Partition → Partition) : (c.modPart p f).hostLines = c.hostLines := rfl
@[simp] theorem Chip.modPart_hostOrder (c : Chip) (p : Nat) (f : Partition → Partition) : (c.modPart p f).hostOrder = c.hostOrder := rfl
@[simp] theorem Chip.modPart_snooped (c : Chip) (p : Nat) (f : Partition → Partition) : (c.modPart p f).snooped = c.snooped := rfl
@[simp] theorem Chip.modPart_devLines (c : Chip) (p : Nat) (f : Partition → Partition) : (c.modPart p f).devLines = c.devLines := rfl
@[simp] theorem Chip.modPart_decoders (c : Chip) (p : Nat) (f : Partition → Partition) : (c.modPart p f).decoders = c.decoders := rfl
@[simp] theorem Chip.modPart_spaces (c : Chip) (p : Nat) (f : Partition → Partition) : (c.modPart p f).spaces = c.spaces := rfl
@[simp] theorem Chip.modPart_heads (c : Chip) (p : Nat) (f : Partition → Partition) : (c.modPart p f).heads = c.heads := rfl
@[simp] theorem Chip.modPart_entries (c : Chip) (p : Nat) (f : Partition → Partition) : (c.modPart p f).entries = c.entries := rfl
@[simp] theorem Chip.modPart_extents (c : Chip) (p : Nat) (f : Partition → Partition) : (c.modPart p f).extents = c.extents := rfl
@[simp] theorem Chip.modPart_reqs (c : Chip) (p : Nat) (f : Partition → Partition) : (c.modPart p f).reqs = c.reqs := rfl
@[simp] theorem Chip.modPart_cellar (c : Chip) (p : Nat) (f : Partition → Partition) : (c.modPart p f).cellar = c.cellar := rfl
@[simp] theorem Chip.modPart_vfs (c : Chip) (p : Nat) (f : Partition → Partition) : (c.modPart p f).vfs = c.vfs := rfl
@[simp] theorem Chip.modPart_owedStatus (c : Chip) (p : Nat) (f : Partition → Partition) : (c.modPart p f).owedStatus = c.owedStatus := rfl
@[simp] theorem Chip.modPart_unitAsks (c : Chip) (p : Nat) (f : Partition → Partition) : (c.modPart p f).unitAsks = c.unitAsks := rfl
@[simp] theorem Chip.modPart_unitWork (c : Chip) (p : Nat) (f : Partition → Partition) : (c.modPart p f).unitWork = c.unitWork := rfl
@[simp] theorem Chip.modPart_links (c : Chip) (p : Nat) (f : Partition → Partition) : (c.modPart p f).links = c.links := rfl
@[simp] theorem Chip.modPart_sent (c : Chip) (p : Nat) (f : Partition → Partition) : (c.modPart p f).sent = c.sent := rfl
@[simp] theorem Chip.modPart_ops (c : Chip) (p : Nat) (f : Partition → Partition) : (c.modPart p f).ops = c.ops := rfl
@[simp] theorem Chip.modPart_hung (c : Chip) (p : Nat) (f : Partition → Partition) : (c.modPart p f).hung = c.hung := rfl
@[simp] theorem Chip.modPart_nextId (c : Chip) (p : Nat) (f : Partition → Partition) : (c.modPart p f).nextId = c.nextId := rfl
@[simp] theorem Chip.modPart_draws (c : Chip) (p : Nat) (f : Partition → Partition) : (c.modPart p f).draws = c.draws := rfl
@[simp] theorem Chip.modPart_tick (c : Chip) (p : Nat) (f : Partition → Partition) : (c.modPart p f).tick = c.tick := rfl
@[simp] theorem Chip.modPart_cur (c : Chip) (p : Nat) (f : Partition → Partition) : (c.modPart p f).cur = c.cur := rfl
@[simp] theorem Chip.modPart_insn (c : Chip) (p : Nat) (f : Partition → Partition) : (c.modPart p f).insn = c.insn := rfl

/-! ### modOp -/

@[simp] theorem Chip.modOp_device (c : Chip) (id : Nat) (f : Op → Op) : (c.modOp id f).device = c.device := rfl
@[simp] theorem Chip.modOp_liveDies (c : Chip) (id : Nat) (f : Op → Op) : (c.modOp id f).liveDies = c.liveDies := rfl
@[simp] theorem Chip.modOp_dieState (c : Chip) (id : Nat) (f : Op → Op) : (c.modOp id f).dieState = c.dieState := rfl
@[simp] theorem Chip.modOp_portUp (c : Chip) (id : Nat) (f : Op → Op) : (c.modOp id f).portUp = c.portUp := rfl
@[simp] theorem Chip.modOp_portSize (c : Chip) (id : Nat) (f : Op → Op) : (c.modOp id f).portSize = c.portSize := rfl
@[simp] theorem Chip.modOp_threads (c : Chip) (id : Nat) (f : Op → Op) : (c.modOp id f).threads = c.threads := rfl
@[simp] theorem Chip.modOp_thread (c : Chip) (id : Nat) (f : Op → Op) (j : Nat) : (c.modOp id f).thread j = c.thread j := rfl
@[simp] theorem Chip.modOp_cores (c : Chip) (id : Nat) (f : Op → Op) : (c.modOp id f).cores = c.cores := rfl
@[simp] theorem Chip.modOp_core (c : Chip) (id : Nat) (f : Op → Op) (j : Nat) : (c.modOp id f).core j = c.core j := rfl
@[simp] theorem Chip.modOp_parts (c : Chip) (id : Nat) (f : Op → Op) : (c.modOp id f).parts = c.parts := rfl
@[simp] theorem Chip.modOp_part (c : Chip) (id : Nat) (f : Op → Op) (j : Nat) : (c.modOp id f).part j = c.part j := rfl
@[simp] theorem Chip.modOp_sel (c : Chip) (id : Nat) (f : Op → Op) : (c.modOp id f).sel = c.sel := rfl
@[simp] theorem Chip.modOp_graphs (c : Chip) (id : Nat) (f : Op → Op) : (c.modOp id f).graphs = c.graphs := rfl
@[simp] theorem Chip.modOp_records (c : Chip) (id : Nat) (f : Op → Op) : (c.modOp id f).records = c.records := rfl
@[simp] theorem Chip.modOp_gangs (c : Chip) (id : Nat) (f : Op → Op) : (c.modOp id f).gangs = c.gangs := rfl
@[simp] theorem Chip.modOp_mem (c : Chip) (id : Nat) (f : Op → Op) : (c.modOp id f).mem = c.mem := rfl
@[simp] theorem Chip.modOp_granules (c : Chip) (id : Nat) (f : Op → Op) : (c.modOp id f).granules = c.granules := rfl
@[simp] theorem Chip.modOp_marks (c : Chip) (id : Nat) (f : Op → Op) : (c.modOp id f).marks = c.marks := rfl
@[simp] theorem Chip.modOp_codeCache (c : Chip) (id : Nat) (f : Op → Op) : (c.modOp id f).codeCache = c.codeCache := rfl
@[simp] theorem Chip.modOp_releases (c : Chip) (id : Nat) (f : Op → Op) : (c.modOp id f).releases = c.releases := rfl
@[simp] theorem Chip.modOp_fulls (c : Chip) (id : Nat) (f : Op → Op) : (c.modOp id f).fulls = c.fulls := rfl
@[simp] theorem Chip.modOp_collapsed (c : Chip) (id : Nat) (f : Op → Op) : (c.modOp id f).collapsed = c.collapsed := rfl
@[simp] theorem Chip.modOp_poison (c : Chip) (id : Nat) (f : Op → Op) : (c.modOp id f).poison = c.poison := rfl
@[simp] theorem Chip.modOp_hostLines (c : Chip) (id : Nat) (f : Op → Op) : (c.modOp id f).hostLines = c.hostLines := rfl
@[simp] theorem Chip.modOp_hostOrder (c : Chip) (id : Nat) (f : Op → Op) : (c.modOp id f).hostOrder = c.hostOrder := rfl
@[simp] theorem Chip.modOp_snooped (c : Chip) (id : Nat) (f : Op → Op) : (c.modOp id f).snooped = c.snooped := rfl
@[simp] theorem Chip.modOp_devLines (c : Chip) (id : Nat) (f : Op → Op) : (c.modOp id f).devLines = c.devLines := rfl
@[simp] theorem Chip.modOp_decoders (c : Chip) (id : Nat) (f : Op → Op) : (c.modOp id f).decoders = c.decoders := rfl
@[simp] theorem Chip.modOp_spaces (c : Chip) (id : Nat) (f : Op → Op) : (c.modOp id f).spaces = c.spaces := rfl
@[simp] theorem Chip.modOp_heads (c : Chip) (id : Nat) (f : Op → Op) : (c.modOp id f).heads = c.heads := rfl
@[simp] theorem Chip.modOp_entries (c : Chip) (id : Nat) (f : Op → Op) : (c.modOp id f).entries = c.entries := rfl
@[simp] theorem Chip.modOp_extents (c : Chip) (id : Nat) (f : Op → Op) : (c.modOp id f).extents = c.extents := rfl
@[simp] theorem Chip.modOp_reqs (c : Chip) (id : Nat) (f : Op → Op) : (c.modOp id f).reqs = c.reqs := rfl
@[simp] theorem Chip.modOp_cellar (c : Chip) (id : Nat) (f : Op → Op) : (c.modOp id f).cellar = c.cellar := rfl
@[simp] theorem Chip.modOp_vfs (c : Chip) (id : Nat) (f : Op → Op) : (c.modOp id f).vfs = c.vfs := rfl
@[simp] theorem Chip.modOp_owedStatus (c : Chip) (id : Nat) (f : Op → Op) : (c.modOp id f).owedStatus = c.owedStatus := rfl
@[simp] theorem Chip.modOp_unitAsks (c : Chip) (id : Nat) (f : Op → Op) : (c.modOp id f).unitAsks = c.unitAsks := rfl
@[simp] theorem Chip.modOp_unitWork (c : Chip) (id : Nat) (f : Op → Op) : (c.modOp id f).unitWork = c.unitWork := rfl
@[simp] theorem Chip.modOp_links (c : Chip) (id : Nat) (f : Op → Op) : (c.modOp id f).links = c.links := rfl
@[simp] theorem Chip.modOp_sent (c : Chip) (id : Nat) (f : Op → Op) : (c.modOp id f).sent = c.sent := rfl
@[simp] theorem Chip.modOp_hung (c : Chip) (id : Nat) (f : Op → Op) : (c.modOp id f).hung = c.hung := rfl
@[simp] theorem Chip.modOp_nextId (c : Chip) (id : Nat) (f : Op → Op) : (c.modOp id f).nextId = c.nextId := rfl
@[simp] theorem Chip.modOp_draws (c : Chip) (id : Nat) (f : Op → Op) : (c.modOp id f).draws = c.draws := rfl
@[simp] theorem Chip.modOp_tick (c : Chip) (id : Nat) (f : Op → Op) : (c.modOp id f).tick = c.tick := rfl
@[simp] theorem Chip.modOp_cur (c : Chip) (id : Nat) (f : Op → Op) : (c.modOp id f).cur = c.cur := rfl
@[simp] theorem Chip.modOp_insn (c : Chip) (id : Nat) (f : Op → Op) : (c.modOp id f).insn = c.insn := rfl

/-! ### dropOp -/

@[simp] theorem Chip.dropOp_device (c : Chip) (id : Nat) : (c.dropOp id).device = c.device := rfl
@[simp] theorem Chip.dropOp_liveDies (c : Chip) (id : Nat) : (c.dropOp id).liveDies = c.liveDies := rfl
@[simp] theorem Chip.dropOp_dieState (c : Chip) (id : Nat) : (c.dropOp id).dieState = c.dieState := rfl
@[simp] theorem Chip.dropOp_portUp (c : Chip) (id : Nat) : (c.dropOp id).portUp = c.portUp := rfl
@[simp] theorem Chip.dropOp_portSize (c : Chip) (id : Nat) : (c.dropOp id).portSize = c.portSize := rfl
@[simp] theorem Chip.dropOp_threads (c : Chip) (id : Nat) : (c.dropOp id).threads = c.threads := rfl
@[simp] theorem Chip.dropOp_thread (c : Chip) (id : Nat) (j : Nat) : (c.dropOp id).thread j = c.thread j := rfl
@[simp] theorem Chip.dropOp_cores (c : Chip) (id : Nat) : (c.dropOp id).cores = c.cores := rfl
@[simp] theorem Chip.dropOp_core (c : Chip) (id : Nat) (j : Nat) : (c.dropOp id).core j = c.core j := rfl
@[simp] theorem Chip.dropOp_parts (c : Chip) (id : Nat) : (c.dropOp id).parts = c.parts := rfl
@[simp] theorem Chip.dropOp_part (c : Chip) (id : Nat) (j : Nat) : (c.dropOp id).part j = c.part j := rfl
@[simp] theorem Chip.dropOp_sel (c : Chip) (id : Nat) : (c.dropOp id).sel = c.sel := rfl
@[simp] theorem Chip.dropOp_graphs (c : Chip) (id : Nat) : (c.dropOp id).graphs = c.graphs := rfl
@[simp] theorem Chip.dropOp_records (c : Chip) (id : Nat) : (c.dropOp id).records = c.records := rfl
@[simp] theorem Chip.dropOp_gangs (c : Chip) (id : Nat) : (c.dropOp id).gangs = c.gangs := rfl
@[simp] theorem Chip.dropOp_mem (c : Chip) (id : Nat) : (c.dropOp id).mem = c.mem := rfl
@[simp] theorem Chip.dropOp_granules (c : Chip) (id : Nat) : (c.dropOp id).granules = c.granules := rfl
@[simp] theorem Chip.dropOp_marks (c : Chip) (id : Nat) : (c.dropOp id).marks = c.marks := rfl
@[simp] theorem Chip.dropOp_codeCache (c : Chip) (id : Nat) : (c.dropOp id).codeCache = c.codeCache := rfl
@[simp] theorem Chip.dropOp_releases (c : Chip) (id : Nat) : (c.dropOp id).releases = c.releases := rfl
@[simp] theorem Chip.dropOp_fulls (c : Chip) (id : Nat) : (c.dropOp id).fulls = c.fulls := rfl
@[simp] theorem Chip.dropOp_collapsed (c : Chip) (id : Nat) : (c.dropOp id).collapsed = c.collapsed := rfl
@[simp] theorem Chip.dropOp_poison (c : Chip) (id : Nat) : (c.dropOp id).poison = c.poison := rfl
@[simp] theorem Chip.dropOp_hostLines (c : Chip) (id : Nat) : (c.dropOp id).hostLines = c.hostLines := rfl
@[simp] theorem Chip.dropOp_hostOrder (c : Chip) (id : Nat) : (c.dropOp id).hostOrder = c.hostOrder := rfl
@[simp] theorem Chip.dropOp_snooped (c : Chip) (id : Nat) : (c.dropOp id).snooped = c.snooped := rfl
@[simp] theorem Chip.dropOp_devLines (c : Chip) (id : Nat) : (c.dropOp id).devLines = c.devLines := rfl
@[simp] theorem Chip.dropOp_decoders (c : Chip) (id : Nat) : (c.dropOp id).decoders = c.decoders := rfl
@[simp] theorem Chip.dropOp_spaces (c : Chip) (id : Nat) : (c.dropOp id).spaces = c.spaces := rfl
@[simp] theorem Chip.dropOp_heads (c : Chip) (id : Nat) : (c.dropOp id).heads = c.heads := rfl
@[simp] theorem Chip.dropOp_entries (c : Chip) (id : Nat) : (c.dropOp id).entries = c.entries := rfl
@[simp] theorem Chip.dropOp_extents (c : Chip) (id : Nat) : (c.dropOp id).extents = c.extents := rfl
@[simp] theorem Chip.dropOp_reqs (c : Chip) (id : Nat) : (c.dropOp id).reqs = c.reqs := rfl
@[simp] theorem Chip.dropOp_cellar (c : Chip) (id : Nat) : (c.dropOp id).cellar = c.cellar := rfl
@[simp] theorem Chip.dropOp_vfs (c : Chip) (id : Nat) : (c.dropOp id).vfs = c.vfs := rfl
@[simp] theorem Chip.dropOp_owedStatus (c : Chip) (id : Nat) : (c.dropOp id).owedStatus = c.owedStatus := rfl
@[simp] theorem Chip.dropOp_unitAsks (c : Chip) (id : Nat) : (c.dropOp id).unitAsks = c.unitAsks := rfl
@[simp] theorem Chip.dropOp_unitWork (c : Chip) (id : Nat) : (c.dropOp id).unitWork = c.unitWork := rfl
@[simp] theorem Chip.dropOp_links (c : Chip) (id : Nat) : (c.dropOp id).links = c.links := rfl
@[simp] theorem Chip.dropOp_sent (c : Chip) (id : Nat) : (c.dropOp id).sent = c.sent := rfl
@[simp] theorem Chip.dropOp_hung (c : Chip) (id : Nat) : (c.dropOp id).hung = c.hung := rfl
@[simp] theorem Chip.dropOp_nextId (c : Chip) (id : Nat) : (c.dropOp id).nextId = c.nextId := rfl
@[simp] theorem Chip.dropOp_draws (c : Chip) (id : Nat) : (c.dropOp id).draws = c.draws := rfl
@[simp] theorem Chip.dropOp_tick (c : Chip) (id : Nat) : (c.dropOp id).tick = c.tick := rfl
@[simp] theorem Chip.dropOp_cur (c : Chip) (id : Nat) : (c.dropOp id).cur = c.cur := rfl
@[simp] theorem Chip.dropOp_insn (c : Chip) (id : Nat) : (c.dropOp id).insn = c.insn := rfl

/-! ### releaseWide -/

/-- What an order that reaches the package leaves of a core: who wrote the lines of which it keeps an older copy is not known any more. -/
theorem Chip.releaseWide_core (c : Chip) (k : Nat) : c.releaseWide.core k =
    { c.core k with stale := (c.core k).stale.map fun (x : Nat × Older) => (x.1, { x.2 with writer := none }) } := by
  have h : ∀ (f : Core → Core) (t : Table Core), Table.get? (t.map fun e => (e.1, f e.2)) k = (Table.get? t k).map f := by
    intro f t
    induction t with
    | nil => rfl
    | cons e t ih => by_cases he : k = e.1 <;> simp_all [Table.get?]
  simp only [Chip.core, Chip.releaseWide]
  rw [h (fun q => { q with stale := q.stale.map fun (x : Nat × Older) => (x.1, { x.2 with writer := none }) })]
  cases Table.get? c.cores k <;> rfl

@[simp] theorem Chip.releaseWide_threads (c : Chip) : c.releaseWide.threads = c.threads := rfl
@[simp] theorem Chip.releaseWide_parts (c : Chip) : c.releaseWide.parts = c.parts := rfl
@[simp] theorem Chip.releaseWide_ops (c : Chip) : c.releaseWide.ops = c.ops := rfl
@[simp] theorem Chip.releaseWide_reqs (c : Chip) : c.releaseWide.reqs = c.reqs := rfl
@[simp] theorem Chip.releaseWide_mem (c : Chip) : c.releaseWide.mem = c.mem := rfl

end Sys2Proof.Machine
end

