-- ==== Sys2Proof/Laws/Issue.lean ====
section
/-!
SUPPORT. What an issue comes to: one lemma per outcome of the body of an instruction, and what starting an operation,
changing a counter and taking a trap leave.
-/

namespace Sys2Proof.Machine

/-! ### Tables mapped -/

theorem Table.get?_map {α : Type} (t : Table α) (f : Nat × α → Nat × α) (hf : ∀ e, (f e).1 = e.1) (k : Nat) :
    Table.get? (t.map f) k = (Table.get? t k).map fun v => (f (k, v)).2 := by
  induction t with
  | nil => rfl
  | cons e t ih =>
    obtain ⟨j, v⟩ := e
    have hj : f (j, v) = (j, (f (j, v)).2) := Prod.ext (hf (j, v)) rfl
    rw [List.map_cons, hj]
    by_cases h : k = j
    · subst h; simp [Table.get?]
    · simp [Table.get?, h, ih]

/-! ### Registers -/

@[simp] theorem Thread.regs_retire (t : Thread) (h : Hdr) (pc : Word) : (t.retire h pc).regs = t.regs := by
  unfold Thread.retire; split <;> rfl

@[simp] theorem Thread.pc_retire (t : Thread) (h : Hdr) (pc : Word) : (t.retire h pc).pc = pc := by
  unfold Thread.retire; split <;> rfl

@[simp] theorem Thread.queue_retire (t : Thread) (h : Hdr) (pc : Word) : (t.retire h pc).queue = t.queue := by
  unfold Thread.retire; split <;> rfl

@[simp] theorem Thread.live_retire (t : Thread) (h : Hdr) (pc : Word) : (t.retire h pc).live = t.live := by
  unfold Thread.retire; split <;> rfl

/-! ### Counters -/

/-- Threads after a change to a counter: a satisfied CWAIT goes on, nothing else. -/
theorem Chip.thread_setCounter (c : Chip) (k : Nat) (n : Ctr) (v : BitVec 8) (j : Nat) :
    (c.setCounter k n v).thread j =
      if (c.thread j).cwaits k j n v.toNat then (c.thread j).goOn else c.thread j := by
  have hsame : ∀ (c' : Chip), c'.threads = c.threads →
      ({ c' with threads := c'.threads.map fun e => if e.2.cwaits k e.1 n v.toNat then (e.1, e.2.goOn) else e } : Chip).thread j
        = if (c.thread j).cwaits k j n v.toNat then (c.thread j).goOn else c.thread j := by
    intro c' hc
    have key : ∀ o : Option Thread, (o.map fun t => (if t.cwaits k j n v.toNat then (j, t.goOn) else (j, t)).2).getD .empty
        = if (o.getD .empty).cwaits k j n v.toNat then (o.getD .empty).goOn else o.getD .empty := by
      intro o
      cases o with
      | none => simp [Thread.cwaits, Thread.empty]
      | some t => simp only [Option.map_some, Option.getD_some]; split <;> rfl
    simp only [Chip.thread, hc]
    rw [Table.get?_map _ _ (by intro e; split <;> rfl)]
    exact key _
  unfold Chip.setCounter
  simp only
  split
  · exact hsame _ rfl
  · exact hsame _ rfl

theorem Chip.data_setCounter (c : Chip) (k : Nat) (n : Ctr) (v : BitVec 8) : (c.setCounter k n v).data = c.data := by
  unfold Chip.setCounter
  simp only
  split <;> rfl

theorem Chip.ops_setCounter (c : Chip) (k : Nat) (n : Ctr) (v : BitVec 8) :
    (c.setCounter k n v).ops = c.ops ∧ (c.setCounter k n v).reqs = c.reqs ∧ (c.setCounter k n v).nextId = c.nextId := by
  unfold Chip.setCounter
  simp only
  split <;> exact ⟨rfl, rfl, rfl⟩

/-- Cores changed all alike keep what the change keeps. -/
theorem Chip.core_map (c : Chip) (g : Core → Core) (hg : ∀ q, (g q).data = q.data ∧ (g q).cc = q.cc) (j : Nat) :
    (({ c with cores := c.cores.map fun e => (e.1, g e.2) } : Chip).core j).data = (c.core j).data ∧
    (({ c with cores := c.cores.map fun e => (e.1, g e.2) } : Chip).core j).cc = (c.core j).cc := by
  have h := Table.get?_map c.cores (fun e => (e.1, g e.2)) (fun _ => rfl) j
  simp only [Chip.core, h]
  cases Table.get? c.cores j with
  | none => exact ⟨rfl, rfl⟩
  | some q => exact hg q

/-- What an acquire leaves of a core: everything but the older copies of its L1 (R357). -/
theorem Chip.core_acquireBut (c : Chip) (k : Nat) (s : AgentScope) (stay : Nat → Older → Bool) (j : Nat) :
    ((c.acquireBut k s stay).core j).data = (c.core j).data ∧ ((c.acquireBut k s stay).core j).cc = (c.core j).cc := by
  unfold Chip.acquireBut
  split_ifs
  · have hm := Chip.core_map c (fun q => { q with stale := q.stale.map fun x => (x.1, { x.2 with
      seen := x.2.seen ||| BitVec.twoPow 8 (dieOf k) }) }) (fun _ => ⟨rfl, rfl⟩) j
    by_cases h : j = k
    · subst h
      rw [Chip.core_modCore_self]
      exact hm
    · rw [Chip.core_modCore_ne _ _ h]
      exact hm
  · by_cases h : j = k
    · subst h; simp [Core.data]
    · simp [Chip.core_modCore_ne _ _ h]
  · by_cases h : j = k
    · subst h; simp [Core.data]
    · simp [Chip.core_modCore_ne _ _ h]

theorem Chip.core_acquire (c : Chip) (k : Nat) (s : AgentScope) (j : Nat) :
    ((c.acquire k s).core j).data = (c.core j).data ∧ ((c.acquire k s).core j).cc = (c.core j).cc :=
  Chip.core_acquireBut c k s _ j

theorem Chip.core_setCounter (c : Chip) (k : Nat) (n : Ctr) (v : BitVec 8) (j : Nat) :
    ((c.setCounter k n v).core j).data = (c.core j).data ∧
    ((c.setCounter k n v).core j).cc = if j = k then (c.core j).cc.set n v else (c.core j).cc := by
  have h0 : ((c.modCore k fun q => { q with cc := q.cc.set n v }).core j).data = (c.core j).data ∧
      ((c.modCore k fun q => { q with cc := q.cc.set n v }).core j).cc = if j = k then (c.core j).cc.set n v else (c.core j).cc := by
    by_cases h : j = k
    · subst h; simp [Core.data]
    · simp [Chip.core_modCore_ne _ _ h, h]
  unfold Chip.setCounter
  simp only
  split
  · have ha := Chip.core_acquire (c.modCore k fun q => { q with cc := q.cc.set n v }) k .core j
    exact ⟨ha.1.trans h0.1, ha.2.trans h0.2⟩
  · exact h0

/-! ### Operations -/

/-- The package with one operation more, before its counter counts. -/
def Chip.began (c : Chip) (a : Start) (body : OpBody) : Chip :=
  { (c.modThread c.cur fun t => t.alloc a.push c.nextId) with ops := c.ops ++ [c.newOp a body], nextId := c.nextId + 1 }

theorem opOf_eq (s : State) (a : Start) (body : OpBody) : s.opOf a body = s.chip.newOp a body := rfl

@[simp] theorem Thread.regs_alloc (t : Thread) (push : Bool) (id : Nat) : (t.alloc push id).regs = t.regs := rfl
@[simp] theorem Thread.pc_alloc (t : Thread) (push : Bool) (id : Nat) : (t.alloc push id).pc = t.pc := rfl

/-- What counting leaves: the counter goes up by 1, and no register, memory or operation changes. -/
theorem Chip.count_spec (c : Chip) (cc : Option Ctr) :
    (c.count cc).data = c.data ∧ (c.count cc).ops = c.ops ∧ (c.count cc).reqs = c.reqs ∧ (c.count cc).nextId = c.nextId ∧
    (∀ j, ((c.count cc).core j).data = (c.core j).data) ∧
    (∀ j (n : Ctr), ((c.count cc).core j).cc[n] = (c.core j).cc[n] + if j = coreOf c.cur ∧ cc = some n then 1 else 0) ∧
    ∀ j, ((c.count cc).thread j).regs = (c.thread j).regs ∧ ((c.count cc).thread j).pc = (c.thread j).pc ∧
      ((c.count cc).thread j).queue = (c.thread j).queue := by
  cases cc with
  | none => simp [Chip.count]
  | some k =>
    obtain ⟨ho, hr, hid⟩ := Chip.ops_setCounter c (coreOf c.cur) k ((c.core (coreOf c.cur)).cc[k] + 1)
    have hcore := Chip.core_setCounter c (coreOf c.cur) k ((c.core (coreOf c.cur)).cc[k] + 1)
    have ht := Chip.thread_setCounter c (coreOf c.cur) k ((c.core (coreOf c.cur)).cc[k] + 1)
    refine ⟨Chip.data_setCounter _ _ _ _, ho, hr, hid, fun j => (hcore j).1, ?_, ?_⟩
    · intro j m
      simp only [Chip.count, (hcore j).2, Option.some.injEq]
      by_cases hj : j = coreOf c.cur
      · subst hj
        by_cases hm : k = m
        · subst hm; simp
        · have : k.val ≠ m.val := fun e => hm (Fin.ext e)
          simp [hm, Vector.getElem_set_ne, this]
      · simp [hj]
    · intro j; simp only [Chip.count, ht j]; split <;> exact ⟨rfl, rfl, rfl⟩

theorem Chip.start_eq (c : Chip) (a : Start) (body : OpBody) : c.start a body = (c.began a body).count a.cc := rfl

theorem Chip.cur_of_data {c d : Chip} (h : c.data = d.data) : c.cur = d.cur := by have := congrArg Chip.cur h; exact this

/-- The issuing thread after a start: its registers and pc as before, and its slot. -/
theorem Chip.me_start (c : Chip) (a : Start) (body : OpBody) :
    ((c.start a body).thread c.cur).pc = (c.thread c.cur).pc ∧
    ((c.start a body).thread c.cur).queue = (if a.push then pushSlot (c.thread c.cur).queue c.nextId else (c.thread c.cur).queue) ∧
    ((c.start a body).thread c.cur).regs = (c.thread c.cur).regs := by
  obtain ⟨-, -, -, -, -, -, ht⟩ := Chip.count_spec (c.began a body) a.cc
  obtain ⟨h1, h2, h3⟩ := ht c.cur
  have h0 : (c.began a body).thread c.cur = (c.thread c.cur).alloc a.push c.nextId := by
    simp [Chip.began, Chip.thread, Chip.modThread]
  rw [h0] at h1 h2 h3
  exact ⟨h2, h3, h1⟩

/-- What starting an operation, sending requests and moving the pc leaves. -/
theorem begins_of_start (s : State) (h : Hdr) (a : Start) (body : OpBody) (pc : Word) (rs : List Req) :
    Begins s a body pc rs { s with chip :=
      ({ s.chip.start a body with reqs := (s.chip.start a body).reqs ++ rs }).modThread s.chip.cur fun t => t.retire h pc } := by
  obtain ⟨hd, ho, hr, hid, hcore, hcc, ht⟩ := Chip.count_spec (s.chip.began a body) a.cc
  rw [← Chip.start_eq] at hd ho hr hid hcore hcc ht
  obtain ⟨m1, m2, m3⟩ := Chip.me_start s.chip a body
  have hcur : (s.chip.start a body).cur = s.chip.cur := Chip.cur_of_data hd
  have hne : ∀ j, j ≠ s.chip.cur → (s.chip.began a body).thread j = s.chip.thread j := by
    intro j hj; simp [Chip.began, Chip.thread, Chip.modThread, Table.get?_put_ne _ _ hj]
  have hth : ∀ j, (({ s.chip.start a body with reqs := (s.chip.start a body).reqs ++ rs } : Chip).modThread s.chip.cur
      fun t => t.retire h pc).thread j =
      if j = s.chip.cur then ((s.chip.start a body).thread j).retire h pc else (s.chip.start a body).thread j := by
    intro j
    by_cases hj : j = s.chip.cur
    · subst hj; simp [Chip.thread, Chip.modThread]
    · simp [Chip.thread, Chip.modThread, Table.get?_put_ne _ _ hj, hj]
  refine { data := hd, core := hcore, thread := ?_, others := ?_, trust := rfl, issuing := rfl, inputs := rfl, pc := ?_,
           queue := ?_, ops := ho, nextId := hid, reqs := ?_, counters := hcc }
  · intro j
    rw [hth j]
    by_cases hj : j = s.chip.cur
    · subst hj; simp [m3]
    · simp only [hj, if_false]; rw [(ht j).1, hne j hj]
  · intro j hj
    rw [hth j]
    simp only [hj, if_false]
    rw [(ht j).2.1, (ht j).2.2, hne j hj]
    exact ⟨rfl, rfl⟩
  · have := hth s.chip.cur
    simp only [if_true] at this
    exact (congrArg Thread.pc ((congrArg _ hcur).trans this)).trans (by simp)
  · have := hth s.chip.cur
    simp only [if_true] at this
    exact (congrArg Thread.queue ((congrArg _ hcur).trans this)).trans (by simp [m2, State.me])
  · simp only [Chip.modThread_reqs, hr]
    rfl

/-! ### Issuing -/

/-- An issue in a context that holds a thread. -/
theorem issue_next {s : State} (hl : s.me.live = true) (f : Chip → Chip) : s.issue f = .next { s with chip := f s.chip } := by
  have h1 : (s.chip.thread s.chip.cur).live = true := hl
  simp [State.issue, h1]

/-- A body that is done. -/
theorem Chip.issue_done {c c' : Chip} {h : Hdr} {body : Chip → Eff} (hk : (c.thread c.cur).check h = none)
    (hb : body c = .done c') : c.issue h body = c'.modThread c.cur fun t => t.retire h (t.pc + 4) := by
  simp [Chip.issue, Chip.issueWith, hk, hb]

/-- A body that jumps. -/
theorem Chip.issue_jump {c c' : Chip} {h : Hdr} {body : Chip → Eff} {pc : Word} (hk : (c.thread c.cur).check h = none)
    (hb : body c = .jump c' pc) : c.issue h body = c'.modThread c.cur fun t => t.retire h pc := by
  simp [Chip.issue, Chip.issueWith, hk, hb]

/-- A body that holds its thread. -/
theorem Chip.issue_hold {c : Chip} {h : Hdr} {body : Chip → Eff} {p : Park} (hk : (c.thread c.cur).check h = none)
    (hb : body c = .hold p) : c.issue h body = c.modThread c.cur fun t => { t with park := p } := by
  simp [Chip.issue, Chip.issueWith, hk, hb]

/-- A body after which the thread has left its context. -/
theorem Chip.issue_left {c c' : Chip} {h : Hdr} {body : Chip → Eff} (hk : (c.thread c.cur).check h = none)
    (hb : body c = .left c') : c.issue h body = c' := by
  simp [Chip.issue, Chip.issueWith, hk, hb]

/-- A body that traps. -/
theorem Chip.issue_trap {c : Chip} {h : Hdr} {body : Chip → Eff} {cause : Cause} {addr : Word}
    (hk : (c.thread c.cur).check h = none) (hb : body c = .trap cause addr) :
    c.issue h body = c.raise cause 0 (h.opA (c.thread c.cur)) (h.opB (c.thread c.cur)) addr h.push h.dest (h.sw || h.ends) := by
  simp [Chip.issue, Chip.issueWith, hk, hb]

/-- An instruction that the decoder's checks refuse. -/
theorem Chip.issue_refused {c : Chip} {h : Hdr} {body : Chip → Eff} {cause : Cause} (hk : (c.thread c.cur).check h = some cause) :
    c.issue h body = c.raise cause 0 (h.opA (c.thread c.cur)) (h.opB (c.thread c.cur)) 0 h.push h.dest (h.sw || h.ends) h.srcs := by
  simp [Chip.issue, Chip.issueWith, hk]

/-- A trap at issue leaves everything but the thread that owes it. -/
theorem traps_of_raise (s : State) (cause : Cause) (code : Nat) (opA opB addr : Word) (pushes : Bool) (named : Dest) (ends : Bool)
    (srcs : Option Src × Option Src := (none, none)) :
    Traps s (s.trapOf cause code opA opB addr pushes named ends srcs)
      { s with chip := s.chip.raise cause code opA opB addr pushes named ends srcs } where
  me := by simp [State.me, Chip.raise, Chip.modThread, Chip.thread, State.trapOf]
  others := by intro j hj; simp [Chip.raise, Chip.modThread, Chip.thread, Table.get?_put_ne _ _ hj]
  rest := rfl
  trust := rfl

/-- A body that starts an operation, sends requests with it, and does no more. -/
theorem issue_sends {s : State} {h : Hdr} (hc : s.clear h) {f : Chip → Chip} {body : Chip → Eff} {a : Start} {ob : OpBody}
    {rs : List Req} (hf : f s.chip = s.chip.issue h body)
    (hb : body s.chip = .done { s.chip.start a ob with reqs := (s.chip.start a ob).reqs ++ rs }) :
    ∃ t, s.issue f = .next t ∧ Begins s a ob (s.me.pc + 4) rs t := by
  refine ⟨_, issue_next hc.1 f, ?_⟩
  rw [hf, Chip.issue_done hc.2 hb]
  have e : (({ s.chip.start a ob with reqs := (s.chip.start a ob).reqs ++ rs } : Chip).modThread s.chip.cur fun t => t.retire h (t.pc + 4)) =
      (({ s.chip.start a ob with reqs := (s.chip.start a ob).reqs ++ rs } : Chip).modThread s.chip.cur fun t => t.retire h (s.me.pc + 4)) := by
    have : (({ s.chip.start a ob with reqs := (s.chip.start a ob).reqs ++ rs } : Chip).thread s.chip.cur).pc = s.me.pc :=
      (Chip.me_start s.chip a ob).1
    simp only [Chip.modThread, this]
  rw [e]
  exact begins_of_start s h a ob _ rs

/-- A body that only starts an operation. -/
theorem issue_begins {s : State} {h : Hdr} (hc : s.clear h) {f : Chip → Chip} {body : Chip → Eff} {a : Start} {ob : OpBody}
    (hf : f s.chip = s.chip.issue h body) (hb : body s.chip = .done (s.chip.start a ob)) :
    ∃ t, s.issue f = .next t ∧ Begins s a ob (s.me.pc + 4) [] t :=
  issue_sends hc hf (by rw [hb, List.append_nil])

/-- A body that only pushes. -/
theorem issue_pushes {s : State} {h : Hdr} (hc : s.clear h) {f : Chip → Chip} {body : Chip → Eff} {d : Dest} {v : Word}
    {fl : BitVec 5} (hf : f s.chip = s.chip.issue h body) (hb : body s.chip = .done (s.chip.emit d v fl)) :
    ∃ t, s.issue f = .next t ∧ Pushes s d v fl t := issue_begins hc hf hb

/-- Moving the pc alone. -/
theorem moves_of_retire (s : State) (h : Hdr) (pc : Word) :
    Moves s pc { s with chip := s.chip.modThread s.chip.cur fun t => t.retire h pc } where
  data := rfl
  core _ := rfl
  thread j := by
    by_cases hj : j = s.chip.cur
    · subst hj; simp
    · simp [Chip.thread_modThread_ne _ _ hj]
  others j hj := by simp [Chip.thread_modThread_ne _ _ hj]
  trust := rfl
  issuing := rfl
  inputs := rfl
  pc := by simp [State.me, Chip.thread, Chip.modThread]
  queue := by simp [State.me, Chip.thread, Chip.modThread]
  ops := rfl
  reqs := rfl
  counters _ _ := rfl

/-- A body that traps leaves the trap owed. -/
theorem issue_traps {s : State} {h : Hdr} (hc : s.clear h) {f : Chip → Chip} {body : Chip → Eff} {cause : Cause} {addr : Word}
    (hf : f s.chip = s.chip.issue h body) (hb : body s.chip = .trap cause addr) :
    ∃ t, s.issue f = .next t ∧
      Traps s (s.trapOf cause 0 (h.opA s.me) (h.opB s.me) addr h.push h.dest (h.sw || h.ends)) t := by
  refine ⟨_, issue_next hc.1 f, ?_⟩
  rw [hf, Chip.issue_trap hc.2 hb]
  exact traps_of_raise ..

end Sys2Proof.Machine
end

