-- ==== Sys2Proof/Laws/PerInstr.lean ====
section
/-!
SUPPORT. Every word of a well-formed instruction decodes to it: one lemma per constructor (R46, R49).
-/

namespace Sys2Proof.Laws.RoundTrip

/-- The word of a well-formed instruction decodes to it. -/
def Statement (i : Instr) : Prop := i.wf = true → ∀ w, encode i = some w → decodeWord w = .ok i

end Sys2Proof.Laws.RoundTrip

namespace Sys2Proof

open Sys2Proof.Laws.RoundTrip
set_option Elab.async false
set_option linter.unusedSimpArgs false

theorem roundTrip_of_word {i : Instr} {w : IWord} (he : encode i = some w) (h : i.wf = true → decodeWord w = .ok i) :
    Statement i := fun hw x hx => by
  rw [he] at hx
  cases hx
  exact h hw

theorem Laws.RoundTrip.nop (sw : Bool) : Statement (.nop sw) :=
  roundTrip_of_word rfl fun hw => by
    simp (disch := decide) only [decodeWord_00, decSys, cut_hi, cut_lo, cut_all, Nat.reduceSub, ofBool_beq]
    try simp_all [Instr.wf, Except.bind]
theorem Laws.RoundTrip.trap (sw : Bool) (code : BitVec 10) : Statement (.trap sw code) :=
  roundTrip_of_word rfl fun hw => by
    simp (disch := decide) only [decodeWord_00, decSys, cut_hi, cut_lo, cut_all, Nat.reduceSub, ofBool_beq]
    try simp_all [Instr.wf, Except.bind]
    exact (BitVec.extractLsb'_append_extractLsb'_eq_extractLsb' (by decide)).trans (by simp)
theorem Laws.RoundTrip.tret (sw : Bool) (a : Src) : Statement (.tret sw a) :=
  roundTrip_of_word rfl fun hw => by
    simp (disch := decide) only [decodeWord_00, decSys, cut_hi, cut_lo, cut_all, Nat.reduceSub, ofBool_beq]
    try simp_all [Instr.wf, Except.bind]
theorem Laws.RoundTrip.genbump (sw : Bool) (d : Dest) (a : Src) : Statement (.genbump sw d a) :=
  roundTrip_of_word rfl fun hw => by
    simp (disch := decide) only [decodeWord_00, decSys, cut_hi, cut_lo, cut_all, Nat.reduceSub, ofBool_beq]
    try simp_all [Instr.wf, Except.bind]
theorem Laws.RoundTrip.pgdone (sw : Bool) (d : Dest) (a : Src) (b : Src) : Statement (.pgdone sw d a b) :=
  roundTrip_of_word rfl fun hw => by
    simp (disch := decide) only [decodeWord_00, decSys, cut_hi, cut_lo, cut_all, Nat.reduceSub, ofBool_beq]
    try simp_all [Instr.wf, Except.bind]
theorem Laws.RoundTrip.pqui (sw : Bool) (d : Dest) (a : Src) (b : Src) : Statement (.pqui sw d a b) :=
  roundTrip_of_word rfl fun hw => by
    simp (disch := decide) only [decodeWord_00, decSys, cut_hi, cut_lo, cut_all, Nat.reduceSub, ofBool_beq]
    try simp_all [Instr.wf, Except.bind]
theorem Laws.RoundTrip.pres (sw : Bool) (d : Dest) (a : Src) : Statement (.pres sw d a) :=
  roundTrip_of_word rfl fun hw => by
    simp (disch := decide) only [decodeWord_00, decSys, cut_hi, cut_lo, cut_all, Nat.reduceSub, ofBool_beq]
    try simp_all [Instr.wf, Except.bind]
theorem Laws.RoundTrip.cflush (sw : Bool) (a : Src) (b : Src) : Statement (.cflush sw a b) :=
  roundTrip_of_word rfl fun hw => by
    simp (disch := decide) only [decodeWord_00, decSys, cut_hi, cut_lo, cut_all, Nat.reduceSub, ofBool_beq]
    try simp_all [Instr.wf, Except.bind]
theorem Laws.RoundTrip.celfl (sw : Bool) : Statement (.celfl sw) :=
  roundTrip_of_word rfl fun hw => by
    simp (disch := decide) only [decodeWord_00, decSys, cut_hi, cut_lo, cut_all, Nat.reduceSub, ofBool_beq]
    try simp_all [Instr.wf, Except.bind]
theorem Laws.RoundTrip.add (sw : Bool) (d : Dest) (a : Src) (b : Src) (w : Bool) : Statement (.add sw d a b w) :=
  roundTrip_of_word rfl fun hw => by
    simp (disch := decide) only [decodeWord_01, decInt, cut_hi, cut_lo, cut_all, Nat.reduceSub, ofBool_beq]
    try simp_all [Instr.wf, Except.bind]
theorem Laws.RoundTrip.sub (sw : Bool) (d : Dest) (a : Src) (b : Src) (w : Bool) : Statement (.sub sw d a b w) :=
  roundTrip_of_word rfl fun hw => by
    simp (disch := decide) only [decodeWord_01, decInt, cut_hi, cut_lo, cut_all, Nat.reduceSub, ofBool_beq]
    try simp_all [Instr.wf, Except.bind]
theorem Laws.RoundTrip.mul (sw : Bool) (d : Dest) (a : Src) (b : Src) (w : Bool) : Statement (.mul sw d a b w) :=
  roundTrip_of_word rfl fun hw => by
    simp (disch := decide) only [decodeWord_01, decInt, cut_hi, cut_lo, cut_all, Nat.reduceSub, ofBool_beq]
    try simp_all [Instr.wf, Except.bind]
theorem Laws.RoundTrip.mulh (sw : Bool) (d : Dest) (a : Src) (b : Src) (w : Bool) : Statement (.mulh sw d a b w) :=
  roundTrip_of_word rfl fun hw => by
    simp (disch := decide) only [decodeWord_01, decInt, cut_hi, cut_lo, cut_all, Nat.reduceSub, ofBool_beq]
    try simp_all [Instr.wf, Except.bind]
theorem Laws.RoundTrip.mulhu (sw : Bool) (d : Dest) (a : Src) (b : Src) (w : Bool) : Statement (.mulhu sw d a b w) :=
  roundTrip_of_word rfl fun hw => by
    simp (disch := decide) only [decodeWord_01, decInt, cut_hi, cut_lo, cut_all, Nat.reduceSub, ofBool_beq]
    try simp_all [Instr.wf, Except.bind]
theorem Laws.RoundTrip.div (sw : Bool) (d : Dest) (a : Src) (b : Src) (w : Bool) : Statement (.div sw d a b w) :=
  roundTrip_of_word rfl fun hw => by
    simp (disch := decide) only [decodeWord_01, decInt, cut_hi, cut_lo, cut_all, Nat.reduceSub, ofBool_beq]
    try simp_all [Instr.wf, Except.bind]
theorem Laws.RoundTrip.divu (sw : Bool) (d : Dest) (a : Src) (b : Src) (w : Bool) : Statement (.divu sw d a b w) :=
  roundTrip_of_word rfl fun hw => by
    simp (disch := decide) only [decodeWord_01, decInt, cut_hi, cut_lo, cut_all, Nat.reduceSub, ofBool_beq]
    try simp_all [Instr.wf, Except.bind]
theorem Laws.RoundTrip.rem (sw : Bool) (d : Dest) (a : Src) (b : Src) (w : Bool) : Statement (.rem sw d a b w) :=
  roundTrip_of_word rfl fun hw => by
    simp (disch := decide) only [decodeWord_01, decInt, cut_hi, cut_lo, cut_all, Nat.reduceSub, ofBool_beq]
    try simp_all [Instr.wf, Except.bind]
theorem Laws.RoundTrip.remu (sw : Bool) (d : Dest) (a : Src) (b : Src) (w : Bool) : Statement (.remu sw d a b w) :=
  roundTrip_of_word rfl fun hw => by
    simp (disch := decide) only [decodeWord_01, decInt, cut_hi, cut_lo, cut_all, Nat.reduceSub, ofBool_beq]
    try simp_all [Instr.wf, Except.bind]
theorem Laws.RoundTrip.and (sw : Bool) (d : Dest) (a : Src) (b : Src) (w : Bool) : Statement (.and sw d a b w) :=
  roundTrip_of_word rfl fun hw => by
    simp (disch := decide) only [decodeWord_01, decInt, cut_hi, cut_lo, cut_all, Nat.reduceSub, ofBool_beq]
    try simp_all [Instr.wf, Except.bind]
theorem Laws.RoundTrip.or (sw : Bool) (d : Dest) (a : Src) (b : Src) (w : Bool) : Statement (.or sw d a b w) :=
  roundTrip_of_word rfl fun hw => by
    simp (disch := decide) only [decodeWord_01, decInt, cut_hi, cut_lo, cut_all, Nat.reduceSub, ofBool_beq]
    try simp_all [Instr.wf, Except.bind]
theorem Laws.RoundTrip.xor (sw : Bool) (d : Dest) (a : Src) (b : Src) (w : Bool) : Statement (.xor sw d a b w) :=
  roundTrip_of_word rfl fun hw => by
    simp (disch := decide) only [decodeWord_01, decInt, cut_hi, cut_lo, cut_all, Nat.reduceSub, ofBool_beq]
    try simp_all [Instr.wf, Except.bind]
theorem Laws.RoundTrip.andn (sw : Bool) (d : Dest) (a : Src) (b : Src) (w : Bool) : Statement (.andn sw d a b w) :=
  roundTrip_of_word rfl fun hw => by
    simp (disch := decide) only [decodeWord_01, decInt, cut_hi, cut_lo, cut_all, Nat.reduceSub, ofBool_beq]
    try simp_all [Instr.wf, Except.bind]
theorem Laws.RoundTrip.shl (sw : Bool) (d : Dest) (a : Src) (b : Src) (w : Bool) : Statement (.shl sw d a b w) :=
  roundTrip_of_word rfl fun hw => by
    simp (disch := decide) only [decodeWord_01, decInt, cut_hi, cut_lo, cut_all, Nat.reduceSub, ofBool_beq]
    try simp_all [Instr.wf, Except.bind]
theorem Laws.RoundTrip.shr (sw : Bool) (d : Dest) (a : Src) (b : Src) (w : Bool) : Statement (.shr sw d a b w) :=
  roundTrip_of_word rfl fun hw => by
    simp (disch := decide) only [decodeWord_01, decInt, cut_hi, cut_lo, cut_all, Nat.reduceSub, ofBool_beq]
    try simp_all [Instr.wf, Except.bind]
theorem Laws.RoundTrip.sra (sw : Bool) (d : Dest) (a : Src) (b : Src) (w : Bool) : Statement (.sra sw d a b w) :=
  roundTrip_of_word rfl fun hw => by
    simp (disch := decide) only [decodeWord_01, decInt, cut_hi, cut_lo, cut_all, Nat.reduceSub, ofBool_beq]
    try simp_all [Instr.wf, Except.bind]
theorem Laws.RoundTrip.ror (sw : Bool) (d : Dest) (a : Src) (b : Src) (w : Bool) : Statement (.ror sw d a b w) :=
  roundTrip_of_word rfl fun hw => by
    simp (disch := decide) only [decodeWord_01, decInt, cut_hi, cut_lo, cut_all, Nat.reduceSub, ofBool_beq]
    try simp_all [Instr.wf, Except.bind]
theorem Laws.RoundTrip.slt (sw : Bool) (d : Dest) (a : Src) (b : Src) (w : Bool) : Statement (.slt sw d a b w) :=
  roundTrip_of_word rfl fun hw => by
    simp (disch := decide) only [decodeWord_01, decInt, cut_hi, cut_lo, cut_all, Nat.reduceSub, ofBool_beq]
    try simp_all [Instr.wf, Except.bind]
theorem Laws.RoundTrip.sltu (sw : Bool) (d : Dest) (a : Src) (b : Src) (w : Bool) : Statement (.sltu sw d a b w) :=
  roundTrip_of_word rfl fun hw => by
    simp (disch := decide) only [decodeWord_01, decInt, cut_hi, cut_lo, cut_all, Nat.reduceSub, ofBool_beq]
    try simp_all [Instr.wf, Except.bind]
theorem Laws.RoundTrip.seq (sw : Bool) (d : Dest) (a : Src) (b : Src) (w : Bool) : Statement (.seq sw d a b w) :=
  roundTrip_of_word rfl fun hw => by
    simp (disch := decide) only [decodeWord_01, decInt, cut_hi, cut_lo, cut_all, Nat.reduceSub, ofBool_beq]
    try simp_all [Instr.wf, Except.bind]
theorem Laws.RoundTrip.min (sw : Bool) (d : Dest) (a : Src) (b : Src) (w : Bool) : Statement (.min sw d a b w) :=
  roundTrip_of_word rfl fun hw => by
    simp (disch := decide) only [decodeWord_01, decInt, cut_hi, cut_lo, cut_all, Nat.reduceSub, ofBool_beq]
    try simp_all [Instr.wf, Except.bind]
theorem Laws.RoundTrip.max (sw : Bool) (d : Dest) (a : Src) (b : Src) (w : Bool) : Statement (.max sw d a b w) :=
  roundTrip_of_word rfl fun hw => by
    simp (disch := decide) only [decodeWord_01, decInt, cut_hi, cut_lo, cut_all, Nat.reduceSub, ofBool_beq]
    try simp_all [Instr.wf, Except.bind]
theorem Laws.RoundTrip.minu (sw : Bool) (d : Dest) (a : Src) (b : Src) (w : Bool) : Statement (.minu sw d a b w) :=
  roundTrip_of_word rfl fun hw => by
    simp (disch := decide) only [decodeWord_01, decInt, cut_hi, cut_lo, cut_all, Nat.reduceSub, ofBool_beq]
    try simp_all [Instr.wf, Except.bind]
theorem Laws.RoundTrip.maxu (sw : Bool) (d : Dest) (a : Src) (b : Src) (w : Bool) : Statement (.maxu sw d a b w) :=
  roundTrip_of_word rfl fun hw => by
    simp (disch := decide) only [decodeWord_01, decInt, cut_hi, cut_lo, cut_all, Nat.reduceSub, ofBool_beq]
    try simp_all [Instr.wf, Except.bind]
theorem Laws.RoundTrip.clz (sw : Bool) (d : Dest) (a : Src) (w : Bool) : Statement (.clz sw d a w) :=
  roundTrip_of_word rfl fun hw => by
    simp (disch := decide) only [decodeWord_01, decInt, cut_hi, cut_lo, cut_all, Nat.reduceSub, ofBool_beq]
    try simp_all [Instr.wf, Except.bind]
theorem Laws.RoundTrip.ctz (sw : Bool) (d : Dest) (a : Src) (w : Bool) : Statement (.ctz sw d a w) :=
  roundTrip_of_word rfl fun hw => by
    simp (disch := decide) only [decodeWord_01, decInt, cut_hi, cut_lo, cut_all, Nat.reduceSub, ofBool_beq]
    try simp_all [Instr.wf, Except.bind]
theorem Laws.RoundTrip.popc (sw : Bool) (d : Dest) (a : Src) (w : Bool) : Statement (.popc sw d a w) :=
  roundTrip_of_word rfl fun hw => by
    simp (disch := decide) only [decodeWord_01, decInt, cut_hi, cut_lo, cut_all, Nat.reduceSub, ofBool_beq]
    try simp_all [Instr.wf, Except.bind]
theorem Laws.RoundTrip.sext (sw : Bool) (d : Dest) (a : Src) (b : Src) (w : Bool) : Statement (.sext sw d a b w) :=
  roundTrip_of_word rfl fun hw => by
    simp (disch := decide) only [decodeWord_01, decInt, cut_hi, cut_lo, cut_all, Nat.reduceSub, ofBool_beq]
    try simp_all [Instr.wf, Except.bind]
theorem Laws.RoundTrip.zext (sw : Bool) (d : Dest) (a : Src) (b : Src) (w : Bool) : Statement (.zext sw d a b w) :=
  roundTrip_of_word rfl fun hw => by
    simp (disch := decide) only [decodeWord_01, decInt, cut_hi, cut_lo, cut_all, Nat.reduceSub, ofBool_beq]
    try simp_all [Instr.wf, Except.bind]
theorem Laws.RoundTrip.addi (sw : Bool) (d : Dest) (a : Src) (imm : BitVec 15) : Statement (.addi sw d a imm) :=
  roundTrip_of_word rfl fun hw => by
    simp (disch := decide) only [decodeWord_02, cut_hi, cut_lo, cut_all, Nat.reduceSub, ofBool_beq]
    try simp_all [Instr.wf, Except.bind]
theorem Laws.RoundTrip.andi (sw : Bool) (d : Dest) (a : Src) (imm : BitVec 15) : Statement (.andi sw d a imm) :=
  roundTrip_of_word rfl fun hw => by
    simp (disch := decide) only [decodeWord_03, cut_hi, cut_lo, cut_all, Nat.reduceSub, ofBool_beq]
    try simp_all [Instr.wf, Except.bind]
theorem Laws.RoundTrip.ori (sw : Bool) (d : Dest) (a : Src) (imm : BitVec 15) : Statement (.ori sw d a imm) :=
  roundTrip_of_word rfl fun hw => by
    simp (disch := decide) only [decodeWord_04, cut_hi, cut_lo, cut_all, Nat.reduceSub, ofBool_beq]
    try simp_all [Instr.wf, Except.bind]
theorem Laws.RoundTrip.xori (sw : Bool) (d : Dest) (a : Src) (imm : BitVec 15) : Statement (.xori sw d a imm) :=
  roundTrip_of_word rfl fun hw => by
    simp (disch := decide) only [decodeWord_05, cut_hi, cut_lo, cut_all, Nat.reduceSub, ofBool_beq]
    try simp_all [Instr.wf, Except.bind]
theorem Laws.RoundTrip.shli (sw : Bool) (d : Dest) (a : Src) (sh : BitVec 6) : Statement (.shli sw d a sh) :=
  roundTrip_of_word rfl fun hw => by
    simp (disch := decide) only [decodeWord_06, decShift, cut_hi, cut_lo, cut_all, Nat.reduceSub, ofBool_beq]
    try simp_all [Instr.wf, Except.bind]
theorem Laws.RoundTrip.shri (sw : Bool) (d : Dest) (a : Src) (sh : BitVec 6) : Statement (.shri sw d a sh) :=
  roundTrip_of_word rfl fun hw => by
    simp (disch := decide) only [decodeWord_07, decShift, cut_hi, cut_lo, cut_all, Nat.reduceSub, ofBool_beq]
    try simp_all [Instr.wf, Except.bind]
theorem Laws.RoundTrip.srai (sw : Bool) (d : Dest) (a : Src) (sh : BitVec 6) : Statement (.srai sw d a sh) :=
  roundTrip_of_word rfl fun hw => by
    simp (disch := decide) only [decodeWord_08, decShift, cut_hi, cut_lo, cut_all, Nat.reduceSub, ofBool_beq]
    try simp_all [Instr.wf, Except.bind]
theorem Laws.RoundTrip.slti (sw : Bool) (d : Dest) (a : Src) (imm : BitVec 15) : Statement (.slti sw d a imm) :=
  roundTrip_of_word rfl fun hw => by
    simp (disch := decide) only [decodeWord_09, cut_hi, cut_lo, cut_all, Nat.reduceSub, ofBool_beq]
    try simp_all [Instr.wf, Except.bind]
theorem Laws.RoundTrip.sltiu (sw : Bool) (d : Dest) (a : Src) (imm : BitVec 15) : Statement (.sltiu sw d a imm) :=
  roundTrip_of_word rfl fun hw => by
    simp (disch := decide) only [decodeWord_0A, cut_hi, cut_lo, cut_all, Nat.reduceSub, ofBool_beq]
    try simp_all [Instr.wf, Except.bind]
theorem Laws.RoundTrip.ldi (sw : Bool) (d : Dest) (imm : BitVec 20) : Statement (.ldi sw d imm) :=
  roundTrip_of_word rfl fun hw => by
    simp (disch := decide) only [decodeWord_0B, cut_hi, cut_lo, cut_all, Nat.reduceSub, ofBool_beq]
    try simp_all [Instr.wf, Except.bind]
theorem Laws.RoundTrip.ldpc (sw : Bool) (d : Dest) (imm : BitVec 20) : Statement (.ldpc sw d imm) :=
  roundTrip_of_word rfl fun hw => by
    simp (disch := decide) only [decodeWord_0C, cut_hi, cut_lo, cut_all, Nat.reduceSub, ofBool_beq]
    try simp_all [Instr.wf, Except.bind]
theorem Laws.RoundTrip.hmake (sw : Bool) (d : Dest) (a : Src) (b : Src) : Statement (.hmake sw d a b) :=
  roundTrip_of_word rfl fun hw => by
    simp (disch := decide) only [decodeWord_0D, decHnd, cut_hi, cut_lo, cut_all, Nat.reduceSub, ofBool_beq]
    try simp_all [Instr.wf, Except.bind]
theorem Laws.RoundTrip.hidx (sw : Bool) (d : Dest) (a : Src) (b : Src) : Statement (.hidx sw d a b) :=
  roundTrip_of_word rfl fun hw => by
    simp (disch := decide) only [decodeWord_0D, decHnd, cut_hi, cut_lo, cut_all, Nat.reduceSub, ofBool_beq]
    try simp_all [Instr.wf, Except.bind]
theorem Laws.RoundTrip.hver (sw : Bool) (d : Dest) (a : Src) (b : Src) : Statement (.hver sw d a b) :=
  roundTrip_of_word rfl fun hw => by
    simp (disch := decide) only [decodeWord_0D, decHnd, cut_hi, cut_lo, cut_all, Nat.reduceSub, ofBool_beq]
    try simp_all [Instr.wf, Except.bind]
theorem Laws.RoundTrip.hfld (sw : Bool) (d : Dest) (a : Src) (b : Src) : Statement (.hfld sw d a b) :=
  roundTrip_of_word rfl fun hw => by
    simp (disch := decide) only [decodeWord_0D, decHnd, cut_hi, cut_lo, cut_all, Nat.reduceSub, ofBool_beq]
    try simp_all [Instr.wf, Except.bind]
theorem Laws.RoundTrip.br (sw : Bool) (cond : Cond) (a : Src) (b : Src) (disp : BitVec 12) : Statement (.br sw cond a b disp) :=
  roundTrip_of_word rfl fun hw => by
    simp (disch := decide) only [decodeWord_0E, decBr, cut_hi, cut_lo, cut_all, Nat.reduceSub, ofBool_beq]
    try simp_all [Instr.wf, Except.bind]
    rcases hw with hw | rfl
    · cases cond <;> simp_all [Cond.enc]
    · exact fun _ => rfl
theorem Laws.RoundTrip.j (sw : Bool) (disp : BitVec 25) : Statement (.j sw disp) :=
  roundTrip_of_word rfl fun hw => by
    simp (disch := decide) only [decodeWord_0F, cut_hi, cut_lo, cut_all, Nat.reduceSub, ofBool_beq]
    try simp_all [Instr.wf, Except.bind]
theorem Laws.RoundTrip.call (sw : Bool) (disp : BitVec 25) : Statement (.call sw disp) :=
  roundTrip_of_word rfl fun hw => by
    simp (disch := decide) only [decodeWord_10, cut_hi, cut_lo, cut_all, Nat.reduceSub, ofBool_beq]
    try simp_all [Instr.wf, Except.bind]
theorem Laws.RoundTrip.jr (sw : Bool) (a : Src) : Statement (.jr sw a) :=
  roundTrip_of_word rfl fun hw => by
    simp (disch := decide) only [decodeWord_11, decJr, cut_hi, cut_lo, cut_all, Nat.reduceSub, ofBool_beq]
    try simp_all [Instr.wf, Except.bind]
theorem Laws.RoundTrip.jrCall (sw : Bool) (a : Src) : Statement (.jrCall sw a) :=
  roundTrip_of_word rfl fun hw => by
    simp (disch := decide) only [decodeWord_11, decJr, cut_hi, cut_lo, cut_all, Nat.reduceSub, ofBool_beq]
    try simp_all [Instr.wf, Except.bind]
theorem Laws.RoundTrip.ld (sw : Bool) (d : Dest) (a : Src) (wd : LdWidth) (imm : BitVec 12) : Statement (.ld sw d a wd imm) :=
  roundTrip_of_word rfl fun hw => by
    simp (disch := decide) only [decodeWord_12, cut_hi, cut_lo, cut_all, Nat.reduceSub, ofBool_beq]
    try simp_all [Instr.wf, Except.bind]
theorem Laws.RoundTrip.st (sw : Bool) (data : Src) (base : Src) (wd : StWidth) (imm : BitVec 12) : Statement (.st sw data base wd imm) :=
  roundTrip_of_word rfl fun hw => by
    simp (disch := decide) only [decodeWord_13, cut_hi, cut_lo, cut_all, Nat.reduceSub, ofBool_beq]
    try simp_all [Instr.wf, Except.bind]
theorem Laws.RoundTrip.ldl (sw : Bool) (d : Dest) (a : Src) (wd : LdWidth) (imm : BitVec 12) : Statement (.ldl sw d a wd imm) :=
  roundTrip_of_word rfl fun hw => by
    simp (disch := decide) only [decodeWord_14, cut_hi, cut_lo, cut_all, Nat.reduceSub, ofBool_beq]
    try simp_all [Instr.wf, Except.bind]
theorem Laws.RoundTrip.stl (sw : Bool) (data : Src) (base : Src) (wd : StWidth) (imm : BitVec 12) : Statement (.stl sw data base wd imm) :=
  roundTrip_of_word rfl fun hw => by
    simp (disch := decide) only [decodeWord_15, cut_hi, cut_lo, cut_all, Nat.reduceSub, ofBool_beq]
    try simp_all [Instr.wf, Except.bind]
theorem Laws.RoundTrip.amoAdd (sw : Bool) (d : Dest) (a : Src) (b : Src) (wd : AmoWidth) (ord : Order) (sc : AmoScope) : Statement (.amoAdd sw d a b wd ord sc) :=
  roundTrip_of_word rfl fun hw => by
    simp (disch := decide) only [decodeWord_16, decAmo, cut_hi, cut_lo, cut_all, Nat.reduceSub, ofBool_beq]
    try simp_all [Instr.wf, Except.bind]
theorem Laws.RoundTrip.amoAnd (sw : Bool) (d : Dest) (a : Src) (b : Src) (wd : AmoWidth) (ord : Order) (sc : AmoScope) : Statement (.amoAnd sw d a b wd ord sc) :=
  roundTrip_of_word rfl fun hw => by
    simp (disch := decide) only [decodeWord_16, decAmo, cut_hi, cut_lo, cut_all, Nat.reduceSub, ofBool_beq]
    try simp_all [Instr.wf, Except.bind]
theorem Laws.RoundTrip.amoOr (sw : Bool) (d : Dest) (a : Src) (b : Src) (wd : AmoWidth) (ord : Order) (sc : AmoScope) : Statement (.amoOr sw d a b wd ord sc) :=
  roundTrip_of_word rfl fun hw => by
    simp (disch := decide) only [decodeWord_16, decAmo, cut_hi, cut_lo, cut_all, Nat.reduceSub, ofBool_beq]
    try simp_all [Instr.wf, Except.bind]
theorem Laws.RoundTrip.amoXor (sw : Bool) (d : Dest) (a : Src) (b : Src) (wd : AmoWidth) (ord : Order) (sc : AmoScope) : Statement (.amoXor sw d a b wd ord sc) :=
  roundTrip_of_word rfl fun hw => by
    simp (disch := decide) only [decodeWord_16, decAmo, cut_hi, cut_lo, cut_all, Nat.reduceSub, ofBool_beq]
    try simp_all [Instr.wf, Except.bind]
theorem Laws.RoundTrip.amoMin (sw : Bool) (d : Dest) (a : Src) (b : Src) (wd : AmoWidth) (ord : Order) (sc : AmoScope) : Statement (.amoMin sw d a b wd ord sc) :=
  roundTrip_of_word rfl fun hw => by
    simp (disch := decide) only [decodeWord_16, decAmo, cut_hi, cut_lo, cut_all, Nat.reduceSub, ofBool_beq]
    try simp_all [Instr.wf, Except.bind]
theorem Laws.RoundTrip.amoMax (sw : Bool) (d : Dest) (a : Src) (b : Src) (wd : AmoWidth) (ord : Order) (sc : AmoScope) : Statement (.amoMax sw d a b wd ord sc) :=
  roundTrip_of_word rfl fun hw => by
    simp (disch := decide) only [decodeWord_16, decAmo, cut_hi, cut_lo, cut_all, Nat.reduceSub, ofBool_beq]
    try simp_all [Instr.wf, Except.bind]
theorem Laws.RoundTrip.amoMinu (sw : Bool) (d : Dest) (a : Src) (b : Src) (wd : AmoWidth) (ord : Order) (sc : AmoScope) : Statement (.amoMinu sw d a b wd ord sc) :=
  roundTrip_of_word rfl fun hw => by
    simp (disch := decide) only [decodeWord_16, decAmo, cut_hi, cut_lo, cut_all, Nat.reduceSub, ofBool_beq]
    try simp_all [Instr.wf, Except.bind]
theorem Laws.RoundTrip.amoMaxu (sw : Bool) (d : Dest) (a : Src) (b : Src) (wd : AmoWidth) (ord : Order) (sc : AmoScope) : Statement (.amoMaxu sw d a b wd ord sc) :=
  roundTrip_of_word rfl fun hw => by
    simp (disch := decide) only [decodeWord_16, decAmo, cut_hi, cut_lo, cut_all, Nat.reduceSub, ofBool_beq]
    try simp_all [Instr.wf, Except.bind]
theorem Laws.RoundTrip.amoSwap (sw : Bool) (d : Dest) (a : Src) (b : Src) (wd : AmoWidth) (ord : Order) (sc : AmoScope) : Statement (.amoSwap sw d a b wd ord sc) :=
  roundTrip_of_word rfl fun hw => by
    simp (disch := decide) only [decodeWord_16, decAmo, cut_hi, cut_lo, cut_all, Nat.reduceSub, ofBool_beq]
    try simp_all [Instr.wf, Except.bind]
theorem Laws.RoundTrip.amoFaddF32 (sw : Bool) (d : Dest) (a : Src) (b : Src) (ord : Order) (sc : AmoScope) : Statement (.amoFaddF32 sw d a b ord sc) :=
  roundTrip_of_word rfl fun hw => by
    simp (disch := decide) only [decodeWord_16, decAmo, cut_hi, cut_lo, cut_all, Nat.reduceSub, ofBool_beq]
    try simp_all [Instr.wf, Except.bind]
theorem Laws.RoundTrip.amoFaddF64 (sw : Bool) (d : Dest) (a : Src) (b : Src) (ord : Order) (sc : AmoScope) : Statement (.amoFaddF64 sw d a b ord sc) :=
  roundTrip_of_word rfl fun hw => by
    simp (disch := decide) only [decodeWord_16, decAmo, cut_hi, cut_lo, cut_all, Nat.reduceSub, ofBool_beq]
    try simp_all [Instr.wf, Except.bind]
theorem Laws.RoundTrip.cas (sw : Bool) (e : Src) (a : Src) (b : Src) (wd : AmoWidth) (ord : Order) (sc : AmoScope) : Statement (.cas sw e a b wd ord sc) :=
  roundTrip_of_word rfl fun hw => by
    simp (disch := decide) only [decodeWord_17, decCas, cut_hi, cut_lo, cut_all, Nat.reduceSub, ofBool_beq]
    try simp_all [Instr.wf, Except.bind]
theorem Laws.RoundTrip.fncFull (sw : Bool) (a : Src) (b : Src) (all : Bool) (mask : BitVec 3) (sc : AgentScope) : Statement (.fncFull sw a b all mask sc) :=
  roundTrip_of_word rfl fun hw => by
    simp (disch := decide) only [decodeWord_18, decFnc, fncOk, cut_hi, cut_lo, cut_all, Nat.reduceSub, ofBool_beq]
    try simp_all [Instr.wf, Except.bind]
    intro h
    rcases hw.2 with h' | ⟨rfl, rfl⟩
    · simp_all
    · exact ⟨rfl, rfl⟩
theorem Laws.RoundTrip.fncAcq (sw : Bool) (a : Src) (b : Src) (all : Bool) (mask : BitVec 3) (sc : AgentScope) : Statement (.fncAcq sw a b all mask sc) :=
  roundTrip_of_word rfl fun hw => by
    simp (disch := decide) only [decodeWord_18, decFnc, fncOk, cut_hi, cut_lo, cut_all, Nat.reduceSub, ofBool_beq]
    try simp_all [Instr.wf, Except.bind]
    intro h
    rcases hw.2 with h' | ⟨rfl, rfl⟩
    · simp_all
    · exact ⟨rfl, rfl⟩
theorem Laws.RoundTrip.fncRel (sw : Bool) (a : Src) (b : Src) (all : Bool) (mask : BitVec 3) (sc : AgentScope) : Statement (.fncRel sw a b all mask sc) :=
  roundTrip_of_word rfl fun hw => by
    simp (disch := decide) only [decodeWord_18, decFnc, fncOk, cut_hi, cut_lo, cut_all, Nat.reduceSub, ofBool_beq]
    try simp_all [Instr.wf, Except.bind]
    intro h
    rcases hw.2 with h' | ⟨rfl, rfl⟩
    · simp_all
    · exact ⟨rfl, rfl⟩
theorem Laws.RoundTrip.fncReg (sw : Bool) (a : Src) (b : Src) (all : Bool) (mask : BitVec 3) (sc : AgentScope) : Statement (.fncReg sw a b all mask sc) :=
  roundTrip_of_word rfl fun hw => by
    simp (disch := decide) only [decodeWord_18, decFnc, fncOk, cut_hi, cut_lo, cut_all, Nat.reduceSub, ofBool_beq]
    try simp_all [Instr.wf, Except.bind]
    obtain ⟨hm, h⟩ := hw
    refine ⟨?_, ?_, ?_⟩
    · rintro rfl
      simp at hm
    · rcases h with h | ⟨rfl, rfl⟩
      · exact .inl h
      · exact .inr ⟨rfl, rfl⟩
    · revert mask
      decide
theorem Laws.RoundTrip.pref (sw : Bool) (a : Src) (b : Src) : Statement (.pref sw a b) :=
  roundTrip_of_word rfl fun hw => by
    simp (disch := decide) only [decodeWord_19, decMemx, cut_hi, cut_lo, cut_all, Nat.reduceSub, ofBool_beq]
    try simp_all [Instr.wf, Except.bind]
theorem Laws.RoundTrip.mwait (sw : Bool) (d : Dest) (a : Src) (b : Src) : Statement (.mwait sw d a b) :=
  roundTrip_of_word rfl fun hw => by
    simp (disch := decide) only [decodeWord_19, decMemx, cut_hi, cut_lo, cut_all, Nat.reduceSub, ofBool_beq]
    try simp_all [Instr.wf, Except.bind]
theorem Laws.RoundTrip.cwait (sw : Bool) (t : BitVec 5) (k : Ctr) : Statement (.cwait sw t k) :=
  roundTrip_of_word rfl fun hw => by
    simp (disch := decide) only [decodeWord_19, decMemx, cut_hi, cut_lo, cut_all, Nat.reduceSub, ofBool_beq]
    try simp_all [Instr.wf, Except.bind]
theorem Laws.RoundTrip.cinc (sw : Bool) (a : Src) (k : Ctr) : Statement (.cinc sw a k) :=
  roundTrip_of_word rfl fun hw => by
    simp (disch := decide) only [decodeWord_19, decMemx, cut_hi, cut_lo, cut_all, Nat.reduceSub, ofBool_beq]
    try simp_all [Instr.wf, Except.bind]
theorem Laws.RoundTrip.crd (sw : Bool) (d : Dest) (k : Ctr) : Statement (.crd sw d k) :=
  roundTrip_of_word rfl fun hw => by
    simp (disch := decide) only [decodeWord_19, decMemx, cut_hi, cut_lo, cut_all, Nat.reduceSub, ofBool_beq]
    try simp_all [Instr.wf, Except.bind]
theorem Laws.RoundTrip.fadd (sw : Bool) (d : Dest) (a : Src) (b : Src) (rm : Rnd) (p : Prec) : Statement (.fadd sw d a b rm p) :=
  roundTrip_of_word rfl fun hw => by
    simp (disch := decide) only [decodeWord_1A, decFp, cut_hi, cut_lo, cut_all, Nat.reduceSub, ofBool_beq]
    try simp_all [Instr.wf, Except.bind]
theorem Laws.RoundTrip.fsub (sw : Bool) (d : Dest) (a : Src) (b : Src) (rm : Rnd) (p : Prec) : Statement (.fsub sw d a b rm p) :=
  roundTrip_of_word rfl fun hw => by
    simp (disch := decide) only [decodeWord_1A, decFp, cut_hi, cut_lo, cut_all, Nat.reduceSub, ofBool_beq]
    try simp_all [Instr.wf, Except.bind]
theorem Laws.RoundTrip.fmul (sw : Bool) (d : Dest) (a : Src) (b : Src) (rm : Rnd) (p : Prec) : Statement (.fmul sw d a b rm p) :=
  roundTrip_of_word rfl fun hw => by
    simp (disch := decide) only [decodeWord_1A, decFp, cut_hi, cut_lo, cut_all, Nat.reduceSub, ofBool_beq]
    try simp_all [Instr.wf, Except.bind]
theorem Laws.RoundTrip.fdiv (sw : Bool) (d : Dest) (a : Src) (b : Src) (rm : Rnd) (p : Prec) : Statement (.fdiv sw d a b rm p) :=
  roundTrip_of_word rfl fun hw => by
    simp (disch := decide) only [decodeWord_1A, decFp, cut_hi, cut_lo, cut_all, Nat.reduceSub, ofBool_beq]
    try simp_all [Instr.wf, Except.bind]
theorem Laws.RoundTrip.fsqrt (sw : Bool) (d : Dest) (a : Src) (rm : Rnd) (p : Prec) : Statement (.fsqrt sw d a rm p) :=
  roundTrip_of_word rfl fun hw => by
    simp (disch := decide) only [decodeWord_1A, decFp, cut_hi, cut_lo, cut_all, Nat.reduceSub, ofBool_beq]
    try simp_all [Instr.wf, Except.bind]
theorem Laws.RoundTrip.fma (sw : Bool) (c : Src) (a : Src) (b : Src) (rm : Rnd) (p : Prec) : Statement (.fma sw c a b rm p) :=
  roundTrip_of_word rfl fun hw => by
    simp (disch := decide) only [decodeWord_1A, decFp, cut_hi, cut_lo, cut_all, Nat.reduceSub, ofBool_beq]
    try simp_all [Instr.wf, Except.bind]
theorem Laws.RoundTrip.fmin (sw : Bool) (d : Dest) (a : Src) (b : Src) (p : Prec) : Statement (.fmin sw d a b p) :=
  roundTrip_of_word rfl fun hw => by
    simp (disch := decide) only [decodeWord_1A, decFp, cut_hi, cut_lo, cut_all, Nat.reduceSub, ofBool_beq]
    try simp_all [Instr.wf, Except.bind]
theorem Laws.RoundTrip.fmax (sw : Bool) (d : Dest) (a : Src) (b : Src) (p : Prec) : Statement (.fmax sw d a b p) :=
  roundTrip_of_word rfl fun hw => by
    simp (disch := decide) only [decodeWord_1A, decFp, cut_hi, cut_lo, cut_all, Nat.reduceSub, ofBool_beq]
    try simp_all [Instr.wf, Except.bind]
theorem Laws.RoundTrip.fcmp (sw : Bool) (d : Dest) (a : Src) (b : Src) (pred : FPred) (p : Prec) : Statement (.fcmp sw d a b pred p) :=
  roundTrip_of_word rfl fun hw => by
    simp (disch := decide) only [decodeWord_1A, decFp, cut_hi, cut_lo, cut_all, Nat.reduceSub, ofBool_beq]
    try simp_all [Instr.wf, Except.bind]
theorem Laws.RoundTrip.fcvt (sw : Bool) (d : Dest) (a : Src) (kind : CvtKind) (rm : Rnd) (p : Prec) : Statement (.fcvt sw d a kind rm p) :=
  roundTrip_of_word rfl fun hw => by
    simp (disch := decide) only [decodeWord_1A, decFp, cut_hi, cut_lo, cut_all, Nat.reduceSub, ofBool_beq]
    try simp_all [Instr.wf, Except.bind]
theorem Laws.RoundTrip.fclass (sw : Bool) (d : Dest) (a : Src) (p : Prec) : Statement (.fclass sw d a p) :=
  roundTrip_of_word rfl fun hw => by
    simp (disch := decide) only [decodeWord_1A, decFp, cut_hi, cut_lo, cut_all, Nat.reduceSub, ofBool_beq]
    try simp_all [Instr.wf, Except.bind]
theorem Laws.RoundTrip.vaddFp (sw : Bool) (vd : VReg) (va : VReg) (vb : VReg) (et : EType) (m : Mask) (q : Bool) : Statement (.vaddFp sw vd va vb et m q) :=
  roundTrip_of_word rfl fun hw => by
    simp (disch := decide) only [decodeWord_1B, decVfp, cut_hi, cut_lo, cut_all, Nat.reduceSub, ofBool_beq]
    try simp_all [Instr.wf, Except.bind]
theorem Laws.RoundTrip.vsubFp (sw : Bool) (vd : VReg) (va : VReg) (vb : VReg) (et : EType) (m : Mask) (q : Bool) : Statement (.vsubFp sw vd va vb et m q) :=
  roundTrip_of_word rfl fun hw => by
    simp (disch := decide) only [decodeWord_1B, decVfp, cut_hi, cut_lo, cut_all, Nat.reduceSub, ofBool_beq]
    try simp_all [Instr.wf, Except.bind]
theorem Laws.RoundTrip.vmulFp (sw : Bool) (vd : VReg) (va : VReg) (vb : VReg) (et : EType) (m : Mask) (q : Bool) : Statement (.vmulFp sw vd va vb et m q) :=
  roundTrip_of_word rfl fun hw => by
    simp (disch := decide) only [decodeWord_1B, decVfp, cut_hi, cut_lo, cut_all, Nat.reduceSub, ofBool_beq]
    try simp_all [Instr.wf, Except.bind]
theorem Laws.RoundTrip.vfma (sw : Bool) (vd : VReg) (va : VReg) (vb : VReg) (vc : VReg) (et : EType) (m : Mask) (q : Bool) : Statement (.vfma sw vd va vb vc et m q) :=
  roundTrip_of_word rfl fun hw => by
    simp (disch := decide) only [decodeWord_1B, decVfp, cut_hi, cut_lo, cut_all, Nat.reduceSub, ofBool_beq]
    try simp_all [Instr.wf, Except.bind]
theorem Laws.RoundTrip.vfnma (sw : Bool) (vd : VReg) (va : VReg) (vb : VReg) (vc : VReg) (et : EType) (m : Mask) (q : Bool) : Statement (.vfnma sw vd va vb vc et m q) :=
  roundTrip_of_word rfl fun hw => by
    simp (disch := decide) only [decodeWord_1B, decVfp, cut_hi, cut_lo, cut_all, Nat.reduceSub, ofBool_beq]
    try simp_all [Instr.wf, Except.bind]
theorem Laws.RoundTrip.vdiv (sw : Bool) (vd : VReg) (va : VReg) (vb : VReg) (et : EType) (m : Mask) (q : Bool) : Statement (.vdiv sw vd va vb et m q) :=
  roundTrip_of_word rfl fun hw => by
    simp (disch := decide) only [decodeWord_1B, decVfp, cut_hi, cut_lo, cut_all, Nat.reduceSub, ofBool_beq]
    try simp_all [Instr.wf, Except.bind]
theorem Laws.RoundTrip.vsqrt (sw : Bool) (vd : VReg) (va : VReg) (et : EType) (m : Mask) (q : Bool) : Statement (.vsqrt sw vd va et m q) :=
  roundTrip_of_word rfl fun hw => by
    simp (disch := decide) only [decodeWord_1B, decVfp, cut_hi, cut_lo, cut_all, Nat.reduceSub, ofBool_beq]
    try simp_all [Instr.wf, Except.bind]
theorem Laws.RoundTrip.vrsq (sw : Bool) (vd : VReg) (va : VReg) (et : EType) (m : Mask) (q : Bool) : Statement (.vrsq sw vd va et m q) :=
  roundTrip_of_word rfl fun hw => by
    simp (disch := decide) only [decodeWord_1B, decVfp, cut_hi, cut_lo, cut_all, Nat.reduceSub, ofBool_beq]
    try simp_all [Instr.wf, Except.bind]
theorem Laws.RoundTrip.vexp2 (sw : Bool) (vd : VReg) (va : VReg) (et : EType) (m : Mask) (q : Bool) : Statement (.vexp2 sw vd va et m q) :=
  roundTrip_of_word rfl fun hw => by
    simp (disch := decide) only [decodeWord_1B, decVfp, cut_hi, cut_lo, cut_all, Nat.reduceSub, ofBool_beq]
    try simp_all [Instr.wf, Except.bind]
theorem Laws.RoundTrip.vlog2 (sw : Bool) (vd : VReg) (va : VReg) (et : EType) (m : Mask) (q : Bool) : Statement (.vlog2 sw vd va et m q) :=
  roundTrip_of_word rfl fun hw => by
    simp (disch := decide) only [decodeWord_1B, decVfp, cut_hi, cut_lo, cut_all, Nat.reduceSub, ofBool_beq]
    try simp_all [Instr.wf, Except.bind]
theorem Laws.RoundTrip.vminFp (sw : Bool) (vd : VReg) (va : VReg) (vb : VReg) (et : EType) (m : Mask) (q : Bool) : Statement (.vminFp sw vd va vb et m q) :=
  roundTrip_of_word rfl fun hw => by
    simp (disch := decide) only [decodeWord_1B, decVfp, cut_hi, cut_lo, cut_all, Nat.reduceSub, ofBool_beq]
    try simp_all [Instr.wf, Except.bind]
theorem Laws.RoundTrip.vmaxFp (sw : Bool) (vd : VReg) (va : VReg) (vb : VReg) (et : EType) (m : Mask) (q : Bool) : Statement (.vmaxFp sw vd va vb et m q) :=
  roundTrip_of_word rfl fun hw => by
    simp (disch := decide) only [decodeWord_1B, decVfp, cut_hi, cut_lo, cut_all, Nat.reduceSub, ofBool_beq]
    try simp_all [Instr.wf, Except.bind]
theorem Laws.RoundTrip.vabsFp (sw : Bool) (vd : VReg) (va : VReg) (et : EType) (m : Mask) (q : Bool) : Statement (.vabsFp sw vd va et m q) :=
  roundTrip_of_word rfl fun hw => by
    simp (disch := decide) only [decodeWord_1B, decVfp, cut_hi, cut_lo, cut_all, Nat.reduceSub, ofBool_beq]
    try simp_all [Instr.wf, Except.bind]
theorem Laws.RoundTrip.vnegFp (sw : Bool) (vd : VReg) (va : VReg) (et : EType) (m : Mask) (q : Bool) : Statement (.vnegFp sw vd va et m q) :=
  roundTrip_of_word rfl fun hw => by
    simp (disch := decide) only [decodeWord_1B, decVfp, cut_hi, cut_lo, cut_all, Nat.reduceSub, ofBool_beq]
    try simp_all [Instr.wf, Except.bind]
theorem Laws.RoundTrip.vaddInt (sw : Bool) (vd : VReg) (va : VReg) (vb : VReg) (et : EType) (m : Mask) (q : Bool) : Statement (.vaddInt sw vd va vb et m q) :=
  roundTrip_of_word rfl fun hw => by
    simp (disch := decide) only [decodeWord_1C, decVint, cut_hi, cut_lo, cut_all, Nat.reduceSub, ofBool_beq]
    try simp_all [Instr.wf, Except.bind]
theorem Laws.RoundTrip.vsubInt (sw : Bool) (vd : VReg) (va : VReg) (vb : VReg) (et : EType) (m : Mask) (q : Bool) : Statement (.vsubInt sw vd va vb et m q) :=
  roundTrip_of_word rfl fun hw => by
    simp (disch := decide) only [decodeWord_1C, decVint, cut_hi, cut_lo, cut_all, Nat.reduceSub, ofBool_beq]
    try simp_all [Instr.wf, Except.bind]
theorem Laws.RoundTrip.vmulInt (sw : Bool) (vd : VReg) (va : VReg) (vb : VReg) (et : EType) (m : Mask) (q : Bool) : Statement (.vmulInt sw vd va vb et m q) :=
  roundTrip_of_word rfl fun hw => by
    simp (disch := decide) only [decodeWord_1C, decVint, cut_hi, cut_lo, cut_all, Nat.reduceSub, ofBool_beq]
    try simp_all [Instr.wf, Except.bind]
theorem Laws.RoundTrip.vminInt (sw : Bool) (vd : VReg) (va : VReg) (vb : VReg) (et : EType) (m : Mask) (q : Bool) : Statement (.vminInt sw vd va vb et m q) :=
  roundTrip_of_word rfl fun hw => by
    simp (disch := decide) only [decodeWord_1C, decVint, cut_hi, cut_lo, cut_all, Nat.reduceSub, ofBool_beq]
    try simp_all [Instr.wf, Except.bind]
theorem Laws.RoundTrip.vmaxInt (sw : Bool) (vd : VReg) (va : VReg) (vb : VReg) (et : EType) (m : Mask) (q : Bool) : Statement (.vmaxInt sw vd va vb et m q) :=
  roundTrip_of_word rfl fun hw => by
    simp (disch := decide) only [decodeWord_1C, decVint, cut_hi, cut_lo, cut_all, Nat.reduceSub, ofBool_beq]
    try simp_all [Instr.wf, Except.bind]
theorem Laws.RoundTrip.vminu (sw : Bool) (vd : VReg) (va : VReg) (vb : VReg) (et : EType) (m : Mask) (q : Bool) : Statement (.vminu sw vd va vb et m q) :=
  roundTrip_of_word rfl fun hw => by
    simp (disch := decide) only [decodeWord_1C, decVint, cut_hi, cut_lo, cut_all, Nat.reduceSub, ofBool_beq]
    try simp_all [Instr.wf, Except.bind]
theorem Laws.RoundTrip.vmaxu (sw : Bool) (vd : VReg) (va : VReg) (vb : VReg) (et : EType) (m : Mask) (q : Bool) : Statement (.vmaxu sw vd va vb et m q) :=
  roundTrip_of_word rfl fun hw => by
    simp (disch := decide) only [decodeWord_1C, decVint, cut_hi, cut_lo, cut_all, Nat.reduceSub, ofBool_beq]
    try simp_all [Instr.wf, Except.bind]
theorem Laws.RoundTrip.vabsInt (sw : Bool) (vd : VReg) (va : VReg) (et : EType) (m : Mask) (q : Bool) : Statement (.vabsInt sw vd va et m q) :=
  roundTrip_of_word rfl fun hw => by
    simp (disch := decide) only [decodeWord_1C, decVint, cut_hi, cut_lo, cut_all, Nat.reduceSub, ofBool_beq]
    try simp_all [Instr.wf, Except.bind]
theorem Laws.RoundTrip.vnegInt (sw : Bool) (vd : VReg) (va : VReg) (et : EType) (m : Mask) (q : Bool) : Statement (.vnegInt sw vd va et m q) :=
  roundTrip_of_word rfl fun hw => by
    simp (disch := decide) only [decodeWord_1C, decVint, cut_hi, cut_lo, cut_all, Nat.reduceSub, ofBool_beq]
    try simp_all [Instr.wf, Except.bind]
theorem Laws.RoundTrip.vand (sw : Bool) (vd : VReg) (va : VReg) (vb : VReg) (et : EType) (m : Mask) (q : Bool) : Statement (.vand sw vd va vb et m q) :=
  roundTrip_of_word rfl fun hw => by
    simp (disch := decide) only [decodeWord_1C, decVint, cut_hi, cut_lo, cut_all, Nat.reduceSub, ofBool_beq]
    try simp_all [Instr.wf, Except.bind]
theorem Laws.RoundTrip.vor (sw : Bool) (vd : VReg) (va : VReg) (vb : VReg) (et : EType) (m : Mask) (q : Bool) : Statement (.vor sw vd va vb et m q) :=
  roundTrip_of_word rfl fun hw => by
    simp (disch := decide) only [decodeWord_1C, decVint, cut_hi, cut_lo, cut_all, Nat.reduceSub, ofBool_beq]
    try simp_all [Instr.wf, Except.bind]
theorem Laws.RoundTrip.vxor (sw : Bool) (vd : VReg) (va : VReg) (vb : VReg) (et : EType) (m : Mask) (q : Bool) : Statement (.vxor sw vd va vb et m q) :=
  roundTrip_of_word rfl fun hw => by
    simp (disch := decide) only [decodeWord_1C, decVint, cut_hi, cut_lo, cut_all, Nat.reduceSub, ofBool_beq]
    try simp_all [Instr.wf, Except.bind]
theorem Laws.RoundTrip.vnot (sw : Bool) (vd : VReg) (va : VReg) (et : EType) (m : Mask) (q : Bool) : Statement (.vnot sw vd va et m q) :=
  roundTrip_of_word rfl fun hw => by
    simp (disch := decide) only [decodeWord_1C, decVint, cut_hi, cut_lo, cut_all, Nat.reduceSub, ofBool_beq]
    try simp_all [Instr.wf, Except.bind]
theorem Laws.RoundTrip.vshl (sw : Bool) (vd : VReg) (va : VReg) (vb : VReg) (et : EType) (m : Mask) (q : Bool) : Statement (.vshl sw vd va vb et m q) :=
  roundTrip_of_word rfl fun hw => by
    simp (disch := decide) only [decodeWord_1C, decVint, cut_hi, cut_lo, cut_all, Nat.reduceSub, ofBool_beq]
    try simp_all [Instr.wf, Except.bind]
theorem Laws.RoundTrip.vshr (sw : Bool) (vd : VReg) (va : VReg) (vb : VReg) (et : EType) (m : Mask) (q : Bool) : Statement (.vshr sw vd va vb et m q) :=
  roundTrip_of_word rfl fun hw => by
    simp (disch := decide) only [decodeWord_1C, decVint, cut_hi, cut_lo, cut_all, Nat.reduceSub, ofBool_beq]
    try simp_all [Instr.wf, Except.bind]
theorem Laws.RoundTrip.vsra (sw : Bool) (vd : VReg) (va : VReg) (vb : VReg) (et : EType) (m : Mask) (q : Bool) : Statement (.vsra sw vd va vb et m q) :=
  roundTrip_of_word rfl fun hw => by
    simp (disch := decide) only [decodeWord_1C, decVint, cut_hi, cut_lo, cut_all, Nat.reduceSub, ofBool_beq]
    try simp_all [Instr.wf, Except.bind]
theorem Laws.RoundTrip.vld (sw : Bool) (vd : VReg) (s : Src) (et : EType) (m : Mask) (q : Bool) : Statement (.vld sw vd s et m q) :=
  roundTrip_of_word rfl fun hw => by
    simp (disch := decide) only [decodeWord_1D, decVmem, cut_hi, cut_lo, cut_all, Nat.reduceSub, ofBool_beq]
    try simp_all [Instr.wf, Except.bind]
theorem Laws.RoundTrip.vst (sw : Bool) (vd : VReg) (s : Src) (et : EType) (m : Mask) (q : Bool) : Statement (.vst sw vd s et m q) :=
  roundTrip_of_word rfl fun hw => by
    simp (disch := decide) only [decodeWord_1D, decVmem, cut_hi, cut_lo, cut_all, Nat.reduceSub, ofBool_beq]
    try simp_all [Instr.wf, Except.bind]
theorem Laws.RoundTrip.vldg (sw : Bool) (vd : VReg) (s : Src) (et : EType) (m : Mask) (q : Bool) : Statement (.vldg sw vd s et m q) :=
  roundTrip_of_word rfl fun hw => by
    simp (disch := decide) only [decodeWord_1D, decVmem, cut_hi, cut_lo, cut_all, Nat.reduceSub, ofBool_beq]
    try simp_all [Instr.wf, Except.bind]
theorem Laws.RoundTrip.vstg (sw : Bool) (vd : VReg) (s : Src) (et : EType) (m : Mask) (q : Bool) : Statement (.vstg sw vd s et m q) :=
  roundTrip_of_word rfl fun hw => by
    simp (disch := decide) only [decodeWord_1D, decVmem, cut_hi, cut_lo, cut_all, Nat.reduceSub, ofBool_beq]
    try simp_all [Instr.wf, Except.bind]
theorem Laws.RoundTrip.vgath (sw : Bool) (vd : VReg) (va : VReg) (s : Src) (et : EType) (m : Mask) (q : Bool) : Statement (.vgath sw vd va s et m q) :=
  roundTrip_of_word rfl fun hw => by
    simp (disch := decide) only [decodeWord_1D, decVmem, cut_hi, cut_lo, cut_all, Nat.reduceSub, ofBool_beq]
    try simp_all [Instr.wf, Except.bind]
theorem Laws.RoundTrip.vscat (sw : Bool) (vd : VReg) (va : VReg) (s : Src) (et : EType) (m : Mask) (q : Bool) : Statement (.vscat sw vd va s et m q) :=
  roundTrip_of_word rfl fun hw => by
    simp (disch := decide) only [decodeWord_1D, decVmem, cut_hi, cut_lo, cut_all, Nat.reduceSub, ofBool_beq]
    try simp_all [Instr.wf, Except.bind]
theorem Laws.RoundTrip.vbc (sw : Bool) (vd : VReg) (s : Src) (et : EType) (m : Mask) (q : Bool) : Statement (.vbc sw vd s et m q) :=
  roundTrip_of_word rfl fun hw => by
    simp (disch := decide) only [decodeWord_1EVS, decVmisc, decVmiscS, decVmiscV, mskOk, packV_funct, packVS_funct, viaV_packV, viaVS_packVS, cut_hi, cut_lo, cut_all, Nat.reduceSub, ofBool_beq]
    try simp_all [Instr.wf, Except.bind]
theorem Laws.RoundTrip.vext (sw : Bool) (va : VReg) (s : Src) (et : EType) (q : Bool) : Statement (.vext sw va s et q) :=
  roundTrip_of_word rfl fun hw => by
    simp (disch := decide) only [decodeWord_1EVS, decVmisc, decVmiscS, decVmiscV, mskOk, packV_funct, packVS_funct, viaV_packV, viaVS_packVS, cut_hi, cut_lo, cut_all, Nat.reduceSub, ofBool_beq]
    try simp_all [Instr.wf, Except.bind]
theorem Laws.RoundTrip.vmov (sw : Bool) (vd : VReg) (va : VReg) (et : EType) (m : Mask) (q : Bool) : Statement (.vmov sw vd va et m q) :=
  roundTrip_of_word rfl fun hw => by
    simp (disch := decide) only [decodeWord_1EV, decVmisc, decVmiscS, decVmiscV, mskOk, packV_funct, packVS_funct, viaV_packV, viaVS_packVS, cut_hi, cut_lo, cut_all, Nat.reduceSub, ofBool_beq]
    try simp_all [Instr.wf, Except.bind]
theorem Laws.RoundTrip.vcmp (sw : Bool) (vd : VReg) (va : VReg) (vb : VReg) (cond : VCond) (et : EType) (m : Mask) (q : Bool) : Statement (.vcmp sw vd va vb cond et m q) :=
  roundTrip_of_word rfl fun hw => by
    simp (disch := decide) only [decodeWord_1EV, decVmisc, decVmiscS, decVmiscV, mskOk, packV_funct, packVS_funct, viaV_packV, viaVS_packVS, cut_hi, cut_lo, cut_all, Nat.reduceSub, ofBool_beq]
    try simp_all [Instr.wf, Except.bind]
theorem Laws.RoundTrip.vsel (sw : Bool) (vd : VReg) (va : VReg) (vb : VReg) (et : EType) (m : Mask) (q : Bool) : Statement (.vsel sw vd va vb et m q) :=
  roundTrip_of_word rfl fun hw => by
    simp (disch := decide) only [decodeWord_1EV, decVmisc, decVmiscS, decVmiscV, mskOk, packV_funct, packVS_funct, viaV_packV, viaVS_packVS, cut_hi, cut_lo, cut_all, Nat.reduceSub, ofBool_beq]
    try simp_all [Instr.wf, Except.bind]
theorem Laws.RoundTrip.vcvt (sw : Bool) (vd : VReg) (va : VReg) (p : BitVec 3) (t : EType) (et : EType) (m : Mask) (q : Bool) : Statement (.vcvt sw vd va p t et m q) :=
  roundTrip_of_word rfl fun hw => by
    simp (disch := decide) only [decodeWord_1EV, decVmisc, decVmiscS, decVmiscV, mskOk, packV_funct, packVS_funct, viaV_packV, viaVS_packVS, cut_hi, cut_lo, cut_all, Nat.reduceSub, ofBool_beq]
    try simp_all [Instr.wf, Except.bind]
theorem Laws.RoundTrip.vred (sw : Bool) (va : VReg) (op : RedOp) (et : EType) (m : Mask) (q : Bool) : Statement (.vred sw va op et m q) :=
  roundTrip_of_word rfl fun hw => by
    simp (disch := decide) only [decodeWord_1EV, decVmisc, decVmiscS, decVmiscV, mskOk, packV_funct, packVS_funct, viaV_packV, viaVS_packVS, cut_hi, cut_lo, cut_all, Nat.reduceSub, ofBool_beq]
    try simp_all [Instr.wf, Except.bind]
theorem Laws.RoundTrip.vscan (sw : Bool) (vd : VReg) (va : VReg) (op : ScanOp) (et : EType) (m : Mask) (q : Bool) : Statement (.vscan sw vd va op et m q) :=
  roundTrip_of_word rfl fun hw => by
    simp (disch := decide) only [decodeWord_1EV, decVmisc, decVmiscS, decVmiscV, mskOk, packV_funct, packVS_funct, viaV_packV, viaVS_packVS, cut_hi, cut_lo, cut_all, Nat.reduceSub, ofBool_beq]
    try simp_all [Instr.wf, Except.bind]
theorem Laws.RoundTrip.vcmpr (sw : Bool) (vd : VReg) (va : VReg) (et : EType) (m : Mask) (q : Bool) : Statement (.vcmpr sw vd va et m q) :=
  roundTrip_of_word rfl fun hw => by
    simp (disch := decide) only [decodeWord_1EV, decVmisc, decVmiscS, decVmiscV, mskOk, packV_funct, packVS_funct, viaV_packV, viaVS_packVS, cut_hi, cut_lo, cut_all, Nat.reduceSub, ofBool_beq]
    try simp_all [Instr.wf, Except.bind]
theorem Laws.RoundTrip.vexpd (sw : Bool) (vd : VReg) (va : VReg) (et : EType) (m : Mask) (q : Bool) : Statement (.vexpd sw vd va et m q) :=
  roundTrip_of_word rfl fun hw => by
    simp (disch := decide) only [decodeWord_1EV, decVmisc, decVmiscS, decVmiscV, mskOk, packV_funct, packVS_funct, viaV_packV, viaVS_packVS, cut_hi, cut_lo, cut_all, Nat.reduceSub, ofBool_beq]
    try simp_all [Instr.wf, Except.bind]
theorem Laws.RoundTrip.vperm (sw : Bool) (vd : VReg) (va : VReg) (vb : VReg) (et : EType) (m : Mask) (q : Bool) : Statement (.vperm sw vd va vb et m q) :=
  roundTrip_of_word rfl fun hw => by
    simp (disch := decide) only [decodeWord_1EV, decVmisc, decVmiscS, decVmiscV, mskOk, packV_funct, packVS_funct, viaV_packV, viaVS_packVS, cut_hi, cut_lo, cut_all, Nat.reduceSub, ofBool_beq]
    try simp_all [Instr.wf, Except.bind]
theorem Laws.RoundTrip.viota (sw : Bool) (vd : VReg) (et : EType) (m : Mask) (q : Bool) : Statement (.viota sw vd et m q) :=
  roundTrip_of_word rfl fun hw => by
    simp (disch := decide) only [decodeWord_1EV, decVmisc, decVmiscS, decVmiscV, mskOk, packV_funct, packVS_funct, viaV_packV, viaVS_packVS, cut_hi, cut_lo, cut_all, Nat.reduceSub, ofBool_beq]
    try simp_all [Instr.wf, Except.bind]
theorem Laws.RoundTrip.vcnt (sw : Bool) (et : EType) (m : Mask) (q : Bool) : Statement (.vcnt sw et m q) :=
  roundTrip_of_word rfl fun hw => by
    simp (disch := decide) only [decodeWord_1EV, decVmisc, decVmiscS, decVmiscV, mskOk, packV_funct, packVS_funct, viaV_packV, viaVS_packVS, cut_hi, cut_lo, cut_all, Nat.reduceSub, ofBool_beq]
    try simp_all [Instr.wf, Except.bind]
theorem Laws.RoundTrip.vmsk (sw : Bool) (vd : VReg) (va : VReg) (vb : VReg) (op : MskOp) (et : EType) (q : Bool) : Statement (.vmsk sw vd va vb op et q) :=
  roundTrip_of_word rfl fun hw => by
    simp (disch := decide) only [decodeWord_1EV, decVmisc, decVmiscS, decVmiscV, mskOk, packV_funct, packVS_funct, viaV_packV, viaVS_packVS, cut_hi, cut_lo, cut_all, Nat.reduceSub, ofBool_beq]
    try simp_all [Instr.wf, Except.bind]
    rcases hw with hw | rfl
    · cases op <;> simp_all [MskOp.enc]
    · exact fun _ => rfl
theorem Laws.RoundTrip.vamax (sw : Bool) (vd : VReg) (va : VReg) (et : EType) (m : Mask) (q : Bool) : Statement (.vamax sw vd va et m q) :=
  roundTrip_of_word rfl fun hw => by
    simp (disch := decide) only [decodeWord_1EV, decVmisc, decVmiscS, decVmiscV, mskOk, packV_funct, packVS_funct, viaV_packV, viaVS_packVS, cut_hi, cut_lo, cut_all, Nat.reduceSub, ofBool_beq]
    try simp_all [Instr.wf, Except.bind]
theorem Laws.RoundTrip.vqnt (sw : Bool) (vd : VReg) (va : VReg) (raw : BitVec 3) (nf : Narrow) (et : EType) (m : Mask) (q : Bool) : Statement (.vqnt sw vd va raw nf et m q) :=
  roundTrip_of_word rfl fun hw => by
    simp (disch := decide) only [decodeWord_1EV, decVmisc, decVmiscS, decVmiscV, mskOk, packV_funct, packVS_funct, viaV_packV, viaVS_packVS, cut_hi, cut_lo, cut_all, Nat.reduceSub, ofBool_beq]
    try simp_all [Instr.wf, Except.bind]
theorem Laws.RoundTrip.vdq (sw : Bool) (vd : VReg) (va : VReg) (raw : BitVec 3) (nf : Narrow) (et : EType) (m : Mask) (q : Bool) : Statement (.vdq sw vd va raw nf et m q) :=
  roundTrip_of_word rfl fun hw => by
    simp (disch := decide) only [decodeWord_1EV, decVmisc, decVmiscS, decVmiscV, mskOk, packV_funct, packVS_funct, viaV_packV, viaVS_packVS, cut_hi, cut_lo, cut_all, Nat.reduceSub, ofBool_beq]
    try simp_all [Instr.wf, Except.bind]
theorem Laws.RoundTrip.vflrd (sw : Bool) (vd : VReg) (m : Mask) (q : Bool) : Statement (.vflrd sw vd m q) :=
  roundTrip_of_word rfl fun hw => by
    simp (disch := decide) only [decodeWord_1EV, decVmisc, decVmiscS, decVmiscV, mskOk, packV_funct, packVS_funct, viaV_packV, viaVS_packVS, cut_hi, cut_lo, cut_all, Nat.reduceSub, ofBool_beq]
    try simp_all [Instr.wf, Except.bind]
theorem Laws.RoundTrip.vflcl (sw : Bool) (m : Mask) (q : Bool) : Statement (.vflcl sw m q) :=
  roundTrip_of_word rfl fun hw => by
    simp (disch := decide) only [decodeWord_1EV, decVmisc, decVmiscS, decVmiscV, mskOk, packV_funct, packVS_funct, viaV_packV, viaVS_packVS, cut_hi, cut_lo, cut_all, Nat.reduceSub, ofBool_beq]
    try simp_all [Instr.wf, Except.bind]
theorem Laws.RoundTrip.vcvtz (sw : Bool) (vd : VReg) (va : VReg) (p : BitVec 3) (t : EType) (et : EType) (m : Mask) (q : Bool) : Statement (.vcvtz sw vd va p t et m q) :=
  roundTrip_of_word rfl fun hw => by
    simp (disch := decide) only [decodeWord_1EV, decVmisc, decVmiscS, decVmiscV, mskOk, packV_funct, packVS_funct, viaV_packV, viaVS_packVS, cut_hi, cut_lo, cut_all, Nat.reduceSub, ofBool_beq]
    try simp_all [Instr.wf, Except.bind]
theorem Laws.RoundTrip.tld (sw : Bool) (a : Src) (b : Src) (cc : Ctr) (det : Bool) (keep : Bool) : Statement (.tld sw a b cc det keep) :=
  roundTrip_of_word rfl fun hw => by
    simp (disch := decide) only [decodeWord_20, decTile, cut_hi, cut_lo, cut_all, Nat.reduceSub, ofBool_beq]
    try simp_all [Instr.wf, Except.bind]
theorem Laws.RoundTrip.tldv (sw : Bool) (a : Src) (cc : Ctr) (v : VReg) (keep : Bool) : Statement (.tldv sw a cc v keep) :=
  roundTrip_of_word rfl fun hw => by
    simp (disch := decide) only [decodeWord_20, decTile, cut_hi, cut_lo, cut_all, Nat.reduceSub, ofBool_beq]
    try simp_all [Instr.wf, Except.bind]
theorem Laws.RoundTrip.tst (sw : Bool) (a : Src) (b : Src) (cc : Ctr) (det : Bool) : Statement (.tst sw a b cc det) :=
  roundTrip_of_word rfl fun hw => by
    simp (disch := decide) only [decodeWord_20, decTile, cut_hi, cut_lo, cut_all, Nat.reduceSub, ofBool_beq]
    try simp_all [Instr.wf, Except.bind]
theorem Laws.RoundTrip.tstv (sw : Bool) (a : Src) (b : Src) (cc : Ctr) (det : Bool) (v : VReg) : Statement (.tstv sw a b cc det v) :=
  roundTrip_of_word rfl fun hw => by
    simp (disch := decide) only [decodeWord_20, decTile, cut_hi, cut_lo, cut_all, Nat.reduceSub, ofBool_beq]
    try simp_all [Instr.wf, Except.bind]
theorem Laws.RoundTrip.talias (sw : Bool) (a : Src) (b : Src) (cc : Ctr) (det : Bool) : Statement (.talias sw a b cc det) :=
  roundTrip_of_word rfl fun hw => by
    simp (disch := decide) only [decodeWord_20, decTile, cut_hi, cut_lo, cut_all, Nat.reduceSub, ofBool_beq]
    try simp_all [Instr.wf, Except.bind]
theorem Laws.RoundTrip.twait (sw : Bool) (a : Src) (cc : Ctr) (det : Bool) : Statement (.twait sw a cc det) :=
  roundTrip_of_word rfl fun hw => by
    simp (disch := decide) only [decodeWord_20, decTile, cut_hi, cut_lo, cut_all, Nat.reduceSub, ofBool_beq]
    try simp_all [Instr.wf, Except.bind]
theorem Laws.RoundTrip.tprobe (sw : Bool) (a : Src) (cc : Ctr) (det : Bool) : Statement (.tprobe sw a cc det) :=
  roundTrip_of_word rfl fun hw => by
    simp (disch := decide) only [decodeWord_20, decTile, cut_hi, cut_lo, cut_all, Nat.reduceSub, ofBool_beq]
    try simp_all [Instr.wf, Except.bind]
theorem Laws.RoundTrip.tadd (sw : Bool) (a : Src) (b : Src) (cc : Ctr) (det : Bool) : Statement (.tadd sw a b cc det) :=
  roundTrip_of_word rfl fun hw => by
    simp (disch := decide) only [decodeWord_20, decTile, cut_hi, cut_lo, cut_all, Nat.reduceSub, ofBool_beq]
    try simp_all [Instr.wf, Except.bind]
theorem Laws.RoundTrip.trel (sw : Bool) (a : Src) (b : Src) (cc : Ctr) (det : Bool) : Statement (.trel sw a b cc det) :=
  roundTrip_of_word rfl fun hw => by
    simp (disch := decide) only [decodeWord_20, decTile, cut_hi, cut_lo, cut_all, Nat.reduceSub, ofBool_beq]
    try simp_all [Instr.wf, Except.bind]
theorem Laws.RoundTrip.tdig (sw : Bool) (a : Src) (cc : Ctr) (det : Bool) (hi : Bool) : Statement (.tdig sw a cc det hi) :=
  roundTrip_of_word rfl fun hw => by
    simp (disch := decide) only [decodeWord_20, decTile, cut_hi, cut_lo, cut_all, Nat.reduceSub, ofBool_beq]
    try simp_all [Instr.wf, Except.bind]
theorem Laws.RoundTrip.tinfo (sw : Bool) (a : Src) (cc : Ctr) (det : Bool) : Statement (.tinfo sw a cc det) :=
  roundTrip_of_word rfl fun hw => by
    simp (disch := decide) only [decodeWord_20, decTile, cut_hi, cut_lo, cut_all, Nat.reduceSub, ofBool_beq]
    try simp_all [Instr.wf, Except.bind]
theorem Laws.RoundTrip.tspace (sw : Bool) (a : Src) (b : Src) (cc : Ctr) (det : Bool) : Statement (.tspace sw a b cc det) :=
  roundTrip_of_word rfl fun hw => by
    simp (disch := decide) only [decodeWord_20, decTile, cut_hi, cut_lo, cut_all, Nat.reduceSub, ofBool_beq]
    try simp_all [Instr.wf, Except.bind]
theorem Laws.RoundTrip.timp (sw : Bool) (a : Src) (b : Src) (cc : Ctr) (det : Bool) : Statement (.timp sw a b cc det) :=
  roundTrip_of_word rfl fun hw => by
    simp (disch := decide) only [decodeWord_20, decTile, cut_hi, cut_lo, cut_all, Nat.reduceSub, ofBool_beq]
    try simp_all [Instr.wf, Except.bind]
theorem Laws.RoundTrip.texp (sw : Bool) (a : Src) (b : Src) (cc : Ctr) (det : Bool) (keep : Bool) : Statement (.texp sw a b cc det keep) :=
  roundTrip_of_word rfl fun hw => by
    simp (disch := decide) only [decodeWord_20, decTile, cut_hi, cut_lo, cut_all, Nat.reduceSub, ofBool_beq]
    try simp_all [Instr.wf, Except.bind]
theorem Laws.RoundTrip.mset (sw : Bool) (a : Src) (b : Src) : Statement (.mset sw a b) :=
  roundTrip_of_word rfl fun hw => by
    simp (disch := decide) only [decodeWord_21, decMx, decMcmp, cut_hi, cut_lo, cut_all, Nat.reduceSub, ofBool_beq]
    try simp_all [Instr.wf, Except.bind]
theorem Laws.RoundTrip.mget (sw : Bool) (a : Src) : Statement (.mget sw a) :=
  roundTrip_of_word rfl fun hw => by
    simp (disch := decide) only [decodeWord_21, decMx, decMcmp, cut_hi, cut_lo, cut_all, Nat.reduceSub, ofBool_beq]
    try simp_all [Instr.wf, Except.bind]
theorem Laws.RoundTrip.mldb (sw : Bool) (a : Src) (b : Src) (cc : Ctr) (det : Bool) : Statement (.mldb sw a b cc det) :=
  roundTrip_of_word rfl fun hw => by
    simp (disch := decide) only [decodeWord_21, decMx, decMcmp, cut_hi, cut_lo, cut_all, Nat.reduceSub, ofBool_beq]
    try simp_all [Instr.wf, Except.bind]
theorem Laws.RoundTrip.mmul (sw : Bool) (a : Src) (b : Src) (cc : Ctr) : Statement (.mmul sw a b cc) :=
  roundTrip_of_word rfl fun hw => by
    simp (disch := decide) only [decodeWord_21, decMx, decMcmp, cut_hi, cut_lo, cut_all, Nat.reduceSub, ofBool_beq]
    try simp_all [Instr.wf, Except.bind]
theorem Laws.RoundTrip.mclr (sw : Bool) (a : Src) (b : Src) (cc : Ctr) (det : Bool) (wide : Bool) : Statement (.mclr sw a b cc det wide) :=
  roundTrip_of_word rfl fun hw => by
    simp (disch := decide) only [decodeWord_21, decMx, decMcmp, cut_hi, cut_lo, cut_all, Nat.reduceSub, ofBool_beq]
    try simp_all [Instr.wf, Except.bind]
theorem Laws.RoundTrip.mrd (sw : Bool) (a : Src) (b : Src) (cc : Ctr) (det : Bool) (f : BitVec 5) : Statement (.mrd sw a b cc det f) :=
  roundTrip_of_word rfl fun hw => by
    simp (disch := decide) only [decodeWord_21, decMx, decMcmp, cut_hi, cut_lo, cut_all, Nat.reduceSub, ofBool_beq]
    try simp_all [Instr.wf, Except.bind]
theorem Laws.RoundTrip.mrdTile (sw : Bool) (a : Src) (b : Src) (cc : Ctr) (det : Bool) : Statement (.mrdTile sw a b cc det) :=
  roundTrip_of_word rfl fun hw => by
    simp (disch := decide) only [decodeWord_21, decMx, decMcmp, cut_hi, cut_lo, cut_all, Nat.reduceSub, ofBool_beq]
    try simp_all [Instr.wf, Except.bind]
theorem Laws.RoundTrip.mwr (sw : Bool) (a : Src) (b : Src) (cc : Ctr) (det : Bool) (f : BitVec 5) : Statement (.mwr sw a b cc det f) :=
  roundTrip_of_word rfl fun hw => by
    simp (disch := decide) only [decodeWord_21, decMx, decMcmp, cut_hi, cut_lo, cut_all, Nat.reduceSub, ofBool_beq]
    try simp_all [Instr.wf, Except.bind]
theorem Laws.RoundTrip.mred (sw : Bool) (a : Src) (cc : Ctr) (det : Bool) (v : VReg) (op : MRedOp) : Statement (.mred sw a cc det v op) :=
  roundTrip_of_word rfl fun hw => by
    simp (disch := decide) only [decodeWord_21, decMx, decMcmp, cut_hi, cut_lo, cut_all, Nat.reduceSub, ofBool_beq]
    try simp_all [Instr.wf, Except.bind]
theorem Laws.RoundTrip.mscr (sw : Bool) (a : Src) (cc : Ctr) (det : Bool) (v : VReg) : Statement (.mscr sw a cc det v) :=
  roundTrip_of_word rfl fun hw => by
    simp (disch := decide) only [decodeWord_21, decMx, decMcmp, cut_hi, cut_lo, cut_all, Nat.reduceSub, ofBool_beq]
    try simp_all [Instr.wf, Except.bind]
theorem Laws.RoundTrip.mscc (sw : Bool) (a : Src) (cc : Ctr) (det : Bool) (v : VReg) : Statement (.mscc sw a cc det v) :=
  roundTrip_of_word rfl fun hw => by
    simp (disch := decide) only [decodeWord_21, decMx, decMcmp, cut_hi, cut_lo, cut_all, Nat.reduceSub, ofBool_beq]
    try simp_all [Instr.wf, Except.bind]
theorem Laws.RoundTrip.mcmp (sw : Bool) (a : Src) (b : Src) (cc : Ctr) (det : Bool) (two : Bool) : Statement (.mcmp sw a b cc det two) :=
  roundTrip_of_word rfl fun hw => by
    simp (disch := decide) only [decodeWord_21, decMx, decMcmp, cut_hi, cut_lo, cut_all, Nat.reduceSub, ofBool_beq]
    try simp_all [Instr.wf, Except.bind]
    cases two <;> rfl
theorem Laws.RoundTrip.mstat (sw : Bool) (a : Src) (cc : Ctr) (det : Bool) : Statement (.mstat sw a cc det) :=
  roundTrip_of_word rfl fun hw => by
    simp (disch := decide) only [decodeWord_21, decMx, decMcmp, cut_hi, cut_lo, cut_all, Nat.reduceSub, ofBool_beq]
    try simp_all [Instr.wf, Except.bind]
theorem Laws.RoundTrip.cset (sw : Bool) (a : Src) (b : Src) : Statement (.cset sw a b) :=
  roundTrip_of_word rfl fun hw => by
    simp (disch := decide) only [decodeWord_22, decCp, cut_hi, cut_lo, cut_all, Nat.reduceSub, ofBool_beq]
    try simp_all [Instr.wf, Except.bind]
theorem Laws.RoundTrip.cpy (sw : Bool) (a : Src) (b : Src) (cc : Ctr) (det : Bool) : Statement (.cpy sw a b cc det) :=
  roundTrip_of_word rfl fun hw => by
    simp (disch := decide) only [decodeWord_22, decCp, cut_hi, cut_lo, cut_all, Nat.reduceSub, ofBool_beq]
    try simp_all [Instr.wf, Except.bind]
theorem Laws.RoundTrip.cpyg (sw : Bool) (a : Src) (b : Src) (cc : Ctr) (det : Bool) : Statement (.cpyg sw a b cc det) :=
  roundTrip_of_word rfl fun hw => by
    simp (disch := decide) only [decodeWord_22, decCp, cut_hi, cut_lo, cut_all, Nat.reduceSub, ofBool_beq]
    try simp_all [Instr.wf, Except.bind]
theorem Laws.RoundTrip.cpygOut (sw : Bool) (a : Src) (b : Src) (cc : Ctr) (det : Bool) : Statement (.cpygOut sw a b cc det) :=
  roundTrip_of_word rfl fun hw => by
    simp (disch := decide) only [decodeWord_22, decCp, cut_hi, cut_lo, cut_all, Nat.reduceSub, ofBool_beq]
    try simp_all [Instr.wf, Except.bind]
theorem Laws.RoundTrip.cpyd (sw : Bool) (a : Src) (b : Src) (cc : Ctr) (det : Bool) : Statement (.cpyd sw a b cc det) :=
  roundTrip_of_word rfl fun hw => by
    simp (disch := decide) only [decodeWord_22, decCp, cut_hi, cut_lo, cut_all, Nat.reduceSub, ofBool_beq]
    try simp_all [Instr.wf, Except.bind]
theorem Laws.RoundTrip.cpydLoc (sw : Bool) (a : Src) (b : Src) (cc : Ctr) (det : Bool) : Statement (.cpydLoc sw a b cc det) :=
  roundTrip_of_word rfl fun hw => by
    simp (disch := decide) only [decodeWord_22, decCp, cut_hi, cut_lo, cut_all, Nat.reduceSub, ofBool_beq]
    try simp_all [Instr.wf, Except.bind]
theorem Laws.RoundTrip.cfil (sw : Bool) (a : Src) (b : Src) (cc : Ctr) (det : Bool) : Statement (.cfil sw a b cc det) :=
  roundTrip_of_word rfl fun hw => by
    simp (disch := decide) only [decodeWord_22, decCp, cut_hi, cut_lo, cut_all, Nat.reduceSub, ofBool_beq]
    try simp_all [Instr.wf, Except.bind]
theorem Laws.RoundTrip.cfilG (sw : Bool) (a : Src) (b : Src) (cc : Ctr) (det : Bool) : Statement (.cfilG sw a b cc det) :=
  roundTrip_of_word rfl fun hw => by
    simp (disch := decide) only [decodeWord_22, decCp, cut_hi, cut_lo, cut_all, Nat.reduceSub, ofBool_beq]
    try simp_all [Instr.wf, Except.bind]
theorem Laws.RoundTrip.spawn (sw : Bool) (a : Src) (b : Src) : Statement (.spawn sw a b) :=
  roundTrip_of_word rfl fun hw => by
    simp (disch := decide) only [decodeWord_23, decTask, cut_hi, cut_lo, cut_all, Nat.reduceSub, ofBool_beq]
    try simp_all [Instr.wf, Except.bind]
theorem Laws.RoundTrip.spawnp (sw : Bool) (a : Src) (b : Src) : Statement (.spawnp sw a b) :=
  roundTrip_of_word rfl fun hw => by
    simp (disch := decide) only [decodeWord_23, decTask, cut_hi, cut_lo, cut_all, Nat.reduceSub, ofBool_beq]
    try simp_all [Instr.wf, Except.bind]
theorem Laws.RoundTrip.spawng (sw : Bool) (a : Src) (b : Src) : Statement (.spawng sw a b) :=
  roundTrip_of_word rfl fun hw => by
    simp (disch := decide) only [decodeWord_23, decTask, cut_hi, cut_lo, cut_all, Nat.reduceSub, ofBool_beq]
    try simp_all [Instr.wf, Except.bind]
theorem Laws.RoundTrip.quit (sw : Bool) : Statement (.quit sw) :=
  roundTrip_of_word rfl fun hw => by
    simp (disch := decide) only [decodeWord_23, decTask, cut_hi, cut_lo, cut_all, Nat.reduceSub, ofBool_beq]
    try simp_all [Instr.wf, Except.bind]
theorem Laws.RoundTrip.join (sw : Bool) (a : Src) : Statement (.join sw a) :=
  roundTrip_of_word rfl fun hw => by
    simp (disch := decide) only [decodeWord_23, decTask, cut_hi, cut_lo, cut_all, Nat.reduceSub, ofBool_beq]
    try simp_all [Instr.wf, Except.bind]
theorem Laws.RoundTrip.trig (sw : Bool) : Statement (.trig sw) :=
  roundTrip_of_word rfl fun hw => by
    simp (disch := decide) only [decodeWord_23, decTask, cut_hi, cut_lo, cut_all, Nat.reduceSub, ofBool_beq]
    try simp_all [Instr.wf, Except.bind]
theorem Laws.RoundTrip.yield (sw : Bool) : Statement (.yield sw) :=
  roundTrip_of_word rfl fun hw => by
    simp (disch := decide) only [decodeWord_23, decTask, cut_hi, cut_lo, cut_all, Nat.reduceSub, ofBool_beq]
    try simp_all [Instr.wf, Except.bind]
theorem Laws.RoundTrip.sleep (sw : Bool) (a : Src) (rel : Bool) : Statement (.sleep sw a rel) :=
  roundTrip_of_word rfl fun hw => by
    simp (disch := decide) only [decodeWord_23, decTask, cut_hi, cut_lo, cut_all, Nat.reduceSub, ofBool_beq]
    try simp_all [Instr.wf, Except.bind]
theorem Laws.RoundTrip.ppt (sw : Bool) (a : Src) (mask : BitVec 15) : Statement (.ppt sw a mask) :=
  roundTrip_of_word rfl fun hw => by
    simp (disch := decide) only [decodeWord_24, cut_hi, cut_lo, cut_all, Nat.reduceSub, ofBool_beq]
    try simp_all [Instr.wf, Except.bind]
theorem Laws.RoundTrip.ctlrd (sw : Bool) (d : Dest) (cr : CReg) : Statement (.ctlrd sw d cr) :=
  roundTrip_of_word rfl fun hw => by
    simp (disch := decide) only [decodeWord_25, decCtl, cut_hi, cut_lo, cut_all, Nat.reduceSub, ofBool_beq]
    try simp_all [Instr.wf, Except.bind]
theorem Laws.RoundTrip.ctlwr (sw : Bool) (a : Src) (cr : CReg) : Statement (.ctlwr sw a cr) :=
  roundTrip_of_word rfl fun hw => by
    simp (disch := decide) only [decodeWord_25, decCtl, cut_hi, cut_lo, cut_all, Nat.reduceSub, ofBool_beq]
    try simp_all [Instr.wf, Except.bind]
theorem Laws.RoundTrip.resultReturn (id : Nat) : Statement (.resultReturn id) := fun _ _ h => nomatch h
theorem Laws.RoundTrip.barrelIssueSlot (core : Nat) : Statement (.barrelIssueSlot core) := fun _ _ h => nomatch h
theorem Laws.RoundTrip.counterFullRelease (thread : Nat) : Statement (.counterFullRelease thread) := fun _ _ h => nomatch h
theorem Laws.RoundTrip.engineCompletion (id : Nat) : Statement (.engineCompletion id) := fun _ _ h => nomatch h
theorem Laws.RoundTrip.mwaitWake (id : Nat) : Statement (.mwaitWake id) := fun _ _ h => nomatch h
theorem Laws.RoundTrip.sleepWake (thread : Nat) : Statement (.sleepWake thread) := fun _ _ h => nomatch h
theorem Laws.RoundTrip.tileStoreRegister (id : Nat) : Statement (.tileStoreRegister id) := fun _ _ h => nomatch h
theorem Laws.RoundTrip.waitingStoreRelease (id : Nat) : Statement (.waitingStoreRelease id) := fun _ _ h => nomatch h
theorem Laws.RoundTrip.publication (id : Nat) : Statement (.publication id) := fun _ _ h => nomatch h
theorem Laws.RoundTrip.tileLoadRegister (id : Nat) : Statement (.tileLoadRegister id) := fun _ _ h => nomatch h
theorem Laws.RoundTrip.tileUseChangeRegister (id : Nat) : Statement (.tileUseChangeRegister id) := fun _ _ h => nomatch h
theorem Laws.RoundTrip.tileProbeRegister (id : Nat) : Statement (.tileProbeRegister id) := fun _ _ h => nomatch h
theorem Laws.RoundTrip.headCreate (id : Nat) : Statement (.headCreate id) := fun _ _ h => nomatch h
theorem Laws.RoundTrip.waiterRecordFree (id : Nat) : Statement (.waiterRecordFree id) := fun _ _ h => nomatch h
theorem Laws.RoundTrip.tileLoadComplete (id : Nat) : Statement (.tileLoadComplete id) := fun _ _ h => nomatch h
theorem Laws.RoundTrip.timpGatherComplete (id : Nat) : Statement (.timpGatherComplete id) := fun _ _ h => nomatch h
theorem Laws.RoundTrip.taliasSourceServed (id : Nat) : Statement (.taliasSourceServed id) := fun _ _ h => nomatch h
theorem Laws.RoundTrip.mldbStart (id : Nat) : Statement (.mldbStart id) := fun _ _ h => nomatch h
theorem Laws.RoundTrip.mmulStart (id : Nat) : Statement (.mmulStart id) := fun _ _ h => nomatch h
theorem Laws.RoundTrip.mmulSquash (id : Nat) : Statement (.mmulSquash id) := fun _ _ h => nomatch h
theorem Laws.RoundTrip.mmulCommit (id : Nat) : Statement (.mmulCommit id) := fun _ _ h => nomatch h
theorem Laws.RoundTrip.copyUnit (id : Nat) : Statement (.copyUnit id) := fun _ _ h => nomatch h
theorem Laws.RoundTrip.copyComplete (id : Nat) : Statement (.copyComplete id) := fun _ _ h => nomatch h
theorem Laws.RoundTrip.copyQueueAdmit (thread : Nat) : Statement (.copyQueueAdmit thread) := fun _ _ h => nomatch h
theorem Laws.RoundTrip.cpydLocArrival (id : Nat) : Statement (.cpydLocArrival id) := fun _ _ h => nomatch h
theorem Laws.RoundTrip.cellarLookup (id : Nat) : Statement (.cellarLookup id) := fun _ _ h => nomatch h
theorem Laws.RoundTrip.celkeyRotate : Statement (.celkeyRotate ) := fun _ _ h => nomatch h
theorem Laws.RoundTrip.digestSweepDone (part : Nat) : Statement (.digestSweepDone part) := fun _ _ h => nomatch h
theorem Laws.RoundTrip.scrubError (extent : Nat) : Statement (.scrubError extent) := fun _ _ h => nomatch h
theorem Laws.RoundTrip.diePoolMove (src : Nat) (dst : Nat) : Statement (.diePoolMove src dst) := fun _ _ h => nomatch h
theorem Laws.RoundTrip.gangReserve (gang : Nat) : Statement (.gangReserve gang) := fun _ _ h => nomatch h
theorem Laws.RoundTrip.graphEnd (graph : Nat) (cause : Cause) : Statement (.graphEnd graph cause) := fun _ _ h => nomatch h
theorem Laws.RoundTrip.watchdog (graph : Nat) (id : Nat) : Statement (.watchdog graph id) := fun _ _ h => nomatch h
theorem Laws.RoundTrip.launchVersionServed (id : Nat) : Statement (.launchVersionServed id) := fun _ _ h => nomatch h
theorem Laws.RoundTrip.statusWordWrite : Statement (.statusWordWrite ) := fun _ _ h => nomatch h
theorem Laws.RoundTrip.slottabWrite (v : Word) : Statement (.slottabWrite v) := fun _ _ h => nomatch h
theorem Laws.RoundTrip.slotStartDue (part : Nat) (slot : Nat) : Statement (.slotStartDue part slot) := fun _ _ h => nomatch h
theorem Laws.RoundTrip.trapPost (thread : Nat) : Statement (.trapPost thread) := fun _ _ h => nomatch h
theorem Laws.RoundTrip.handlerStart (part : Nat) : Statement (.handlerStart part) := fun _ _ h => nomatch h
theorem Laws.RoundTrip.pageFaultPost (fault : Nat) : Statement (.pageFaultPost fault) := fun _ _ h => nomatch h
theorem Laws.RoundTrip.faultRecordRepost (part : Nat) : Statement (.faultRecordRepost part) := fun _ _ h => nomatch h
theorem Laws.RoundTrip.pagerStart (part : Nat) (rid : Nat) : Statement (.pagerStart part rid) := fun _ _ h => nomatch h
theorem Laws.RoundTrip.preemptRequest (record : Nat) : Statement (.preemptRequest record) := fun _ _ h => nomatch h
theorem Laws.RoundTrip.saveWrite (thread : Nat) : Statement (.saveWrite thread) := fun _ _ h => nomatch h
theorem Laws.RoundTrip.saveComplete (thread : Nat) : Statement (.saveComplete thread) := fun _ _ h => nomatch h
theorem Laws.RoundTrip.restore (record : Nat) (core : Nat) : Statement (.restore record core) := fun _ _ h => nomatch h
theorem Laws.RoundTrip.genConfirm (id : Nat) (core : Nat) : Statement (.genConfirm id core) := fun _ _ h => nomatch h
theorem Laws.RoundTrip.dupCollapse (page : Nat) (die : Nat) : Statement (.dupCollapse page die) := fun _ _ h => nomatch h
theorem Laws.RoundTrip.granuleRecall (granule : Nat) : Statement (.granuleRecall granule) := fun _ _ h => nomatch h
theorem Laws.RoundTrip.ptbaseWrite (v : Word) : Statement (.ptbaseWrite v) := fun _ _ h => nomatch h
theorem Laws.RoundTrip.asidWrite (v : Word) : Statement (.asidWrite v) := fun _ _ h => nomatch h
theorem Laws.RoundTrip.trapsaveWrite (v : Word) : Statement (.trapsaveWrite v) := fun _ _ h => nomatch h
theorem Laws.RoundTrip.hearthWrite (v : Word) : Statement (.hearthWrite v) := fun _ _ h => nomatch h
theorem Laws.RoundTrip.trapvecWrite (v : Word) : Statement (.trapvecWrite v) := fun _ _ h => nomatch h
theorem Laws.RoundTrip.pagertabWrite (v : Word) : Statement (.pagertabWrite v) := fun _ _ h => nomatch h
theorem Laws.RoundTrip.fbstatusWrite (v : Word) : Statement (.fbstatusWrite v) := fun _ _ h => nomatch h
theorem Laws.RoundTrip.celquotaWrite (v : Word) : Statement (.celquotaWrite v) := fun _ _ h => nomatch h
theorem Laws.RoundTrip.ptpctlWrite (v : Word) : Statement (.ptpctlWrite v) := fun _ _ h => nomatch h
theorem Laws.RoundTrip.fflagsWrite (v : Word) : Statement (.fflagsWrite v) := fun _ _ h => nomatch h
theorem Laws.RoundTrip.vcsrWrite (v : Word) : Statement (.vcsrWrite v) := fun _ _ h => nomatch h
theorem Laws.RoundTrip.partCtlSelWrite (v : Word) : Statement (.partCtlSelWrite v) := fun _ _ h => nomatch h
theorem Laws.RoundTrip.create : Statement (.create ) := fun _ _ h => nomatch h
theorem Laws.RoundTrip.commit : Statement (.commit ) := fun _ _ h => nomatch h
theorem Laws.RoundTrip.merge : Statement (.merge ) := fun _ _ h => nomatch h
theorem Laws.RoundTrip.destroy : Statement (.destroy ) := fun _ _ h => nomatch h
theorem Laws.RoundTrip.partitionQuiesced (part : Nat) : Statement (.partitionQuiesced part) := fun _ _ h => nomatch h
theorem Laws.RoundTrip.pquiTimeout (id : Nat) : Statement (.pquiTimeout id) := fun _ _ h => nomatch h
theorem Laws.RoundTrip.pub (vf : Nat) (v : Word) (ltile : List (Nat × Byte)) : Statement (.pub vf v ltile) := fun _ _ h => nomatch h
theorem Laws.RoundTrip.vfLtolWrite (vf : Nat) (v : Word) : Statement (.vfLtolWrite vf v) := fun _ _ h => nomatch h
theorem Laws.RoundTrip.snpData (line : Nat) : Statement (.snpData line) := fun _ _ h => nomatch h
theorem Laws.RoundTrip.snpInv (line : Nat) : Statement (.snpInv line) := fun _ _ h => nomatch h
theorem Laws.RoundTrip.snpCur (line : Nat) : Statement (.snpCur line) := fun _ _ h => nomatch h
theorem Laws.RoundTrip.hostMemRequest (line : Nat) (data : Option (List Byte)) (keeps : Bool) : Statement (.hostMemRequest line data keeps) := fun _ _ h => nomatch h
theorem Laws.RoundTrip.birsp (line : Nat) (data : Option (List Byte)) : Statement (.birsp line data) := fun _ _ h => nomatch h
theorem Laws.RoundTrip.hdmDecoderCommit (dec : Nat) (base : Nat) (size : Nat) : Statement (.hdmDecoderCommit dec base size) := fun _ _ h => nomatch h
theorem Laws.RoundTrip.linkReqReceive (src : BitVec 12) (part : Nat) (tag : Nat) (body : LinkReq) : Statement (.linkReqReceive src part tag body) := fun _ _ h => nomatch h
theorem Laws.RoundTrip.linkRspReceive (tag : Nat) (body : LinkRsp) : Statement (.linkRspReceive tag body) := fun _ _ h => nomatch h
theorem Laws.RoundTrip.arrivalNotice (tag : Nat) (body : LinkRsp) : Statement (.arrivalNotice tag body) := fun _ _ h => nomatch h
theorem Laws.RoundTrip.linkAtomReceive (src : BitVec 12) (part : Nat) (tag : Nat) (body : LinkAtom) : Statement (.linkAtomReceive src part tag body) := fun _ _ h => nomatch h
theorem Laws.RoundTrip.linkFenceReceive (src : BitVec 12) (part : Nat) (tag : Nat) : Statement (.linkFenceReceive src part tag) := fun _ _ h => nomatch h
theorem Laws.RoundTrip.linkMgmtReceive (src : BitVec 12) (body : LinkMgmt) : Statement (.linkMgmtReceive src body) := fun _ _ h => nomatch h
theorem Laws.RoundTrip.linkDown (link : Nat) : Statement (.linkDown link) := fun _ _ h => nomatch h
theorem Laws.RoundTrip.linkWidthRequest (link : Nat) (lanes : Nat) (cycle : Nat) : Statement (.linkWidthRequest link lanes cycle) := fun _ _ h => nomatch h
theorem Laws.RoundTrip.linkFreqChange (link : Nat) (change : FreqChange) : Statement (.linkFreqChange link change) := fun _ _ h => nomatch h
theorem Laws.RoundTrip.ptpUpdate (part : Nat) (sample : Word) : Statement (.ptpUpdate part sample) := fun _ _ h => nomatch h
theorem Laws.RoundTrip.dieStateEntry (die : Nat) : Statement (.dieStateEntry die) := fun _ _ h => nomatch h
theorem Laws.RoundTrip.dieWake (die : Nat) : Statement (.dieWake die) := fun _ _ h => nomatch h
theorem Laws.RoundTrip.packageReset (boot : BootInput) : Statement (.packageReset boot) := fun _ _ h => nomatch h
theorem Laws.RoundTrip.evidenceRequest (nonce : BitVec 256) (mask : BitVec 8) : Statement (.evidenceRequest nonce mask) := fun _ _ h => nomatch h
theorem Laws.RoundTrip.firmwareStage (image : List Byte) : Statement (.firmwareStage image) := fun _ _ h => nomatch h
theorem Laws.RoundTrip.notAnInstruction (word : IWord) : Statement (.notAnInstruction word) := fun _ _ h => nomatch h
theorem Laws.RoundTrip.writePerformed (id : Nat) : Statement (.writePerformed id) := fun _ _ h => nomatch h
theorem Laws.RoundTrip.laneFailure (link : Nat) : Statement (.laneFailure link) := fun _ _ h => nomatch h
theorem Laws.RoundTrip.cxlLinkDown (port : Nat) : Statement (.cxlLinkDown port) := fun _ _ h => nomatch h

end Sys2Proof
end

