-- ==== Sys2Proof/Tests/Slice0.lean ====
section
/-!
SUPPORT. Tests: words of the specification, ill-formed terms, single steps on small states, and for every statement a state that
meets its hypotheses.
-/

open Sys2Proof Sys2Proof.Machine

namespace Sys2Proof.Tests

set_option Elab.async false

/-! ### Words worked out by the specification -/

/-- A word reads as this instruction, and the instruction is written as this word. -/
abbrev reads (w : IWord) (i : Instr) : Prop := decodeWord w = .ok i ∧ encode i = some w

/-- "Worked encodings" of spec/04. -/
theorem test_word_add : reads 0x8360D000 (.add true (some 6) (.q 1) (.n 4) false) := ⟨rfl, rfl⟩
theorem test_word_vfma : reads 0x370A6403 (.vfma false 4 1 2 3 .f32 0 false) := ⟨rfl, rfl⟩
theorem test_word_br : reads 0x1DD07FFC (.br false .nz (.n 13) (.q 0) 0xFFC) := ⟨rfl, rfl⟩
theorem test_word_jr : reads 0xA20F8000 (.jr true (.n 15)) := ⟨rfl, rfl⟩
theorem test_word_fnc : reads 0x300001D3 (.fncReg false (.q 0) (.q 0) true 6 .domain) := ⟨rfl, rfl⟩
/-- "Worked encodings" of spec/05. -/
theorem test_word_ld : reads 0x25C96008 (.ld false (some 12) (.n 2) .d64 8) := ⟨rfl, rfl⟩
theorem test_word_st : reads 0x277A3000 (.st false (.n 7) (.n 4) .b64 0) := ⟨rfl, rfl⟩
theorem test_word_addi : reads 0x85DEFFFF (.addi true (some 13) (.n 13) 0x7FFF) := ⟨rfl, rfl⟩
theorem test_word_amo : reads 0xAC008030 (.amoAdd true none (.q 1) (.q 0) .w64 .rlx .die) := ⟨rfl, rfl⟩
theorem test_word_mwait : reads 0xB209E001 (.mwait true none (.n 3) (.n 8)) := ⟨rfl, rfl⟩
theorem test_word_cwait : reads 0xB2000422 (.cwait true 1 2) := ⟨rfl, rfl⟩
theorem test_word_fadd : reads 0x35C07010 (.fadd false (some 12) (.q 0) (.n 12) .rne .f32) := ⟨rfl, rfl⟩
/-- "Worked encodings" of the chapters on tiles, matrices, vectors, tasks and the system. -/
theorem test_word_tld : reads 0x416D8060 (.tld false (.n 6) (.n 11) 1 true false) := ⟨rfl, rfl⟩
theorem test_word_tldv : reads 0x41600404 (.tldv false (.n 6) 0 2 false) := ⟨rfl, rfl⟩
theorem test_word_trel : reads 0x41582000 (.trel false (.n 5) (.n 0) 0 false) := ⟨rfl, rfl⟩
theorem test_word_tspace : reads 0x415B2C00 (.tspace false (.n 5) (.n 6) 0 false) := ⟨rfl, rfl⟩
theorem test_word_tstv : reads 0xC1DE0C00 (.tstv true (.n 13) (.n 12) 0 false 0) := ⟨rfl, rfl⟩
theorem test_word_cinc : reads 0x320E0033 (.cinc false (.n 12) 3) := ⟨rfl, rfl⟩
theorem test_word_mset : reads 0x430E8000 (.mset false (.n 0) (.n 13)) := ⟨rfl, rfl⟩
theorem test_word_mget : reads 0x43600400 (.mget false (.n 6)) := ⟨rfl, rfl⟩
theorem test_word_mldb : reads 0xC38C8800 (.mldb true (.n 8) (.n 9) 0 false) := ⟨rfl, rfl⟩
theorem test_word_mmul : reads 0x435B0D00 (.mmul false (.n 5) (.n 6) 4) := ⟨rfl, rfl⟩
theorem test_word_mclr : reads 0x437C1001 (.mclr false (.n 7) (.n 8) 0 false true) := ⟨rfl, rfl⟩
theorem test_word_mrd : reads 0x439D15A5 (.mrd false (.n 9) (.n 10) 6 true 5) := ⟨rfl, rfl⟩
theorem test_word_mrd_tile : reads 0x420D9400 (.mrdTile false (.q 0) (.n 11) 0 false) := ⟨rfl, rfl⟩
theorem test_word_mred : reads 0xC3001C05 (.mred true (.n 0) 0 false 1 .ssq) := ⟨rfl, rfl⟩
theorem test_word_mscr : reads 0xC3002010 (.mscr true (.n 0) 0 false 4) := ⟨rfl, rfl⟩
theorem test_word_mcmp : reads 0x433A2802 (.mcmp false (.n 3) (.n 4) 0 false true) := ⟨rfl, rfl⟩
theorem test_word_mstat : reads 0x43502C00 (.mstat false (.n 5) 0 false) := ⟨rfl, rfl⟩
theorem test_word_vrsq : reads 0xB7180487 (.vrsq true 4 3 .f32 0 true) := ⟨rfl, rfl⟩
theorem test_word_vbc : reads 0x3C85C400 (.vbc false 2 (.n 7) .f32 0 false) := ⟨rfl, rfl⟩
theorem test_word_vcmp : reads 0x3C5C5403 (.vcmp false 1 3 4 .lt .s32 0 false) := ⟨rfl, rfl⟩
theorem test_word_vcnt : reads 0x3C00150C (.vcnt false .s32 1 false) := ⟨rfl, rfl⟩
theorem test_word_vst : reads 0x3B059401 (.vst false 4 (.n 6) .s32 0 false) := ⟨rfl, rfl⟩
theorem test_word_vgath : reads 0x3B750004 (.vgath false 5 6 (.n 4) .f64 0 false) := ⟨rfl, rfl⟩
theorem test_word_vscan : reads 0x3D183507 (.vscan false 4 3 .xsum .s32 1 false) := ⟨rfl, rfl⟩
theorem test_word_vqnt : reads 0x3C88240F (.vqnt false 2 1 0 .e4m3 .f32 0 false) := ⟨rfl, rfl⟩
theorem test_word_vext : reads 0x3C2DD401 (.vext false 5 (.n 7) .s32 false) := ⟨rfl, rfl⟩
theorem test_word_vstg : reads 0xBA45D603 (.vstg true 1 (.n 7) .s32 2 false) := ⟨rfl, rfl⟩
theorem test_word_spawnp : reads 0xC72E8400 (.spawnp true (.n 2) (.n 13)) := ⟨rfl, rfl⟩
theorem test_word_join : reads 0x47101000 (.join false (.n 1)) := ⟨rfl, rfl⟩
theorem test_word_sleep : reads 0xC7501C01 (.sleep true (.n 5) true) := ⟨rfl, rfl⟩
theorem test_word_ppt : reads 0x48080130 (.ppt false (.n 0) 0x130) := ⟨rfl, rfl⟩
theorem test_word_fsub : reads 0x35985401 (.fsub false (some 9) (.n 0) (.n 5) .rne .f64) := ⟨rfl, rfl⟩
theorem test_word_stl : reads 0xABD834D8 (.stl true (.n 13) (.n 0) .b64 0x4D8) := ⟨rfl, rfl⟩
theorem test_word_amo_fadd : reads 0x2C00043A (.amoFaddF64 false none (.q 0) (.q 1) .rlx .die) := ⟨rfl, rfl⟩
theorem test_word_trap : reads 0x8000A802 (.trap true 0x2A) := ⟨rfl, rfl⟩
theorem test_word_genbump : reads 0x000A8004 (.genbump false none (.n 5)) := ⟨rfl, rfl⟩
theorem test_word_pgdone : reads 0x01AB6405 (.pgdone false (some 10) (.n 6) (.n 9)) := ⟨rfl, rfl⟩
theorem test_word_ctlrd : reads 0x4B500010 (.ctlrd false (some 5) .time) := ⟨rfl, rfl⟩
theorem test_word_ctlwr : reads 0x4A0DC140 (.ctlwr false (.n 11) .slottab) := ⟨rfl, rfl⟩
theorem test_word_cset : reads 0x440B0000 (.cset false (.q 0) (.n 6)) := ⟨rfl, rfl⟩
theorem test_word_cpyd : reads 0xC5DB0C60 (.cpyd true (.n 13) (.n 6) 1 true) := ⟨rfl, rfl⟩

/-! Each further encoded row of the opcode table, by its fixed bits, with S = 1 and every field 0, but for the width of an AMO and the
mask of a fence, which have no code 0. -/

theorem test_rows_1 :
    reads 0x80000001 (.nop true) ∧
    reads 0x80000003 (.tret true (.q 0)) ∧
    reads 0x80000006 (.pqui true none (.q 0) (.q 0)) ∧
    reads 0x80000007 (.pres true none (.q 0)) ∧
    reads 0x80000008 (.cflush true (.q 0) (.q 0)) ∧
    reads 0x80000009 (.celfl true) ∧
    reads 0x82000001 (.sub true none (.q 0) (.q 0) false) ∧
    reads 0x82000002 (.mul true none (.q 0) (.q 0) false) ∧
    reads 0x82000003 (.mulh true none (.q 0) (.q 0) false) ∧
    reads 0x82000004 (.mulhu true none (.q 0) (.q 0) false) ∧
    reads 0x82000005 (.div true none (.q 0) (.q 0) false) ∧
    reads 0x82000006 (.divu true none (.q 0) (.q 0) false) :=
  ⟨⟨rfl, rfl⟩, ⟨rfl, rfl⟩, ⟨rfl, rfl⟩, ⟨rfl, rfl⟩, ⟨rfl, rfl⟩, ⟨rfl, rfl⟩, ⟨rfl, rfl⟩, ⟨rfl, rfl⟩, ⟨rfl, rfl⟩, ⟨rfl, rfl⟩, ⟨rfl, rfl⟩, ⟨rfl, rfl⟩⟩

theorem test_rows_2 :
    reads 0x82000007 (.rem true none (.q 0) (.q 0) false) ∧
    reads 0x82000008 (.remu true none (.q 0) (.q 0) false) ∧
    reads 0x82000009 (.and true none (.q 0) (.q 0) false) ∧
    reads 0x8200000A (.or true none (.q 0) (.q 0) false) ∧
    reads 0x8200000B (.xor true none (.q 0) (.q 0) false) ∧
    reads 0x8200000C (.andn true none (.q 0) (.q 0) false) ∧
    reads 0x8200000D (.shl true none (.q 0) (.q 0) false) ∧
    reads 0x8200000E (.shr true none (.q 0) (.q 0) false) ∧
    reads 0x8200000F (.sra true none (.q 0) (.q 0) false) ∧
    reads 0x82000010 (.ror true none (.q 0) (.q 0) false) ∧
    reads 0x82000011 (.slt true none (.q 0) (.q 0) false) ∧
    reads 0x82000012 (.sltu true none (.q 0) (.q 0) false) :=
  ⟨⟨rfl, rfl⟩, ⟨rfl, rfl⟩, ⟨rfl, rfl⟩, ⟨rfl, rfl⟩, ⟨rfl, rfl⟩, ⟨rfl, rfl⟩, ⟨rfl, rfl⟩, ⟨rfl, rfl⟩, ⟨rfl, rfl⟩, ⟨rfl, rfl⟩, ⟨rfl, rfl⟩, ⟨rfl, rfl⟩⟩

theorem test_rows_3 :
    reads 0x82000013 (.seq true none (.q 0) (.q 0) false) ∧
    reads 0x82000014 (.min true none (.q 0) (.q 0) false) ∧
    reads 0x82000015 (.max true none (.q 0) (.q 0) false) ∧
    reads 0x82000016 (.minu true none (.q 0) (.q 0) false) ∧
    reads 0x82000017 (.maxu true none (.q 0) (.q 0) false) ∧
    reads 0x82000018 (.clz true none (.q 0) false) ∧
    reads 0x82000019 (.ctz true none (.q 0) false) ∧
    reads 0x8200001A (.popc true none (.q 0) false) ∧
    reads 0x8200001B (.sext true none (.q 0) (.q 0) false) ∧
    reads 0x8200001C (.zext true none (.q 0) (.q 0) false) ∧
    reads 0x86000000 (.andi true none (.q 0) 0) ∧
    reads 0x88000000 (.ori true none (.q 0) 0) :=
  ⟨⟨rfl, rfl⟩, ⟨rfl, rfl⟩, ⟨rfl, rfl⟩, ⟨rfl, rfl⟩, ⟨rfl, rfl⟩, ⟨rfl, rfl⟩, ⟨rfl, rfl⟩, ⟨rfl, rfl⟩, ⟨rfl, rfl⟩, ⟨rfl, rfl⟩, ⟨rfl, rfl⟩, ⟨rfl, rfl⟩⟩

theorem test_rows_4 :
    reads 0x8A000000 (.xori true none (.q 0) 0) ∧
    reads 0x8C000000 (.shli true none (.q 0) 0) ∧
    reads 0x8E000000 (.shri true none (.q 0) 0) ∧
    reads 0x90000000 (.srai true none (.q 0) 0) ∧
    reads 0x92000000 (.slti true none (.q 0) 0) ∧
    reads 0x94000000 (.sltiu true none (.q 0) 0) ∧
    reads 0x96000000 (.ldi true none 0) ∧
    reads 0x98000000 (.ldpc true none 0) ∧
    reads 0x9A000000 (.hmake true none (.q 0) (.q 0)) ∧
    reads 0x9A000001 (.hidx true none (.q 0) (.q 0)) ∧
    reads 0x9A000002 (.hver true none (.q 0) (.q 0)) ∧
    reads 0x9A000003 (.hfld true none (.q 0) (.q 0)) :=
  ⟨⟨rfl, rfl⟩, ⟨rfl, rfl⟩, ⟨rfl, rfl⟩, ⟨rfl, rfl⟩, ⟨rfl, rfl⟩, ⟨rfl, rfl⟩, ⟨rfl, rfl⟩, ⟨rfl, rfl⟩, ⟨rfl, rfl⟩, ⟨rfl, rfl⟩, ⟨rfl, rfl⟩, ⟨rfl, rfl⟩⟩

theorem test_rows_5 :
    reads 0x9E000000 (.j true 0) ∧
    reads 0xA0000000 (.call true 0) ∧
    reads 0xA2000001 (.jrCall true (.q 0)) ∧
    reads 0xA8000000 (.ldl true none (.q 0) .s8 0) ∧
    reads 0xAC000021 (.amoAnd true none (.q 0) (.q 0) .w32 .rlx .die) ∧
    reads 0xAC000022 (.amoOr true none (.q 0) (.q 0) .w32 .rlx .die) ∧
    reads 0xAC000023 (.amoXor true none (.q 0) (.q 0) .w32 .rlx .die) ∧
    reads 0xAC000024 (.amoMin true none (.q 0) (.q 0) .w32 .rlx .die) ∧
    reads 0xAC000025 (.amoMax true none (.q 0) (.q 0) .w32 .rlx .die) ∧
    reads 0xAC000026 (.amoMinu true none (.q 0) (.q 0) .w32 .rlx .die) ∧
    reads 0xAC000027 (.amoMaxu true none (.q 0) (.q 0) .w32 .rlx .die) ∧
    reads 0xAC000028 (.amoSwap true none (.q 0) (.q 0) .w32 .rlx .die) :=
  ⟨⟨rfl, rfl⟩, ⟨rfl, rfl⟩, ⟨rfl, rfl⟩, ⟨rfl, rfl⟩, ⟨rfl, rfl⟩, ⟨rfl, rfl⟩, ⟨rfl, rfl⟩, ⟨rfl, rfl⟩, ⟨rfl, rfl⟩, ⟨rfl, rfl⟩, ⟨rfl, rfl⟩, ⟨rfl, rfl⟩⟩

theorem test_rows_6 :
    reads 0xAC000029 (.amoFaddF32 true none (.q 0) (.q 0) .rlx .die) ∧
    reads 0xAE000020 (.cas true (.q 0) (.q 0) (.q 0) .w32 .rlx .die) ∧
    reads 0xB0000040 (.fncFull true (.q 0) (.q 0) false 2 .thread) ∧
    reads 0xB0000041 (.fncAcq true (.q 0) (.q 0) false 2 .thread) ∧
    reads 0xB0000042 (.fncRel true (.q 0) (.q 0) false 2 .thread) ∧
    reads 0xB2000000 (.pref true (.q 0) (.q 0)) ∧
    reads 0xB2000004 (.crd true none 0) ∧
    reads 0xB4000002 (.fmul true none (.q 0) (.q 0) .rne .f64) ∧
    reads 0xB4000003 (.fdiv true none (.q 0) (.q 0) .rne .f64) ∧
    reads 0xB4000004 (.fsqrt true none (.q 0) .rne .f64) ∧
    reads 0xB4000005 (.fma true (.q 0) (.q 0) (.q 0) .rne .f64) ∧
    reads 0xB4000006 (.fmin true none (.q 0) (.q 0) .f64) :=
  ⟨⟨rfl, rfl⟩, ⟨rfl, rfl⟩, ⟨rfl, rfl⟩, ⟨rfl, rfl⟩, ⟨rfl, rfl⟩, ⟨rfl, rfl⟩, ⟨rfl, rfl⟩, ⟨rfl, rfl⟩, ⟨rfl, rfl⟩, ⟨rfl, rfl⟩, ⟨rfl, rfl⟩, ⟨rfl, rfl⟩⟩

theorem test_rows_7 :
    reads 0xB4000007 (.fmax true none (.q 0) (.q 0) .f64) ∧
    reads 0xB4000008 (.fcmp true none (.q 0) (.q 0) .eq .f64) ∧
    reads 0xB4000009 (.fcvt true none (.q 0) .ff .rne .f64) ∧
    reads 0xB400000A (.fclass true none (.q 0) .f64) ∧
    reads 0xB6000000 (.vaddFp true 0 0 0 .f64 0 false) ∧
    reads 0xB6000001 (.vsubFp true 0 0 0 .f64 0 false) ∧
    reads 0xB6000002 (.vmulFp true 0 0 0 .f64 0 false) ∧
    reads 0xB6000004 (.vfnma true 0 0 0 0 .f64 0 false) ∧
    reads 0xB6000005 (.vdiv true 0 0 0 .f64 0 false) ∧
    reads 0xB6000006 (.vsqrt true 0 0 .f64 0 false) ∧
    reads 0xB6000008 (.vexp2 true 0 0 .f64 0 false) ∧
    reads 0xB6000009 (.vlog2 true 0 0 .f64 0 false) :=
  ⟨⟨rfl, rfl⟩, ⟨rfl, rfl⟩, ⟨rfl, rfl⟩, ⟨rfl, rfl⟩, ⟨rfl, rfl⟩, ⟨rfl, rfl⟩, ⟨rfl, rfl⟩, ⟨rfl, rfl⟩, ⟨rfl, rfl⟩, ⟨rfl, rfl⟩, ⟨rfl, rfl⟩, ⟨rfl, rfl⟩⟩

theorem test_rows_8 :
    reads 0xB600000A (.vminFp true 0 0 0 .f64 0 false) ∧
    reads 0xB600000B (.vmaxFp true 0 0 0 .f64 0 false) ∧
    reads 0xB600000C (.vabsFp true 0 0 .f64 0 false) ∧
    reads 0xB600000D (.vnegFp true 0 0 .f64 0 false) ∧
    reads 0xB8000000 (.vaddInt true 0 0 0 .f64 0 false) ∧
    reads 0xB8000001 (.vsubInt true 0 0 0 .f64 0 false) ∧
    reads 0xB8000002 (.vmulInt true 0 0 0 .f64 0 false) ∧
    reads 0xB8000003 (.vminInt true 0 0 0 .f64 0 false) ∧
    reads 0xB8000004 (.vmaxInt true 0 0 0 .f64 0 false) ∧
    reads 0xB8000005 (.vminu true 0 0 0 .f64 0 false) ∧
    reads 0xB8000006 (.vmaxu true 0 0 0 .f64 0 false) ∧
    reads 0xB8000007 (.vabsInt true 0 0 .f64 0 false) :=
  ⟨⟨rfl, rfl⟩, ⟨rfl, rfl⟩, ⟨rfl, rfl⟩, ⟨rfl, rfl⟩, ⟨rfl, rfl⟩, ⟨rfl, rfl⟩, ⟨rfl, rfl⟩, ⟨rfl, rfl⟩, ⟨rfl, rfl⟩, ⟨rfl, rfl⟩, ⟨rfl, rfl⟩, ⟨rfl, rfl⟩⟩

theorem test_rows_9 :
    reads 0xB8000008 (.vnegInt true 0 0 .f64 0 false) ∧
    reads 0xB8000009 (.vand true 0 0 0 .f64 0 false) ∧
    reads 0xB800000A (.vor true 0 0 0 .f64 0 false) ∧
    reads 0xB800000B (.vxor true 0 0 0 .f64 0 false) ∧
    reads 0xB800000C (.vnot true 0 0 .f64 0 false) ∧
    reads 0xB800000D (.vshl true 0 0 0 .f64 0 false) ∧
    reads 0xB800000E (.vshr true 0 0 0 .f64 0 false) ∧
    reads 0xB800000F (.vsra true 0 0 0 .f64 0 false) ∧
    reads 0xBA000000 (.vld true 0 (.q 0) .f64 0 false) ∧
    reads 0xBA000002 (.vldg true 0 (.q 0) .f64 0 false) ∧
    reads 0xBA000005 (.vscat true 0 0 (.q 0) .f64 0 false) ∧
    reads 0xBC000002 (.vmov true 0 0 .f64 0 false) :=
  ⟨⟨rfl, rfl⟩, ⟨rfl, rfl⟩, ⟨rfl, rfl⟩, ⟨rfl, rfl⟩, ⟨rfl, rfl⟩, ⟨rfl, rfl⟩, ⟨rfl, rfl⟩, ⟨rfl, rfl⟩, ⟨rfl, rfl⟩, ⟨rfl, rfl⟩, ⟨rfl, rfl⟩, ⟨rfl, rfl⟩⟩

theorem test_rows_10 :
    reads 0xBC000004 (.vsel true 0 0 0 .f64 0 false) ∧
    reads 0xBC000005 (.vcvt true 0 0 0 .f64 .f64 0 false) ∧
    reads 0xBC000006 (.vred true 0 .sum .f64 0 false) ∧
    reads 0xBC000008 (.vcmpr true 0 0 .f64 0 false) ∧
    reads 0xBC000009 (.vexpd true 0 0 .f64 0 false) ∧
    reads 0xBC00000A (.vperm true 0 0 0 .f64 0 false) ∧
    reads 0xBC00000B (.viota true 0 .f64 0 false) ∧
    reads 0xBC00000D (.vmsk true 0 0 0 .and .f64 false) ∧
    reads 0xBC00000E (.vamax true 0 0 .f64 0 false) ∧
    reads 0xBC000010 (.vdq true 0 0 0 .ts8 .f64 0 false) ∧
    reads 0xBC001011 (.vflrd true 0 0 false) ∧
    reads 0xBC001012 (.vflcl true 0 false) :=
  ⟨⟨rfl, rfl⟩, ⟨rfl, rfl⟩, ⟨rfl, rfl⟩, ⟨rfl, rfl⟩, ⟨rfl, rfl⟩, ⟨rfl, rfl⟩, ⟨rfl, rfl⟩, ⟨rfl, rfl⟩, ⟨rfl, rfl⟩, ⟨rfl, rfl⟩, ⟨rfl, rfl⟩, ⟨rfl, rfl⟩⟩

theorem test_rows_11 :
    reads 0xBC000013 (.vcvtz true 0 0 0 .f64 .f64 0 false) ∧
    reads 0xC0000800 (.tst true (.q 0) (.q 0) 0 false) ∧
    reads 0xC0001000 (.talias true (.q 0) (.q 0) 0 false) ∧
    reads 0xC0001400 (.twait true (.q 0) 0 false) ∧
    reads 0xC0001800 (.tprobe true (.q 0) 0 false) ∧
    reads 0xC0001C00 (.tadd true (.q 0) (.q 0) 0 false) ∧
    reads 0xC0002400 (.tdig true (.q 0) 0 false false) ∧
    reads 0xC0002800 (.tinfo true (.q 0) 0 false) ∧
    reads 0xC0003000 (.timp true (.q 0) (.q 0) 0 false) ∧
    reads 0xC0003400 (.texp true (.q 0) (.q 0) 0 false false) ∧
    reads 0xC2001800 (.mwr true (.q 0) (.q 0) 0 false 0) ∧
    reads 0xC2002400 (.mscc true (.q 0) 0 false 0) :=
  ⟨⟨rfl, rfl⟩, ⟨rfl, rfl⟩, ⟨rfl, rfl⟩, ⟨rfl, rfl⟩, ⟨rfl, rfl⟩, ⟨rfl, rfl⟩, ⟨rfl, rfl⟩, ⟨rfl, rfl⟩, ⟨rfl, rfl⟩, ⟨rfl, rfl⟩, ⟨rfl, rfl⟩, ⟨rfl, rfl⟩⟩

theorem test_rows_12 :
    reads 0xC4000400 (.cpy true (.q 0) (.q 0) 0 false) ∧
    reads 0xC4000800 (.cpyg true (.q 0) (.q 0) 0 false) ∧
    reads 0xC4000801 (.cpygOut true (.q 0) (.q 0) 0 false) ∧
    reads 0xC4000C01 (.cpydLoc true (.q 0) (.q 0) 0 false) ∧
    reads 0xC4001000 (.cfil true (.q 0) (.q 0) 0 false) ∧
    reads 0xC4001001 (.cfilG true (.q 0) (.q 0) 0 false) ∧
    reads 0xC6000000 (.spawn true (.q 0) (.q 0)) ∧
    reads 0xC6000800 (.spawng true (.q 0) (.q 0)) ∧
    reads 0xC6000C00 (.quit true) ∧
    reads 0xC6001400 (.trig true) ∧
    reads 0xC6001800 (.yield true) :=
  ⟨⟨rfl, rfl⟩, ⟨rfl, rfl⟩, ⟨rfl, rfl⟩, ⟨rfl, rfl⟩, ⟨rfl, rfl⟩, ⟨rfl, rfl⟩, ⟨rfl, rfl⟩, ⟨rfl, rfl⟩, ⟨rfl, rfl⟩, ⟨rfl, rfl⟩, ⟨rfl, rfl⟩⟩

/-! Words that are no instruction, by name (R50, R52): function 0, a reserved bit, CAS width 0, LD width 7, FADD.f32 of width 3,
no storage in a fence, majors 0x1F and 0x3F. -/

theorem test_refused_words :
    decodeWord 0x00000000 = .error .illegalFunction ∧ decodeWord 0xFFFFFFFF = .error .illegalMajor ∧
    decodeWord 0x00000401 = .error .reservedField ∧ decodeWord 0x2E000000 = .error .illegalField ∧
    decodeWord 0x24007000 = .error .illegalField ∧ decodeWord 0x2C000039 = .error .reservedField ∧
    decodeWord 0x30000000 = .error .illegalField ∧ decodeWord 0x3E000000 = .error .illegalMajor := by decide

/-! ### Well-formedness refuses what the encodings do not admit -/

theorem test_wf_br : Instr.wf (.br false .z (.q 1) (.q 2) 0) = false ∧ Instr.wf (.br false .nz (.q 1) (.n 0) 0) = false ∧
    Instr.wf (.br false .z (.q 1) (.q 0) 0) = true := by decide
theorem test_wf_fence_mask : Instr.wf (.fncFull false (.q 0) (.q 0) false 0 .thread) = false ∧
    Instr.wf (.fncAcq false (.q 0) (.q 0) false 0 .thread) = false ∧
    Instr.wf (.fncRel false (.q 0) (.q 0) false 0 .thread) = false ∧
    Instr.wf (.fncReg false (.q 0) (.q 0) false 5 .thread) = false := by decide
theorem test_wf_fence_all : Instr.wf (.fncFull false (.q 1) (.q 0) true 4 .thread) = false ∧
    Instr.wf (.fncAcq false (.q 0) (.n 1) true 4 .thread) = false ∧
    Instr.wf (.fncRel false (.q 1) (.q 0) true 4 .thread) = false ∧
    Instr.wf (.fncReg false (.q 0) (.q 1) true 2 .thread) = false := by decide
theorem test_wf_vmsk : Instr.wf (.vmsk false 1 1 2 .not .s32 false) = false ∧ Instr.wf (.vmsk false 1 1 2 .nz .s32 false) = false ∧
    Instr.wf (.vmsk false 1 1 2 .first .s32 false) = false ∧ Instr.wf (.vmsk false 1 1 2 .and .s32 false) = true := by decide
theorem test_wf_mrd : Instr.wf (.mrd false (.q 0) (.q 1) 0 false 0) = false := by decide
theorem test_wf_cores : Instr.wf (.barrelIssueSlot 512) = false ∧ Instr.wf (.restore 0 512) = false ∧
    Instr.wf (.genConfirm 0 512) = false := by decide
theorem test_wf_threads : Instr.wf (.counterFullRelease 8192) = false ∧ Instr.wf (.sleepWake 8192) = false ∧
    Instr.wf (.copyQueueAdmit 8192) = false ∧ Instr.wf (.trapPost 8192) = false ∧ Instr.wf (.saveWrite 8192) = false ∧
    Instr.wf (.saveComplete 8192) = false := by decide
theorem test_wf_partitions : Instr.wf (.digestSweepDone 20) = false ∧ Instr.wf (.handlerStart 20) = false ∧
    Instr.wf (.faultRecordRepost 20) = false ∧ Instr.wf (.pagerStart 20 0) = false ∧ Instr.wf (.partitionQuiesced 20) = false ∧
    Instr.wf (.linkReqReceive 2 20 0 (.read 0 8)) = false ∧ Instr.wf (.linkFenceReceive 2 20 0) = false ∧
    Instr.wf (.linkAtomReceive 2 20 0 { pa := 0, op := .add, width := .w64, operand := 1, expected := 0 }) = false ∧
    Instr.wf (.ptpUpdate 20 0) = false ∧ Instr.wf (.slotStartDue 20 0) = false ∧ Instr.wf (.slotStartDue 0 64) = false := by decide
theorem test_wf_dies : Instr.wf (.diePoolMove 8 0) = false ∧ Instr.wf (.diePoolMove 0 8) = false ∧
    Instr.wf (.dupCollapse 0 8) = false ∧ Instr.wf (.dieStateEntry 8) = false ∧ Instr.wf (.dieWake 8) = false := by decide
theorem test_wf_ports : Instr.wf (.pub 128 0 []) = false ∧ Instr.wf (.pub 0 0 [(512, 0)]) = false ∧
    Instr.wf (.vfLtolWrite 128 0) = false ∧ Instr.wf (.hdmDecoderCommit 4 0 0) = false ∧ Instr.wf (.cxlLinkDown 3) = false ∧
    Instr.wf (.linkDown 36) = false ∧ Instr.wf (.laneFailure 36) = false ∧ Instr.wf (.linkFreqChange 36 ⟨0, 0⟩) = false ∧
    Instr.wf (.linkWidthRequest 36 8 0) = false ∧ Instr.wf (.linkWidthRequest 0 3 0) = false := by decide

/-! ### Small states, and for every statement the hypotheses it makes -/

/-- A register file with these named registers. -/
def regs (l : List (Fin 16 × Word)) : Vector Word 16 := l.foldl (fun v e => v.set e.1 e.2) (Vector.replicate 16 0)

/-- A thread of graph 1 in partition 0, with a window of 4 KiB, four accumulator slots, and these named registers. -/
def demoThread (l : List (Fin 16 × Word)) : Thread :=
  { Thread.empty with live := true, graph := 1, pc := 0x1000, named := regs l, winSize := 4096, slots := [0, 1, 2, 3],
                      geom := 0x000800080008 }

/-- A running partition of every group, one slice of die 0 and every channel. -/
def demoPart : Partition :=
  { Partition.empty with state := .running, layout := { groups := 0xFFFFFFF, il := 0x00FFFFFFFF000101, nb := 0x3FF, vtshare := 4 } }

/-- Space 0 of partition 0, homed on its slice. -/
def demoSpace : Space :=
  { part := 0, id := 0, home := 0, die := 0, device := 0, rpart := 0, backing := 0, purity := false, rspace := 0, rmap := false,
    vquota := 8, equota := 0 }

/-- Graph 1, of which tasks 0 and 1 have been formed; task 1 has quit. -/
def demoGraph : Graph :=
  { part := 0, id := 1, next := 2, tasks := [{ idx := 0, triggered := false, quit := false }, { idx := 1, triggered := true, quit := true }],
    released := true, ended := none, status := 0, entry := 0, asid := 0, pred := none, slot := none, refused := false }

/-- The package with that thread in context 0 of core 0, whose unit keeps a translation of the page at 0. -/
def demoChip (l : List (Fin 16 × Word)) (f : Thread → Thread) : Chip :=
  { Chip.reset with
    threads := [(0, f (demoThread l))], parts := [(0, demoPart)], graphs := [demoGraph], spaces := [demoSpace], nextId := 100
    cores := [(0, { Core.empty with tlb := [(0, 0, 0, 3, 0x9F)] })] }

/-- A machine with that package. -/
def demo (l : List (Fin 16 × Word)) (f : Thread → Thread := id) (g : Chip → Chip := id) : State :=
  { State.reset with chip := g (demoChip l f) }

/-- The demo's thread passes the decoder's checks for this header. -/
abbrev passes (s : State) (h : Hdr) : Prop := s.me.live = true ∧ s.me.check h = none

theorem passes_clear {s : State} {h : Hdr} (p : passes s h) : s.clear h := p

/-- A two-source header with a destination. -/
abbrev pushing (a b : Src) : Hdr := { sw := true, pair := [a, b], dest := some 4, push := true }

theorem witness_DecoderChecks_clash : (demo []).me.live = true ∧ (0 : Fin 16).val % 2 = (2 : Fin 16).val % 2 := by decide
theorem witness_DecoderChecks_hazard : (demo [] fun t => { t with pushes := 1, written := 4 }).me.live = true ∧
    (0 : Fin 16).val < (demo [] fun t => { t with pushes := 1, written := 4 }).me.pushes ∧
    (demo [] fun t => { t with pushes := 1, written := 4 }).me.written.getLsbD 2 = true := by decide
theorem witness_DecoderChecks_clear : passes (demo [] fun t => { t with pushes := 1, written := 4 }) (pushing (.q 1) (.n 3)) := by decide

theorem witness_IntResults : (demo [(2, 7), (3, 5)]).clear (pushing (.n 2) (.n 3)) := passes_clear (by decide)
theorem witness_Division : (demo [(2, 1 <<< 63), (3, -1)]).clear (pushing (.n 2) (.n 3)) ∧ (demo [(2, 7)]).clear (pushing (.n 2) (.n 3)) :=
  ⟨passes_clear (by decide), passes_clear (by decide)⟩
theorem witness_BitFunctions : (demo [(2, 7)]).clear { sw := true, pair := [.n 2], dest := some 4, push := true } ∧
    (demo [(2, 7), (3, 0)]).clear (pushing (.n 2) (.n 3)) ∧ (demo [(2, 7), (3, 1)]).clear (pushing (.n 2) (.n 3)) ∧
    (demo [(2, 7), (3, 64)]).clear (pushing (.n 2) (.n 3)) ∧ (demo [(2, 7), (3, 65)]).clear (pushing (.n 2) (.n 3)) :=
  ⟨passes_clear (by decide), passes_clear (by decide), passes_clear (by decide), passes_clear (by decide), passes_clear (by decide)⟩
theorem witness_ImmediatesAndLiterals : (demo [(2, 7)]).clear { sw := true, pair := [.n 2], dest := some 4, push := true } ∧
    (demo []).clear { sw := false, dest := none, push := true } :=
  ⟨passes_clear (by decide), passes_clear (by decide)⟩
theorem witness_Handles : (demo [(2, 0x0800000000050000), (3, 7)]).clear (pushing (.n 2) (.n 3)) ∧
    (demo [(2, 0x0800000000050000), (3, 8)]).clear (pushing (.n 2) (.n 3)) :=
  ⟨passes_clear (by decide), passes_clear (by decide)⟩
theorem witness_Branch : (demo [(2, 7)]).clear { sw := false, pair := [.n 2, .n 3], ends := true } ∧
    (demo [(2, 7)]).clear { sw := false, pair := [.n 2], ends := true } :=
  ⟨passes_clear (by decide), passes_clear (by decide)⟩
theorem witness_Jumps : (demo []).clear { sw := false, ends := true } ∧
    (demo []).clear { sw := false, push := true, links := true, ends := true } ∧
    (demo [(2, 0x2000)]).clear { sw := false, pair := [.n 2], ends := true } ∧
    (demo [(2, 0x2002)]).clear { sw := false, pair := [.n 2], push := true, links := true, ends := true } :=
  ⟨passes_clear (by decide), passes_clear (by decide), passes_clear (by decide), passes_clear (by decide)⟩
theorem witness_FpArith : (demo []).clear { sw := false, pair := [.n 2, .n 3], dest := some 4, push := true } ∧
    (demo []).clear { sw := false, pair := [.n 2, .n 3], extra := [.n 4], push := true } ∧
    (demo []).clear { sw := false, pair := [.n 2], dest := some 4, push := true } :=
  ⟨passes_clear (by decide), passes_clear (by decide), passes_clear (by decide)⟩
theorem witness_FpCompareAndClass : (demo []).clear (pushing (.n 2) (.n 3)) ∧
    (demo []).clear { sw := false, pair := [.n 2], dest := some 4, push := true } :=
  ⟨passes_clear (by decide), passes_clear (by decide)⟩
theorem witness_FpSpecial : (1 : Nat) ≠ 0 ∧ (FVal.nan true).isNan = true := by decide
/-- 1 is 1 in E5M2, and the rounding of 2^200 overflows it. -/
theorem witness_RoundsToNearest : (e5m2.round 0 false false 1 0).ovf = false ∧ (e5m2.round 0 false false 1 200).ovf = true ∧
    e5m2.value 0x3C = .fin false 4 (-2) := by decide

/-! Bytes, local memory, atomics, fences, counters. -/

/-- A store in flight. -/
def heldOp : Op :=
  { id := 7, tid := 0, part := 0, task := 65536, level := .user, asid := 0, pc := 0, insn := 0, push := false, named := none, eng := false,
    cc := none, opA := 0, opB := 0, ranges := [], fault := none, asked := false, replies := [], ready := false, result := 0,
    moving := none, body := .store 0x200 [1] }

/-- A fence of the thread holds back writes of every kind until it is past. -/
def held : State := demo [(2, 0x100), (3, 0x104)] (fun t => { t with holds := [{ ids := [7], mask := 7, scope := .domain }] }) fun c =>
  { c with ops := [heldOp] }

theorem witness_ByteAccesses : (demo [(2, 0x100)]).me.pureTask = none ∧
    (demo [(2, 0x100)]).clear { sw := true, pair := [.n 2], dest := some 4, push := true } ∧
    (demo [(2, 0x100), (3, 1)]).clear { sw := true, pair := [.n 2, .n 3] } ∧ (demo [(2, 0x100)]).chip.relHeld 2 = none ∧
    held.me.pureTask = none ∧ held.clear { sw := true, pair := [.n 3, .n 2] } ∧ held.chip.relHeld 2 = some (.ops [7]) :=
  ⟨by decide, passes_clear (by decide), passes_clear (by decide), by decide, by decide, passes_clear (by decide), by decide⟩
/-- The last place of the window, and the first address beyond it. -/
theorem witness_LocalAccesses : (demo [(2, 4088)]).clear { sw := true, pair := [.n 2], dest := some 4, push := true } ∧
    (demo [(2, 4088)]).clear { sw := true, pair := [.n 3, .n 2] } ∧ (demo [(2, 4088)]).place 4088 8 8 = some 4088 ∧
    (demo [(2, 4088)]).place 4096 8 8 = none ∧ (demo [(2, 4088)]).place 4092 8 8 = none ∧ (demo []).chip.relHeld 0 = none ∧
    (demo [] fun t => { t with gangBase := 8192, gangSize := 16 }).place 0x80000008 8 8 = some 8200 ∧
    (demo [] fun t => { t with gangBase := 8192, gangSize := 16 }).place 0x80000010 8 8 = none :=
  ⟨passes_clear (by decide), passes_clear (by decide), by decide, by decide, by decide, by decide, by decide, by decide⟩
theorem witness_Atomics : (demo [(2, 0x100)]).me.pureTask = none ∧ (demo [(2, 0x100)]).chip.relHeld 2 = none ∧
    (demo [(2, 0x100)]).clear (pushing (.n 2) (.n 3)) ∧
    (demo [(2, 0x100)]).clear { sw := true, pair := [.n 2, .n 3], extra := [.n 4], push := true } :=
  ⟨by decide, by decide, passes_clear (by decide), passes_clear (by decide)⟩
theorem witness_Fences : (demo [(2, -1), (3, 1)]).clear { sw := false, pair := [.n 2, .n 3] } ∧
    (demo [(2, -1), (3, 1)]).clear { sw := false, pair := [] } ∧ (-1 : Word).toNat + (1 : Word).toNat ≤ 2 ^ 64 ∧
    ¬(-1 : Word).toNat + (2 : Word).toNat ≤ 2 ^ 64 :=
  ⟨passes_clear (by decide), passes_clear (by decide), by decide, by decide⟩
/-- A store in flight is in the set of a full fence on all of byte memory, and a tile request that travels in that of any on tiles. -/
theorem witness_Fences_set : (∃ o ∈ held.chip.ops, o.tid = held.chip.cur ∧ o.body.writes = true ∧ held.chip.outOfReach .domain o = false) ∧
    held.chip.fenceSet .full .domain true 4 0 0 = [7] ∧ held.chip.fenceSet .acq .domain true 4 0 0 = [] ∧
    (demo []).chip.fenceSet .full .die true 4 0 0 = [] ∧ (demo []).chip.fullOwed 0 .die = false ∧
    (OpBody.tile false).isTile = true := by decide +kernel
/-- An MRD of the tile route before its request; and a FULL fence of the widest scope. -/
theorem witness_Fences_tile : let o := { heldOp with eng := true, body := .mx (.rdTile [0] false 8 8 0x0800000000050000 1) }
    let c := { held.chip with ops := [o] }
    o.tid = c.cur ∧ c.op? o.id = some o ∧ o.storesTo.isSome = true ∧ (2 : BitVec 3).getLsbD 1 = true ∧ AgentScope.domain.wide = true := by
  decide +kernel
theorem witness_CountersAndWaits : (demo [(2, 0x100)]).me.pureTask = none ∧ (demo [(2, 0x100)]).clear (pushing (.n 2) (.n 3)) ∧
    (demo []).clear { sw := false } ∧ (demo [(2, 255)]).clear { sw := false, pair := [.n 2] } ∧
    (demo []).clear { sw := false, dest := some 4, push := true } ∧ (demo []).clear { sw := false, pair := [.n 2, .n 3] } ∧
    (demo [(2, 255)]).chip.unperformedIds = [] ∧ held.chip.unperformedIds = [7] :=
  ⟨by decide, passes_clear (by decide), passes_clear (by decide), passes_clear (by decide), passes_clear (by decide),
    passes_clear (by decide), by decide, by decide⟩

/-- Outside a pure task every access is performed (the premise of the statements about accesses). -/
theorem lenient_outside {s : State} (h : s.me.pureTask = none) (ok : PureTask → Bool) (space : Bool) : s.lenient ok space = true := by
  simp only [State.lenient, h]

/-- A pure task, strict or not, of one argument. -/
def pureDemo (strict : Bool) : State := demo [(2, 0x100), (3, 0x108)] fun t => { t with
  pureTask := some { strict := strict, args := [0x0800000000070000], outs := [], uses := [], key := none, keyNo := 0, violated := false,
                     published := [], held := [] } }

/-- A lenient task may make every access; a strict one may use its argument. -/
theorem witness_lenient : (pureDemo false).lenient = true ∧ (pureDemo true).lenient = false ∧ (pureDemo false).lenient (space := true) = false ∧
    (pureDemo true).lenient (fun p => p.args.any (sameVersion 0x0800000000070000)) = true ∧
    (pureDemo false).clear { sw := true, pair := [.n 2], dest := some 4, push := true } :=
  ⟨by decide, by decide, by decide, by decide, passes_clear (by decide)⟩

/-- The machine that a pure task of one argument runs on: n2 an address, n4 a handle, n5, n13 and n15 records in its window. -/
def pureAll (strict : Bool) (amode : Word := 4) : State :=
  demo [(1, 0x800), (2, 0x100), (3, 0x40000), (4, 0x0800000000050000), (5, 1024), (7, 2 <<< 32), (9, 1), (11, 0x105), (13, 2048),
    (15, 3072)] (fun t => { t with amode := amode, cpShape := 0x100000010, pureTask := (pureDemo strict).me.pureTask }) fun c => c.modCore 0 fun q =>
      { q with scratch := [(1032, 2 <<< 32), (3072, 0x0800000000060000), (3080, 1)].foldl (fun m e => m.setBytes e.1 (bytesOfNat 8 e.2)) q.scratch }

/-- The instruction issues here. -/
def issues (i : Instr) (s : State) : Bool := match exec i s with
  | .next u => u.me.pc == s.me.pc + 4
  | _ => false

/-- Every access that the statement names would issue outside the task, and none is one that the task may make. -/
theorem witness_PureAccesses : ∀ strict, (pureAll strict).me.live = true ∧ (∃ p, (pureAll strict).me.pureTask = some p ∧ p.strict = strict) ∧
    ∀ i ∈ [Instr.ld false none (.n 2) .d64 0, .st false (.n 3) (.n 2) .b64 0, .amoAdd false none (.n 2) (.n 3) .w64 .rlx .die,
      .cas false (.n 0) (.n 2) (.n 3) .w32 .rlx .die, .amoFaddF32 false none (.n 2) (.n 3) .rlx .die, .amoFaddF64 false none (.n 2) (.n 3) .rlx .die,
      .mwait false none (.n 2) (.n 3), .crd false none 0, .pgdone false none (.n 2) (.n 3), .ctlrd false none .time,
      .vldg false 1 (.n 2) .s32 0 false, .vstg false 1 (.n 2) .s32 0 false, .vgath false 1 2 (.n 2) .s32 0 false, .vscat false 1 2 (.n 2) .s32 0 false,
      .cpyg false (.n 2) (.n 5) 0 false, .cpygOut false (.n 5) (.n 2) 0 false, .cpyd false (.n 5) (.n 2) 0 false, .cpydLoc false (.n 5) (.n 2) 0 false,
      .cfilG false (.n 2) (.n 3) 0 false, .timp false (.n 4) (.n 5) 0 false, .texp false (.n 4) (.n 13) 0 false false,
      .tadd false (.n 4) (.n 9) 0 false, .trel false (.n 4) (.n 9) 0 false, .tspace false (.n 11) (.n 0) 0 false,
      .tld false (.n 4) (.n 5) 0 false false, .tldv false (.n 4) 0 0 false, .twait false (.n 4) 0 false, .tdig false (.n 4) 0 false false,
      .tinfo false (.n 4) 0 false, .tprobe false (.n 4) 0 false, .tst false (.n 4) (.n 7) 0 false, .tstv false (.n 4) (.n 9) 0 false 0,
      .talias false (.n 4) (.n 15) 0 false, .mrdTile false (.n 0) (.n 15) 0 false, .mldb false (.n 4) (.n 1) 0 false],
      issues i ((pureAll strict).withMe fun w => { w with pureTask := none }) = true := by
  intro strict; cases strict <;> exact ⟨by decide +kernel, ⟨_, rfl, rfl⟩, by decide +kernel⟩
theorem witness_PureAccesses_mmul : ∀ e ∈ [((1 : Nat), Src.n 4), (2, .n 2)], ∃ w : Word, w.toNat % 4 = e.1 ∧
    issues (.mmul false e.2 (.n 9) 0) ((pureAll true w).withMe fun w => { w with pureTask := none }) = true := by
  intro e he
  refine ⟨BitVec.ofNat 64 (4 + e.1), ?_, ?_⟩ <;> revert e <;> decide +kernel
theorem witness_PureAccesses_names : ∃ p, (pureAll true).me.pureTask = some p ∧
    [(0x0800000000050000 : Word), 0x0800000000060000].all (fun h => !p.args.any (sameVersion h) && !p.outs.any (sameVersion h)) = true :=
  ⟨_, rfl, by decide⟩

/-! Vectors. -/

/-- An instruction of the pipe, one whose lane is not there, and one whose form R241 does not give. -/
theorem witness_VectorPerformed :
    (∃ h x, (demo []).me.vecForm (.vaddInt true 1 2 3 .s32 0 false) = some (h, x) ∧ (demo []).clear h) ∧
    (demo []).me.vecOk (.vaddInt true 1 2 3 .s32 0 false) ∧ (demo []).chip.piped = [] ∧
    (∃ h x, (demo [(4, 64)]).me.vecForm (.vext true 1 (.n 4) .s32 false) = some (h, x) ∧ (demo [(4, 64)]).clear h) ∧
    (demo [(4, 63)]).me.vecOk (.vext true 1 (.n 4) .s32 false) ∧ ¬(demo [(4, 64)]).me.vecOk (.vext true 1 (.n 4) .s32 false) ∧
    ¬(demo []).me.vecOk (.vqnt true 1 2 2 .e4m3 .f32 0 false) :=
  ⟨⟨_, _, rfl, passes_clear (by decide)⟩, trivial, by decide, ⟨_, _, rfl, passes_clear (by decide)⟩,
    (by decide : (63 : Nat) < 64), (by decide : ¬(64 : Nat) < 64),
    (by decide : ¬((2 : BitVec 3) = 1 ∨ ((2 : BitVec 3) = 0 ∧ Narrow.e4m3 ≠ .nat8)))⟩
theorem witness_VectorLanes : EType.s8.isFloat = false ∧ EType.s64.isFloat = false ∧ EType.f64.isFloat = true ∧
    EType.f16.isFloat = true := by decide
/-- Running results from a first one. -/
def running (first : FRes) (next : Nat → Nat → FRes) (x : Nat → Nat) : Nat → FRes
  | 0 => first
  | k + 1 => next (running first next x k).1 (x (k + 1))

theorem running_spec (first : FRes) (next : Nat → Nat → FRes) (x : Nat → Nat) :
    ∃ acc : Nat → FRes, acc 0 = first ∧ ∀ k, acc (k + 1) = next (acc k).1 (x (k + 1)) := ⟨running first next x, rfl, fun _ => rfl⟩

/-- The running results over any lanes are there. -/
theorem witness_VectorReductions (et : EType) (next : Nat → Nat → FRes) (x : Nat → Nat) : ∃ acc, Accumulates et next x acc :=
  (running_spec _ next x).imp fun _ h => ⟨h.1, h.2⟩
theorem witness_VectorMemory : (demo [(2, 0x100)]).me.pureTask = none ∧ (demo [(2, 0x100)]).chip.relHeld 0 = none ∧
    (demo [(2, 0x100)]).chip.relHeld 2 = none ∧ (demo [(2, 0x100)]).clear { sw := true, extra := [.n 2], vuse := [1] } ∧
    (demo [(2, 0x100)]).clear { sw := true, extra := [.n 2], vuse := [1], vout := [1] } ∧
    (demo [(2, 0x100)]).clear { sw := true, extra := [.n 2], vuse := [1, 2] } ∧
    (demo [(2, 0x100)]).clear { sw := true, extra := [.n 2], vuse := [1, 2], vout := [1] } ∧
    (demo [(2, 0x100)]).place 3840 256 4 = some 3840 ∧ (demo [(2, 0x100)]).place 3844 256 4 = none :=
  ⟨by decide, by decide, by decide, passes_clear (by decide), passes_clear (by decide), passes_clear (by decide),
    passes_clear (by decide), by decide, by decide⟩

/-! Tiles, engines and copies. -/

/-- An 8 × 8 FP64 tile of space 0, index 5, version 0: 512 bytes. -/
abbrev tile8 : Word := 0x0800000000050000

/-- n2 holds a handle, n3 a local address or a word, and scratchpad this word at 0. -/
def tileDemo (x y : Word) (words : List (Nat × Word)) : State :=
  demo [(2, x), (3, y)] id fun c => c.modCore 0 fun q =>
    { q with scratch := words.foldl (fun m e => m.setBytes e.1 (bytesOfNat 8 e.2.toNat)) q.scratch }

theorem free_idle {s : State} (h : s.chip.ops = []) (p n : Nat) : s.free p n := by
  refine ⟨fun o ho => ?_, fun o ho => ?_⟩ <;> rw [h] at ho <;> cases ho

theorem witness_TileReads : (tileDemo tile8 3584 []).me.pureTask = none ∧
    (tileDemo tile8 3584 []).clear { sw := false, pair := [.n 2], push := true } ∧
    (tileDemo tile8 3584 []).clear { sw := false, pair := [.n 2, .n 3], push := false } ∧
    (tileDemo tile8 3584 []).clear { sw := false, pair := [.n 2], push := true, vuse := [6, 7], vout := [6, 7] } ∧
    (tileDemo tile8 3584 []).chip.piped = [] ∧ (tileDemo tile8 3584 []).free 3584 16 ∧ badHandle tile8 = false ∧
    tbytes tile8 = 512 ∧ (tileDemo tile8 3584 []).place 3584 512 16 = some 3584 ∧
    (tileDemo tile8 3584 []).place 3600 512 16 = none ∧ badHandle 0x4000000000000000 = true :=
  ⟨by decide, passes_clear (by decide), passes_clear (by decide), passes_clear (by decide), by decide, free_idle rfl _ _,
    by decide, by decide, by decide, by decide, by decide⟩
theorem witness_TileWrites : (tileDemo tile8 3584 []).me.pureTask = none ∧ (tileDemo tile8 3584 []).chip.relHeld 1 = none ∧
    (tileDemo tile8 3584 []).clear { sw := false, pair := [.n 2, .n 3], push := true } ∧
    (tileDemo tile8 3584 []).clear { sw := false, pair := [.n 2, .n 3], push := true, vuse := [6, 7] } ∧
    (tileDemo tile8 3584 []).chip.piped = [] ∧ (tileDemo tile8 3584 []).free 3584 512 ∧
    ((demo [] fun t => { t with level := .sup }).me.level ≠ .user ∧ (demo [] fun t => { t with level := .sup }).free 0 64) :=
  ⟨by decide, by decide, passes_clear (by decide), passes_clear (by decide), by decide, free_idle rfl _ _, by decide, free_idle rfl _ _⟩
theorem witness_EngineRegisters : (demo [(2, 5), (3, 0x27)]).clear { sw := false, pair := [.n 2, .n 3] } ∧
    (demo [(2, 6)]).clear { sw := false, pair := [.n 2, .n 3] } ∧ (demo [(2, 6)]).clear { sw := false, pair := [.n 2], push := true } ∧
    (demo [(2, 7)]).clear { sw := false, pair := [.n 2], push := true } :=
  ⟨passes_clear (by decide), passes_clear (by decide), passes_clear (by decide), passes_clear (by decide)⟩
/-- FP64 rows K by N at 0, of 512 bytes; and a bind word with a reserved bit. -/
theorem witness_MatrixBinds : (demo [(2, 0), (3, 0x20)]).me.pureTask = none ∧
    (demo [(2, 0), (3, 0x20)]).clear { sw := false, pair := [.n 2, .n 3], push := true } ∧ mxFormat 1 = true ∧
    0x20 / 2 ^ 5 % 32 = 1 ∧ 8 * elemBytes 1 8 = 512 ∧ (demo [(2, 0), (3, 0x20)]).place 0 512 16 = some 0 ∧
    ((0x20 : Nat) < 2 ^ 12 ∧ (0x20 : Nat) % 4 < 2 ∧ ∃ p q, macroShape (isMCore 0) (0x20 / 4 % 8) = some (p, q) ∧ 8 ≤ 64 * q ∧ 8 ≤ 64 * p) ∧
    (demo [(2, 0), (3, 0x1020)]).clear { sw := false, pair := [.n 2, .n 3], push := true } ∧ ¬(0x1020 : Nat) < 2 ^ 12 :=
  ⟨by decide, passes_clear (by decide), by decide, by decide, by decide, by decide, ⟨by decide, by decide, 1, 16, by decide⟩,
    passes_clear (by decide), by decide⟩
/-- FP64 rows of A at 0, slot 3 of four; the last slot word that is allowed. -/
theorem witness_MatrixProducts : let s := demo [(2, 0), (3, 3)] fun t => { t with amode := 4 }
    s.me.pureTask = none ∧ s.clear { sw := false, pair := [.n 2, .n 3], push := true, ends := true } ∧
    s.val (.n 3) = 3 ∧ s.me.amode.toNat % 4 = 0 ∧ s.me.amode.toNat / 4 % 32 = 1 ∧ s.me.amode.toNat / 2 ^ 7 % 2 ≠ 1 ∧
    s.me.amode.toNat / 2 ^ 32 = 0 ∧ s.me.geom.toNat % 2 ^ 16 = 8 ∧ s.me.ladder.toNat / 8 % 8 = 4 ∧ s.me.slots.length = 4 ∧
    (∃ t : State, t = demo [(2, 0), (3, 3)] (fun t => { t with amode := 4, ladder := 0x12 }) ∧ t.me.ladder.toNat / 8 % 8 = 2 ∧
      3 + 1 ≤ t.me.slots.length) ∧ s.place (s.val (.n 2)) (7 * 64 + 64) 16 = some 0 ∧ s.counter s.myCore 0 ≠ 255 :=
  ⟨by decide, passes_clear (by decide), by decide, by decide, by decide, by decide, by decide, by decide, by decide, by decide,
    ⟨_, rfl, by decide, by decide⟩, by decide, by decide⟩
/-- A block of A and one of B at rung 4, each of one element: their codes are not 0, nor 255. -/
theorem witness_MatrixProducts_block : let b := fun (v : Int) => qblock 4 1 (mxInt 1) none [some (.ofInt v)]
    (b 3).code ≠ 0 ∧ (b 3).code ≠ 255 ∧ (b 0).vals = [some (.fin false 0 0)] ∧ ([FVal.fin false 1 0] : List FVal)[0]? = some (.fin false 1 0) ∧
    (qblock 0 1 (mxInt 1) none [some (.ofInt 0)]).code = 0 ∧ (qblock 0 1 (mxInt 1) none [some (.nan false)]).code = 255 := by decide +kernel
/-- The core's bind is of 8 rows, or of 4: K = 8 is within it, or is not. -/
theorem witness_MatrixProducts_bind : let core := fun (k : Nat) => (demo [] id fun c => c.modCore 0 fun q => { q with
      bind := some { src := .scratch 0, fmt := 1, blocked := false, kByN := true, shape := 0, k := k, n := 8, sparse := 0, rows := k, cols := 8,
                     presence := [], olds := [] } }).chip
    ((core 8).bindBefore 100 0).map Bind.k = some 8 ∧ ((core 4).bindBefore 100 0).map Bind.k = some 4 ∧
    ((core 4).bindBefore 100 0).any (fun q => decide (q.k < 8)) = true := by decide +kernel
/-- A blocked form that FP64 does not have; and a WIDE pair of which slot 1 is NARROW. -/
theorem witness_MatrixSlots_refused : (demo [(2, 0), (3, 1024)] fun t => { t with amode := 0x84 }).me.amode.getLsbD 7 = true ∧
    blockable ((0x84 : Word).toNat / 4 % 32) = false ∧
    (demo [] (fun t => { t with geom := 0x000800400008 }) fun c => c.modCore 0 fun q => { q with wide := [0] }).readSlots 0 = none ∧
    (demo [] (fun t => { t with geom := 0x000800400008 }) fun c => c.modCore 0 fun q => { q with wide := [0, 1] }).readSlots 0 = some [0, 1] := by
  decide +kernel
theorem witness_MatrixSlots : let s := tileDemo 3 1024 [(1024, tile8), (1032, 1)]
    let u := demo [(2, 0), (3, 1024)] fun t => { t with amode := 4, sparse := 2048 <<< 32 }
    s.me.pureTask = none ∧ s.chip.relHeld 1 = none ∧ s.clear { sw := false, pair := [.n 2, .n 3], push := true } ∧
    numeric 1 = true ∧ s.place 1024 (8 * elemBytes 1 8) 16 = some 1024 ∧ s.place 1024 16 8 = some 1024 ∧ s.free 1024 16 ∧
    s.localWord 1024 = tile8 ∧ s.localWord 1032 = 1 ∧ badHandle tile8 = false ∧ s.tileSlots 3 false = some [3] ∧
    s.tileSlots 4 false = none ∧
    (u.me.amode.toNat / 4 % 32 = 1 ∧ cmpFormat 1 = true ∧ u.place 0 (8 * elemBytes 1 8) 16 = some 0 ∧
      u.place 1024 (8 * elemBytes 1 (8 / 8 * 4)) 16 = some 1024 ∧ u.place (BitVec.ofNat 64 (u.me.sparse.toNat / 2 ^ 32)) 8 16 = some 2048) ∧
    s.chip.piped = [] ∧ s.clear { sw := false, pair := [.n 2], push := true, vuse := [1] } ∧
    s.clear { sw := false, pair := [.n 2], push := true, vuse := [1], vout := [1] } :=
  ⟨by decide, by decide, passes_clear (by decide), by decide, by decide, by decide, free_idle rfl _ _, by decide +kernel,
    by decide +kernel, by decide, by decide, by decide, by decide, by decide, passes_clear (by decide), passes_clear (by decide)⟩

/-- Copies of two rows of 16 bytes, with a stride of 32 at each end. -/
def copyDemo (x y : Word) : State :=
  demo [(2, x), (3, y)] fun t => { t with cpShape := 0x200000010, cpSstride := 32, cpDstride := 32 }

/-- Misaligned addresses at either end, a misaligned row size and a flag, and a local row outside the window. -/
theorem witness_CopyCommands_refused : ([(2 : Word), 1024].find? fun p => p.toNat % 4 != 0) = some 2 ∧
    ([(0 : Word), 1026].find? fun p => p.toNat % 4 != 0) = some 1026 ∧ ¬(demo [] fun t => { t with cpShape := 0x100000006 }).copyAligned false ∧
    (copyDemo 0 1024).copyAligned false ∧ (copyDemo 0 1024).me.cpFlag.toNat % 8 = 0 ∧
    ¬((copyDemo 0 1024).copyOk false false ∧ (0x0400000000000 : Nat) < 2 ^ 42) ∧
    (copyDemo 0 4096).place (4096 + BitVec.ofNat 64 (0 * 32)) 16 1 = none := by
  refine ⟨by decide, by decide, ?_, ?_, by decide, fun h => absurd h.2 (by decide), by decide⟩ <;> unfold State.copyAligned <;> decide +kernel
theorem witness_CopyCommands : (copyDemo 0 1024).me.pureTask = none ∧
    (copyDemo 0 1024).clear { sw := false, pair := [.n 2, .n 3], push := true } ∧ (copyDemo 0 1024).copyOk false true ∧
    (copyDemo 0 1024).copyOk true false ∧ ((copyDemo 0 1024).copyGeo false).rows = 2 ∧ ((copyDemo 0 1024).copyGeo false).sstride = 32 ∧
    (copyDemo 0 1024).place 0 16 1 = some 0 ∧ (copyDemo 0 1024).place (0 + BitVec.ofNat 64 (1 * 32)) 16 1 = some 32 ∧
    (copyDemo 0 1024).place 1024 16 1 = some 1024 ∧ (copyDemo 0 1024).place (1024 + BitVec.ofNat 64 (1 * 32)) 16 1 = some 1056 :=
  ⟨by decide, passes_clear (by decide), by unfold State.copyOk; decide +kernel, by unfold State.copyOk; decide +kernel,
    by decide, by decide, by decide, by decide, by decide, by decide⟩
/-- Context 3 of core 1 of die 0, local address 0x40, and the same under another die. -/
theorem witness_CopyCommands_far : (0x001300000040 : Nat) % 4 = 0 ∧ (0x001300000040 : Nat) < 2 ^ 45 ∧
    (0x001300000040 : Nat) / 2 ^ 42 = (copyDemo 0 0).me.cpQueue.toNat % 8 ∧ (0x001300000040 : Nat) / 2 ^ 36 = 1 ∧
    (0x001300000040 : Nat) / 2 ^ 32 % 16 = 3 := by decide

/-! Tasks. -/

theorem witness_TaskSpawns : (demo [(2, 0x2000), (3, 0)]).me.pureTask = none ∧
    (demo [(2, 0x2000), (3, 0)]).clear (spawnHdr true (.n 2) (.n 3)) ∧ placeBad 0 = false ∧
    (demo [(2, 0x2000), (3, 0)]).chip.placeCause 0 0 false = none ∧
    (demo [(2, 0x2000), (3, 2 <<< 23)]).chip.placeCause 0 (2 <<< 23) true = none ∧
    (demo []).chip.placeCause 0 0 true = some .gangTooLarge ∧ placeBad 0x1C000 = true ∧
    ((demo []).chip.graph? 0 1).map Graph.next = some 2 :=
  ⟨by decide, passes_clear (by decide), by decide, by decide +kernel, by decide +kernel, by decide +kernel, by decide, by decide⟩

/-- An argument block at 0 with one output, and an entry record of code at 0x2000 at byte address 0x100. -/
def pureSpawnDemo : State :=
  let s := tileDemo 0x100 0 [(0, 0x100), (0x70, tile8), (0x90, 1)]
  { s with chip := { s.chip with mem := (s.chip.mem.setBytes 0x100 (bytesOfNat 8 0x2000)).setBytes 0x108 (bytesOfNat 8 64) } }

theorem witness_PureSpawns : pureSpawnDemo.me.pureTask = none ∧
    pureSpawnDemo.clear { sw := true, pair := [.n 2, .n 3], push := true } ∧ pureSpawnDemo.place 0 160 16 = some 0 ∧
    pureSpawnDemo.free 0 160 ∧ pureSpawnDemo.early 0x100 16 (bytesOfNat 8 0x2000 ++ bytesOfNat 8 64) ∧
    (argBlock ((pureSpawnDemo.chip.core 0).scratch.bytes 0 160)).ok 0x2000 64 = true ∧
    (demo [(2, 0x104)]).clear { sw := true, pair := [.n 2, .n 3], push := true } ∧ (0x104 : Nat) % 8 ≠ 0 :=
  ⟨by decide, passes_clear (by decide), by decide, free_idle rfl _ _,
    ⟨by decide, .inr ⟨by decide, (by intro o ho; cases ho), by decide, [.here ((List.range 16).map (0x100 + ·)) none], rfl,
      by decide, by decide, by decide, by decide, (by intro a _; rfl), by decide +kernel⟩⟩,
    by decide +kernel, passes_clear (by decide), by decide⟩

/-- A live list of no ranges at local 64, whose header is 0. -/
theorem witness_TaskSteps : (demo []).clear { sw := false } ∧ (demo [(2, 1 <<< 16 ||| 1)]).clear { sw := false, pair := [.n 2], push := true } ∧
    (demo [(2, 64)]).clear { sw := false, pair := [.n 2] } ∧ (demo [(2, 64)]).place 64 (8 + 8 * 0) 8 = some 64 ∧
    (demo [(2, 64)]).free 64 (8 + 8 * 0) ∧ ((demo [(2, 64)]).localWord 64).toNat / 2 ^ 20 % 2 ^ 8 = 0 ∧
    (demo [(2, 64)]).me.headOk ((demo [(2, 64)]).localWord 64) = true ∧
    (demo [(2, 64)]).me.listOk [(demo [(2, 64)]).localWord 64] = true ∧ (demo []).me.marked = none ∧
    (demo [] fun t => { t with marked := some 0 }).me.marked ≠ none :=
  ⟨passes_clear (by decide), passes_clear (by decide), passes_clear (by decide), by decide, free_idle rfl _ _, by decide +kernel,
    by decide +kernel, by decide +kernel, by decide, by decide⟩

/-! Control registers, partitions, the system, traps. -/

/-- The demo at a level. -/
def atLevel (l : Level) (r : List (Fin 16 × Word)) : State := demo r fun t => { t with level := l }

theorem witness_ControlReads : (demo []).me.live = true ∧ (demo []).me.level = .user ∧
    (∀ r ∈ [CReg.tid, .trapvec, .partCtl, .cel 4, .mxc 9], passes (atLevel .pkg []) { sw := false, dest := none, push := true, level := r.readLevel }) ∧
    (demo []).me.pureTask = none ∧ (∃ q, (pureDemo true).me.pureTask = some q ∧ q.strict = true) ∧
    (pureDemo true).clear { sw := false, dest := none, push := true, level := CReg.time.readLevel } :=
  ⟨by decide, by decide, by decide, by decide, ⟨_, rfl, rfl⟩, passes_clear (by decide)⟩
theorem witness_ControlWrites : (demo [(2, 4)]).me.pureTask = none ∧
    (∀ r ∈ [CReg.fflags, .slottab, .partCtl, .time], passes (atLevel .pkg [(2, 4)]) { sw := false, pair := [.n 2], level := r.writeLevel }) ∧
    (demo []).me.live = true ∧ (atLevel .pkg []).me.level = .pkg ∧
    (demo []).chip.ctlBad .fflags 0x9F = false ∧ (demo []).chip.ctlBad .fflags 0xA0 = true ∧ (demo []).chip.ctlBad .vcsr 4 = false ∧
    (demo []).chip.ctlBad .vcsr 5 = true ∧ (demo []).chip.ctlBad .trapsave 20 = false ∧ (demo []).chip.ctlBad .trapsave 41 = true := by
  decide

/-- Partition 1 undefined and partition 0 of only groups 0 to 11; SEL names this partition, whose staged layout is this. -/
def partDemo (sel : Nat) (state : PState) (l : Layout) : State := demo [] id fun c =>
  { c with sel := sel, parts := [(0, { demoPart with state := if sel = 0 then state else .quiesced, staged := if sel = 0 then l else .empty,
                                                     layout := { demoPart.layout with groups := 0xFFF }, msrc := 1 }),
                                 (1, { Partition.empty with state := state, staged := l })] }
/-- A layout of group 12 of die 4 with a slice and channels of die 4. -/
def layout4 : Layout := { groups := 0x1000, il := 0x00FFFFFFFF000110, nb := 0x10, vtshare := 4 }

theorem witness_PartitionCommands_create : ((partDemo 1 .undefined layout4).chip.part 1).state = .undefined ∧
    (partDemo 1 .undefined layout4).chip.layoutBad [1] layout4 = false ∧
    (partDemo 1 .undefined .empty).chip.layoutBad [1] .empty = true ∧
    ((partDemo 1 .quiesced layout4).chip.part 1).state ≠ .undefined := by decide +kernel
theorem witness_PartitionCommands_commit : ((partDemo 1 .quiesced layout4).chip.part 1).state = .quiesced ∧
    (partDemo 1 .quiesced layout4).chip.layoutBad [1] layout4 = false ∧
    (partDemo 1 .quiesced layout4).chip.holdsOn 1 (fun x => Layout.empty.hasSlice x && !layout4.hasSlice x) = false ∧
    (partDemo 1 .quiesced layout4).chip.strands 1 layout4 = false := by decide +kernel
theorem witness_PartitionCommands_merge : let s := partDemo 0 .quiesced { demoPart.layout with groups := 0xFFF }
    let c := s.chip.modPart 1 fun q => { q with layout := layout4 }
    (c.part 0).state = .quiesced ∧ (c.part (c.part 0).msrc).state = .quiesced ∧
    c.layoutBad [0, 1] ((c.part 0).staged.join (c.part 1).layout) = false ∧ c.cqStatus 0 = 0 ∧ c.cqStatus 1 = 0 ∧
    c.holdsState 1 = false ∧ c.strands 0 ((c.part 0).staged.join (c.part 1).layout) = false := by decide +kernel
theorem witness_PartitionCommands_destroy : ((partDemo 1 .quiesced layout4).chip.part 1).state = .quiesced ∧
    (partDemo 1 .quiesced layout4).chip.holdsState 1 = false := by decide +kernel

theorem witness_SystemSteps :
    (atLevel .sup [(2, 0)]).clear { sw := false, pair := [.n 2], dest := some 4, push := true, level := .sup } ∧
    (demo [(2, 1), (3, 0)]).me.pureTask = none ∧ (demo [(2, 1), (3, 0)]).clear (pushing (.n 2) (.n 3)) ∧
    (atLevel .pkg [(2, 19)]).clear { sw := false, pair := [.n 2, .n 3], dest := some 4, push := true, level := .pkg } ∧
    (atLevel .pkg [(2, 20)]).clear { sw := false, pair := [.n 2], dest := some 4, push := true, level := .pkg } ∧
    (demo [(2, -1), (3, 1)]).clear { sw := false, pair := [.n 2, .n 3] } ∧ (atLevel .sup []).clear { sw := false, level := .sup } :=
  ⟨passes_clear (by decide), by decide, passes_clear (by decide), passes_clear (by decide), passes_clear (by decide),
    passes_clear (by decide), passes_clear (by decide)⟩
theorem witness_Privilege : (demo []).me.live = true ∧ (demo []).me.level = .user ∧ (atLevel .sup []).me.level ≠ .pkg := by decide

/-- A trap of TRAP at 0x1000 of a thread that pushed. -/
def demoTrap : TrapRec :=
  { id := 99, cause := .trapInstr, code := 7, eng := false, pc := 0x1000, insn := 0, opA := 0, opB := 0, addr := 0, token := 0,
    pushes := true, named := some 4, ends := false, op := none, seq := 0, req := none }

/-- A thread that owes it, in a partition with a save area. -/
def owingDemo : State := demo [] (fun t => { t with stopped := true, owed := [demoTrap] }) fun c =>
  c.modPart 0 fun q => { q with trapsave := 20, trapvec := 0x4000 }

/-- That trap in the queue, and in the hearth. -/
def queuedTrap : QueuedTrap :=
  { tid := 8192, seq := 0, own := 0, asid := 0, cause := 0x60, task := 65536, core := 0, words := [] }

/-- A thread of context 0 stands trapped, and the handler in context 15 answers. -/
def handlerDemo : State := demo [] (fun t => { t with posted := some demoTrap, park := .trapped, stopped := true }) fun c =>
  { (c.modThread 15 fun t => { t with live := true, level := .sup, handling := some 8192 }).modPart 0 fun q =>
      { q with trapsave := 20, trapvec := 0x4000, hearthBusy := some queuedTrap } with cur := 15 }

theorem witness_TrapsAndAnswers_post : owingDemo.chip.deliverable 0 = some demoTrap ∧ demoTrap.cause.resumable = true ∧
    (owingDemo.chip.thread 0).graph ≠ 0 ∧ (owingDemo.chip.part 0).hearth.getLsbD 21 = false ∧ owingDemo.chip.areaOk 0 = true ∧
    owingDemo.chip.queueUsed 0 < 256 ∧ (demo []).me.live = true ∧ decodeWord 0 = .error .illegalFunction := by decide +kernel
theorem witness_TrapsAndAnswers_handler : let c := owingDemo.chip.modPart 0 fun q => { q with trapQueue := [queuedTrap] }
    (c.part 0).trapQueue = [queuedTrap] ∧ (c.part 0).hearthBusy = none ∧ (c.thread (16 * queuedTrap.core + 15)).live = false ∧
    (c.part 0).trapvec ≠ 0 ∧ c.unitWork = [] ∧ (∀ u, c.localTid queuedTrap.tid = some u → c.accessing u = false) := by
  refine ⟨by decide +kernel, by decide +kernel, by decide +kernel, by decide +kernel, rfl, fun u _ => rfl⟩
theorem witness_TrapsAndAnswers_tret : handlerDemo.clear { sw := false, pair := [.n 2], level := .sup } ∧
    handlerDemo.me.handling ≠ none ∧ handlerDemo.chip.flying = false ∧ handlerDemo.me.owed = [] ∧
    (handlerDemo.chip.part 0).hearthBusy = some queuedTrap ∧ handlerDemo.chip.localTid queuedTrap.tid = some 0 ∧
    0 ≠ handlerDemo.chip.cur ∧ handlerDemo.me.gang = none ∧ (handlerDemo.chip.thread 0).posted = some demoTrap ∧
    demoTrap.op = none ∧ handlerDemo.chip.awaits 0 queuedTrap.own queuedTrap.task = true :=
  ⟨passes_clear (by decide), by decide +kernel⟩

/-! Operations in flight, generations, the barrel. -/

/-- Operation 7 of context 0. -/
def demoOp (body : OpBody) : Op :=
  { id := 7, tid := 0, part := 0, task := 65536, level := .user, asid := 0, pc := 0x1000, insn := 0, push := true, named := some 4,
    eng := false, cc := none, opA := 0, opB := 0, ranges := [], fault := none, asked := false, replies := [], ready := false,
    result := 0, moving := none, body := body }

/-- The demo with this operation in flight. -/
def opDemo (o : Op) : State := demo [] (fun t => { t with queue := [{ id := 7, val := none }] }) fun c => { c with ops := [o] }

/-- Operation o stands alone, is its thread's, and nothing that the statements ask of it fails. -/
abbrev ends (o : Op) : Prop := (opDemo o).chip.op? o.id = some o ∧ o.fault = none ∧ (opDemo o).chip.records = [] ∧ (opDemo o).chip.owned o = true

/-- These bytes of the page at 0 are here for it. -/
abbrev reaches (o : Op) (need : Need) (va : Word) (n : Nat) : Prop :=
  let keys := (List.range n).map (va.toNat + ·)
  let c := (opDemo o).chip
  c.mayAccess o [(va, n)] = true ∧ (if need.w then c.writeAccess o need va n else c.opAccess o need va n) = .ok keys none ∧
  c.poisoned keys = false ∧ c.hostHolds keys (!need.w) = false ∧
  o.asked = false ∧ (need.w = true → c.single none = true) ∧ (∀ a ∈ keys, c.hostOnly a = false) ∧ (c.core 0).stale = [] ∧
  c.walkHeld (coreOf o.tid) o.part o.asid [(va, n)] = []

theorem witness_OperationsEnd_values : ends (demoOp (.value 5 0)) ∧ ends (demoOp (.lload 8 8 false)) ∧
    (opDemo (demoOp (.lload 8 8 false))).chip.mayLocal (demoOp (.lload 8 8 false)) = true ∧ (opDemo (demoOp (.value 5 0))).chip.records = [] := by
  decide +kernel
theorem witness_OperationsEnd_bytes : ends (demoOp (.load 0xFFF8 8 true false)) ∧ reaches (demoOp (.load 0xFFF8 8 true false)) .read 0xFFF8 8 ∧
    (∀ sc ∈ [AmoScope.die, .domain], let o := demoOp (.atomic 0x100 .add 8 1 0 true true sc)
      ends o ∧ reaches o .atomic 0x100 8 ∧ (opDemo o).chip.releaseWaits o sc.agent = []) ∧
    ends (demoOp (.mwait 0x100 0)) ∧ reaches (demoOp (.mwait 0x100 0)) .read 0x100 8 := by decide +kernel
theorem witness_OperationsEnd_stores : let o := { demoOp (.store 0x100 [1, 2]) with push := false }
    let l := { demoOp (.lstore 8 [1]) with push := false }
    let e := { demoOp (.tile true) with push := false, eng := true, ready := true }
    ends o ∧ reaches o .write 0x100 2 ∧ o.push = false ∧ o.eng = false ∧ ends l ∧ (opDemo l).chip.mayLocal l = true ∧
    ends e ∧ e.eng = true ∧ e.ready = true ∧ ends { e with push := true } ∧ probeWord e.insn = false ∧ probeWord 0x41401800 = true ∧
    ends { e with push := true, insn := 0x41401800, body := .tile false } := by decide +kernel

/-- A lone lane is the next one. -/
theorem nextLane_one (c : Chip) (o : Op) (w : Nat) (l : Nat × Word) : c.nextLane o w [l] = [l] := by
  simp [Chip.nextLane, Nat.mod_one]

/-- Each vector memory operation in the pipe, and the last lane of one that has formed its accesses. -/
theorem witness_VectorMemory_performed :
    (∀ b ∈ [OpBody.vec (.vld true 1 (.n 2) .s32 0 false) 1024 0, .vec (.vst true 1 (.n 2) .s32 0 false) 1024 0,
        .vec (.vldg true 1 (.n 2) .s32 0 false) 0x100 0, .vec (.vstg true 1 (.n 2) .s32 0 false) 0x100 0,
        .vec (.vgath true 1 2 (.n 2) .s32 0 false) 0x100 0, .vec (.vscat true 1 2 (.n 2) .s32 0 false) 0x100 0],
      ends (demoOp b) ∧ (opDemo (demoOp b)).chip.earlier (demoOp b) = [] ∧ (opDemo (demoOp b)).chip.mayLocal (demoOp b) = true) ∧
    (let g := demoOp (.vget 1 4 false [(3, 0x10C)] [0])
     let p := { demoOp (.vput 4 false [(3, 0x10C)] 5 [0]) with push := false }
     ends g ∧ reaches g .read 0x10C 4 ∧ ends p ∧ reaches p .write 0x10C 4 ∧ p.push = false ∧
     (opDemo g).chip.nextLane g 4 [(3, 0x10C)] = [(3, 0x10C)] ∧ ends (demoOp (.vget 1 4 false [] [0]))) :=
  ⟨by decide +kernel, by decide +kernel, by decide +kernel, by decide +kernel, by decide +kernel, by decide, nextLane_one .., by decide +kernel⟩

/-- A GENBUMP of ASID 0, not yet applied or applied and waiting for these cores. -/
def bump (ready : Bool) (waits : List Nat) : Op := { demoOp (.genbump 0 0 1 waits) with ready := ready }

theorem witness_GenerationsAndGranules_bump : ends (bump true [0]) ∧ (opDemo (bump true [0])).chip.genDrained 0 0 0 = true ∧
    ends (bump false []) ∧ (opDemo (bump false [])).chip.genMay (bump false []) 0 0 = true ∧ ends (bump true []) := by decide +kernel
theorem witness_GenerationsAndGranules_quiesce : let o := demoOp (.pqui 0 (some 5))
    let c := (opDemo o).chip.modPart 0 fun q => { q with state := .quiescing, time := 5 }
    c.op? 7 = some o ∧ (5 : Word).toNat ≤ (c.part o.part).time.toNat ∧ c.partRuns 0 = true ∧ c.owned o = true ∧
    (Chip.reset.modPart 0 fun q => { q with state := .quiescing }).partRuns 0 = false := by decide +kernel
/-- A store to a read-duplicated page at 0x10000, and a granule that core 3 holds. -/
theorem witness_GenerationsAndGranules_granules :
    let o := { demoOp (.store 0x10100 [1]) with push := false, held := [(0x10100, [0x10100], some (0x10000, 65536))] }
    let c := (opDemo o).chip
    c.ops.find? (fun x => coreOf x.tid / 64 == 0 && (c.dupWaits x).any fun y => y.1 == 0x10000) = some o ∧
    Table.get? { c with granules := [(1, .priv 3)] }.granules 1 = some (.priv 3) := by decide +kernel

theorem witness_WaitsEnd : ((demo [] fun t => { t with park := .counterFull 3 }).chip.thread 0).park = .counterFull 3 ∧
    ((demo [] fun t => { t with park := .copyQueue 4 }).chip.thread 0).park = .copyQueue 4 ∧
    ((demo [] fun t => { t with park := .sleep 9 }).chip.thread 0).park = .sleep 9 := by decide
/-- Two ready threads, of priorities 0 and 2: both cases of a sixteenth slot have one to pick. -/
theorem witness_BarrelPicks : let c := (demo []).chip.modThread 1 fun _ => { demoThread [] with prio := 2 }
    c.readyThreads 0 = [0, 1] ∧ (c.thread 0).prio = 0 ∧ (c.thread 1).prio = 2 ∧ (∀ m ∈ c.readyThreads 0, 0 ≤ (c.thread m).prio) ∧
    (∃ m ∈ c.readyThreads 0, 0 < (c.thread m).prio) := by decide +kernel

/-! Tile requests at their home. -/

/-- Request 7 of context 0 about version 3 of index 5 of space 0. -/
def demoReq (body : TileBody) (phase : Phase) : Req :=
  { id := 7, part := 0, space := 0, index := 5, version := 3, header := hHeader tile8, body := body, origin := .op 7, tid := 0, graph := 1,
    asid := 0, phase := phase, counted := false, target := tile8 }

/-- A version of index 5 in extent 1. -/
def demoEntry (v : BitVec 16) (state : VState) (uses : Nat) : Entry :=
  { part := 0, space := 0, index := 5, version := v, state := state, uses := uses, header := hHeader tile8, extent := 1, digest := 0, asid := 0 }

/-- The head of index 5, and extent 1. -/
def demoHead (hi lo : BitVec 16) : Head := { part := 0, space := 0, index := 5, hi := hi, lo := lo }
def demoExtent : Extent := { bytes := List.replicate 512 1, gran := 1, refs := 1, back := 0, slice := 0, frame := 0, bad := false }

/-- That request, with these versions and this head at the home, and the operation of this body. -/
def homeDemo (r : Req) (es : List Entry) (h : Option Head) (body : OpBody := .tile true) : Chip :=
  { (opDemo { demoOp body with eng := true }).chip with reqs := [r], entries := es, heads := h.toList, extents := [(1, demoExtent)] }

/-- Its waiter records are not exhausted, and it has arrived. -/
abbrev arrived (r : Req) (es : List Entry) (h : Option Head) : Prop :=
  let c := homeDemo r es h
  c.req? r.id = some r ∧ (∀ q ∈ c.reqs, q.id = r.id → q = r) ∧ r.phase = .travelling ∧ c.outOfOrder r = false ∧ c.forked r = true ∧
  c.swept r = true ∧ c.space? r.part r.space = some demoSpace ∧ demoSpace.home ≠ 2 ∧ (∃ k ∈ c.slices demoSpace.part, demoSpace.home = 1 → k / 16 = demoSpace.die) ∧ c.aliasApart r demoSpace = none

theorem arrived_arrives {r : Req} {es : List Entry} {h : Option Head} (a : arrived r es h) : (homeDemo r es h).Arrives r demoSpace :=
  ⟨a.1, a.2.1, a.2.2.1, a.2.2.2.1, a.2.2.2.2.1, a.2.2.2.2.2.1, a.2.2.2.2.2.2.1, a.2.2.2.2.2.2.2.1, a.2.2.2.2.2.2.2.2.1, a.2.2.2.2.2.2.2.2.2⟩

/-- A load of a version with two uses, with a last one, PENDING, DEAD, or of another header. -/
theorem witness_TileLoads_entry : ∀ e ∈ [demoEntry 3 .published 2, demoEntry 3 .published 1, demoEntry 3 .pending 1, demoEntry 3 .dead 0,
      { demoEntry 3 .published 2 with header := 0x480 }],
    (homeDemo (demoReq (.load false) .travelling) [e] (some (demoHead 3 2))).Arrives (demoReq (.load false) .travelling) demoSpace ∧
    (homeDemo (demoReq (.load false) .travelling) [e] (some (demoHead 3 2))).entry? (demoReq (.load false) .travelling).name 3 = some e ∧
    (homeDemo (demoReq (.load false) .travelling) [e] (some (demoHead 3 2))).recordsUsed 0 < 4096 ∧
    (homeDemo (demoReq (.load false) .travelling) [e] (some (demoHead 3 2))).sliceOf 0 0 5 = 0 := by
  intro e he
  refine ⟨arrived_arrives ?_, ?_, ?_, ?_⟩ <;> revert e <;> decide +kernel
/-- No version: the first in the window, the first below it, and the first above it. -/
theorem witness_TileLoads_window : ∀ h ∈ [demoHead 2 2, demoHead 3 3, demoHead 2 0x8002],
    (homeDemo (demoReq (.load false) .travelling) [] (some h)).Arrives (demoReq (.load false) .travelling) demoSpace ∧
    (homeDemo (demoReq (.load false) .travelling) [] (some h)).entry? (demoReq (.load false) .travelling).name 3 = none ∧
    (homeDemo (demoReq (.load false) .travelling) [] (some h)).head? (demoReq (.load false) .travelling).name = some h := by
  intro h hh
  refine ⟨arrived_arrives ?_, ?_, ?_⟩ <;> revert h <;> decide +kernel
theorem witness_TileLoads_window_edges : (1 ≤ ((3 : BitVec 16) - 2).toNat ∧ ((3 : BitVec 16) - 2).toNat ≤ 2 ^ 15) ∧
    ¬1 ≤ ((3 : BitVec 16) - 3).toNat ∧ ¬((3 : BitVec 16) - 0x8002).toNat < 1 ∧ ((3 : BitVec 16) - 0x8002).toNat = 2 ^ 15 + 1 ∧
    1 ≤ ((3 : BitVec 16) - 2).toNat ∧ ((3 : BitVec 16) - 2).toNat < 2 ^ 15 := by decide
theorem witness_TileLoads_change :
    (∀ b ∈ [TileBody.change true 1, .change false 1, .probe],
      (homeDemo (demoReq b .travelling) [demoEntry 3 .published 2] (some (demoHead 3 2))).Arrives (demoReq b .travelling) demoSpace) ∧
    (Table.get? (homeDemo (demoReq .probe .travelling) [] none).extents 1).map Extent.bad = some false := by
  refine ⟨fun b hb => arrived_arrives ?_, by decide⟩
  revert b; decide +kernel
theorem witness_TileLoads_record : let r := demoReq (.load false) .waitRecord
    let c := homeDemo r [demoEntry 3 .pending 1] (some (demoHead 3 2))
    c.req? 7 = some r ∧ c.space? 0 0 = some demoSpace ∧ (∀ q ∈ c.reqs, q.phase = .waitRecord → q = r) ∧
    c.recordsUsed (c.sliceOf 0 0 5) < 4096 ∧ c.entry? r.name 3 = some (demoEntry 3 .pending 1) := by decide +kernel
/-- A load that comes to a name whose head is waited for; a bad extent; and waiting loads whose record another load stands for. -/
theorem witness_TileLoads_waits : let r := demoReq (.load false) .travelling
    let q := { demoReq (.load false) .waitHead with id := 8 }
    let c := { homeDemo r [] none with reqs := [q, r] }
    (c.req? 7 = some r ∧ c.outOfOrder r = false ∧ c.forked r = true ∧ ∃ x ∈ c.reqs, x.name = r.name ∧ x.phase = .waitHead) ∧
    { homeDemo r [] none with extents := [(1, { demoExtent with bad := true })] }.extentFault 0 1 = some .memUncorrectable ∧
    (homeDemo r [] none).extentFault 0 1 = none := by decide +kernel
theorem witness_TileLoads_complete : let r := demoReq (.load false) (.served 1)
    (homeDemo r [] none (.tileLocal 0)).servedExtent 7 = some 1 ∧ (homeDemo r [] none (.tileLocal 0)).granted 0 7 [] = true ∧
    ((homeDemo r [] none (.tileLocal 0)).op? 7).map Op.body = some (.tileLocal 0) ∧
    ((homeDemo r [] none (.tileVec 6)).op? 7).map Op.body = some (.tileVec 6) ∧
    (homeDemo r [] none (.tileVec 6)).servedExtent 7 = some 1 := by decide +kernel

/-- A store of 512 bytes; a version that is there; the first of the window and the places round it. -/
theorem witness_TileStores_store : let r := demoReq (.store 2 (List.replicate 512 1)) .travelling
    (homeDemo r [demoEntry 3 .published 2] (some (demoHead 3 2))).Arrives r demoSpace ∧
    ((homeDemo r [demoEntry 3 .published 2] (some (demoHead 3 2))).entry? r.name 3).isSome = true ∧
    (homeDemo r [] (some (demoHead 2 2))).Arrives r demoSpace ∧ (homeDemo r [] (some (demoHead 2 2))).head? r.name = some (demoHead 2 2) ∧
    (¬demoSpace.vquota ≤ (homeDemo r [] (some (demoHead 2 2))).liveVersions r.name ∧
      (homeDemo r [] (some (demoHead 2 2))).roomFor demoSpace 0 = true) ∧
    ((homeDemo r [] (some (demoHead 2 2))).placeExtent demoSpace 0 (granuleCount 512)).isSome = true := by
  refine ⟨arrived_arrives (by decide +kernel), by decide +kernel, arrived_arrives (by decide +kernel), by decide +kernel, by decide +kernel, rfl⟩
theorem witness_TileStores_full : let r := demoReq (.store 2 (List.replicate 512 1)) .travelling
    let es := (List.range 8).map fun i => demoEntry (BitVec.ofNat 16 (10 + i)) .published 1
    (homeDemo r es (some (demoHead 17 2))).Arrives r demoSpace ∧ (homeDemo r es (some (demoHead 17 2))).entry? r.name 3 = none ∧
    demoSpace.vquota ≤ (homeDemo r es (some (demoHead 17 2))).liveVersions r.name :=
  ⟨arrived_arrives (by decide +kernel), by decide +kernel, by decide +kernel⟩
theorem witness_TileStores_head : let r := demoReq (.load false) .waitHead
    let c := homeDemo r [] none
    c.req? 7 = some r ∧ c.space? 0 0 = some demoSpace ∧ c.nameQueue r = false ∧ c.headQueue r = false ∧ c.before r = [] ∧
    c.roomFor demoSpace (c.homeSlice demoSpace 5) = true ∧ c.head? r.name = none ∧ c.entry? r.name 3 = none ∧ r.version.toNat < 2 ^ 15 ∧ c.recordsUsed (c.sliceOf 0 0 5) < 4096 := by decide +kernel
/-- A store behind another of its name, and behind one of another name whose quota is full. -/
theorem witness_TileStores_queue : let r := demoReq (.store 2 [1]) .waitStore
    let q := { r with id := 8, version := 4 }
    let c := { homeDemo r [] (some (demoHead 2 2)) with reqs := [q, r] }
    (∃ x ∈ c.before r, x.phase = .waitStore ∧ x.name = r.name) ∧
    (let es := (List.range 8).map fun i => demoEntry (BitVec.ofNat 16 (10 + i)) .published 1
     let r := { r with index := 6, phase := .travelling }
     let c := { homeDemo r es (some (demoHead 17 2)) with reqs := [q, r] }
     c.before r = [q] ∧ q.phase = .waitStore ∧ q.name ≠ r.name ∧ demoSpace.vquota ≤ c.liveVersions q.name ∧
     c.space? r.part r.space = some demoSpace ∧ c.roomFor demoSpace (c.homeSlice demoSpace 6) = true) := by decide +kernel
theorem witness_TileStores_waiting : let r := demoReq (.store 2 [1]) .waitStore
    let c := homeDemo r [] (some (demoHead 2 2))
    c.req? 7 = some r ∧ c.space? 0 0 = some demoSpace ∧ c.entry? r.name 3 = none ∧ ¬demoSpace.vquota ≤ c.liveVersions r.name ∧
    c.roomFor demoSpace (c.homeSlice demoSpace 5) = true ∧ ¬(∃ q ∈ c.reqs, q.id ≠ r.id ∧ q.name = r.name ∧ q.phase = .waitStore) := by
  decide +kernel
theorem witness_TileStores_gather : let r := demoReq (.gather 2) .gathering
    let bs : List Byte := List.replicate 512 1
    let c := homeDemo r [] (some (demoHead 2 2)) (.gather 0x100 64 bs)
    c.req? 7 = some r ∧ c.space? 0 0 = some demoSpace ∧ demoSpace.home ≠ 2 ∧ c.entry? r.name 3 = none ∧
    (c.op? 7).map Op.body = some (.gather 0x100 64 bs) ∧ bs.length = tbytes tile8 ∧ c.roomFor demoSpace (c.homeSlice demoSpace 5) = true := by
  decide +kernel
/-- The source is served in extent 1; version 3 of index 6 is aliased to it. -/
theorem witness_TileStores_alias : let t : Word := 0x0800000000060003
    let r := { demoReq (.talias tile8 2) (.served 1) with target := t }
    let h : Head := { part := 0, space := 0, index := 6, hi := 2, lo := 2 }
    let c := homeDemo r [] (some h)
    c.outOfOrder { r with index := 6, version := 3, body := .aliasOf 1 2, phase := .travelling } = false ∧
    c.req? 7 = some r ∧ hHeader t = r.header ∧ hIndex t = 6 ∧ hVersion t = 3 ∧ c.space? 0 (hSpace t) = some demoSpace ∧
    c.head? { part := 0, space := hSpace t, index := hIndex t } = some h ∧ c.entry? { part := 0, space := 0, index := 6 } 3 = none ∧
    (∀ q ∈ c.reqs, q.id ≠ r.id → q.name ≠ { part := 0, space := 0, index := 6 }) ∧ c.before { r with index := 6 } = [] ∧
    c.liveVersions { part := 0, space := 0, index := 6 } < demoSpace.vquota ∧ c.roomFor demoSpace (c.homeSlice demoSpace 6) = true := by
  decide +kernel
theorem witness_TileStores_publication : let r := demoReq (.store 2 [1]) .pending
    let c := homeDemo r [demoEntry 3 .pending 2] (some (demoHead 3 2))
    c.req? 7 = some r ∧ c.entry? r.name 3 = some (demoEntry 3 .pending 2) ∧ (c.thread 0).pureTask = none ∧
    (∀ q ∈ c.reqs, q.name = r.name → q.version = r.version → q.phase ≠ .waiter) := by decide +kernel

/-- A published store's result: no load of its version waits for a record before it, or one does; another store of a name. -/
theorem witness_TileStores_closing : let r := demoReq (.store 2 [1]) .closing
    let q := { demoReq (.load false) .waitRecord with id := 6, origin := .op 6 }
    (homeDemo r [] none).req? 7 = some r ∧ r.origin = .op r.id ∧ (homeDemo r [] none).before r = [] ∧
    (let c := { homeDemo r [] none with reqs := [q, r] }; ∃ x ∈ c.before r, x.name = r.name ∧ x.version = r.version ∧ x.phase = .waitRecord) := by
  decide +kernel

/-! Engines, the cellar, the scheduler, faults and saves. -/

/-- An 8 × 8 FP64 bind from scratchpad. -/
def demoBind : Bind :=
  { src := .scratch 0, fmt := 1, blocked := false, kByN := true, shape := 0, k := 8, n := 8, sparse := 0, rows := 8, cols := 8,
    presence := [], olds := [] }

/-- An 8 × 8 × 8 product of FP64 into slot 0, at this ladder. -/
def demoMul (ladder : Word) : MulCmd :=
  { src := .scratch 1024, fmt := 1, blocked := false, stride := 64, m := 8, n := 8, k := 8, mode := 0, sparse := false, slots := [0],
    wide := false, ladder := ladder, budget := 0, alpha := 0x3FF0000000000000 }

/-- An attempt at rung 2 that passed its budget by SAT, or did not. -/
def demoAttempt (passed : Nat) : Attempt :=
  { rung := 2, attempts := 1, lastCause := 0, ran := true, passed := passed, row := 0, blocks := 0, accs := [],
    counts := { sat := 1, unf := 0, can := 0, nonfin := 0, flags := 0 }, copies := [], seen := [], draw := 0 }

/-- The units and the scoreboard are free for an operation, and it holds no fork. -/
abbrev mayStart (o : Op) : Prop := ends o ∧ o.ready = false ∧ (opDemo o).chip.unitFree o = true ∧ (opDemo o).chip.mxTurn o = true ∧
  (opDemo o).chip.heldByFork o = false ∧ (opDemo o).chip.granted 0 7 o.ranges = true ∧ (opDemo o).chip.req? 7 = none

theorem witness_EngineSteps_start : mayStart (demoOp (.mldb demoBind none 0 2)) ∧ demoBind.src = .scratch 0 ∧ demoBind.sparse = 0 ∧
    mayStart (demoOp (.mmul (demoMul 0x22) none)) ∧ ((opDemo (demoOp (.mmul (demoMul 0x22) none))).chip.core 0).bind = none ∧
    (demoMul 0x22).k ≤ demoBind.k ∧ (demoMul 0x22).n ≤ demoBind.n ∧ (demoMul 0x22).sparse = (demoBind.sparse != 0) := by decide +kernel
/-- Each matrix command of slots in its turn. -/
theorem witness_MatrixSlots_performed : (∀ cmd ∈ [MxCmd.clr [0, 1] true, .rd [0] false 8 8 1 1024, .rdTile [0] false 8 8 tile8 1,
      .wr [0] true 8 8 1 1024, .red [0] false 8 8 .sum 1 0, .scale [0] false 8 8 true 1 0, .cmp 1 8 8 false 0 1024 2048, .stat 9],
      let o := { demoOp (.mx cmd) with eng := true }
      ends o ∧ o.eng = true ∧ (opDemo o).chip.mxTurn o = true ∧ (opDemo o).chip.granted 0 7 o.ranges = true ∧
      (opDemo o).chip.heldByFork o = false ∧ (opDemo o).chip.unitFree o = true) ∧
    hRows tile8 = 8 ∧ hCols tile8 = 8 := by decide +kernel
/-- A 1 × 1 × 1 product over a bind whose first attempt is within its budget. -/
theorem witness_EngineSteps_copies :
    let m := { demoMul 0x22 with m := 1, n := 1, k := 1, budget := 0x0000000C00FFFFFF }
    let o := demoOp (.mmul m none)
    let s := { opDemo o with chip := (opDemo o).chip.modCore 0 fun q => { q with bind := some { demoBind with olds := [[]] } } }
    0 < m.k ∧ 1024 + m.m * (m.stride + m.k) + 8 * m.k < 2 ^ 64 ∧ s.chip.op? 7 = some o ∧ (s.chip.core 0).bind.isSome = true ∧
    (match exec (.mmulStart 7) s with
     | .next t => (t.chip.op? 7).map Op.body matches some (.mmul _ (some _)) && ((t.chip.op? 7).map fun o => match o.body with
        | .mmul _ (some a) => a.passed == 0
        | _ => false) == some true
     | _ => false) = true := by decide +kernel
/-- Rungs 2 to 3 (ladder 0x1A): a squash to the ceiling, NONFIN below rung 2, an attempt at its ceiling, and one that did not pass. -/
theorem witness_EngineSteps_attempt :
    (∀ a ∈ [demoAttempt 1, demoAttempt 0, { demoAttempt 1 with rung := 3 }, { demoAttempt 4 with rung := 1 }],
      ends (demoOp (.mmul (demoMul 0x1A) (some a))) ∧ a.ran = true ∧ (opDemo (demoOp (.mmul (demoMul 0x1A) (some a)))).chip.req? 7 = none) ∧
    (0x1A : Nat) / 8 % 8 = 3 ∧ (demoAttempt 1).passed ≠ 0 ∧ (demoAttempt 1).rung ≠ 3 ∧ (demoAttempt 1).rung + 1 ≤ 3 ∧
    (demoAttempt 0).passed = 0 := by decide +kernel

/-- Two rows of 16 bytes, strides of 32. -/
def demoGeo : CopyGeo := { rows := 2, rowBytes := 16, sstride := 32, dstride := 32, flag := 0, flagadd := 0 }
/-- A copy command. -/
def demoCopy (src dst : CopySide) (done : Nat) : CopyCmd := { geo := demoGeo, src := src, dst := dst, done := done, queue := none, order := 0, arrived := none }

theorem witness_EngineSteps_copy :
    (∀ cmd ∈ [demoCopy (.loc [0, 32]) (.loc [4, 36]) 0, demoCopy (.pattern 1) (.loc [0, 32]) 0, demoCopy (.loc [0, 32]) (.loc [4, 36]) 1,
      demoCopy (.loc [0, 32]) (.far 0 0 4080) 0, demoCopy (.loc [0, 32]) (.far 0 0 4048) 0, demoCopy (.loc [0, 32]) (.far 1 0 0) 0],
      ends (demoOp (.copy cmd)) ∧ (opDemo (demoOp (.copy cmd))).chip.copyMay (demoOp (.copy cmd)) cmd = true) ∧
    0 < demoGeo.total ∧ 4096 * 0 < demoGeo.total ∧ (demoCopy (.loc [0, 32]) (.loc [4, 36]) 1).units ≤ 1 ∧ demoGeo.flag = 0 ∧
    ((opDemo (demoOp (.value 0 0))).chip.thread 0).localRows (BitVec.ofNat 64 4048) demoGeo demoGeo.dstride = some [4048, 4080] ∧
    ((opDemo (demoOp (.value 0 0))).chip.thread 0).localRows (BitVec.ofNat 64 4080) demoGeo demoGeo.dstride = none := by decide +kernel

/-- A SPAWNP without arguments and with one output, whose code digest is known. -/
def demoSpawnp : SpawnpCmd :=
  { entry := 0x2000, len := 64, strict := false, block := List.replicate 160 0, args := [], scal := [], outs := [tile8], uses := [1], place := 0,
    taskId := 65538, modes := Modes.initial, digests := [], code := none, gen := 0, keyNo := 0, hits := [], hit := false, failed := none }

/-- Its code digest was read at its issue, or the cache of the die has it. -/
theorem witness_CellarSteps_lookup : let x := demoSpawnp
    let o := demoOp (.spawnp x)
    let c := { (opDemo o).chip with
      codeCache := [{ die := 0, part := 0, asid := 0, entry := 0x2000, len := 64, gen := 0, digest := 9 }] }
    c.op? 7 = some o ∧ x.hit = false ∧ x.digests.length = x.args.length ∧ c.heldByAcquire o = false ∧ x.keyNo = (c.part o.part).keyNo ∧
    x.code = none ∧ (c.codeCache.find? fun e => e.die == dieOf (coreOf o.tid) && e.part == o.part && e.asid == o.asid &&
      e.entry == x.entry && e.len == x.len && e.gen == (c.part o.part).codeGen).map CodeEntry.digest = some 9 := by decide +kernel
/-- An entry of the key that the lookup forms, whatever the key is. -/
theorem witness_CellarSteps_hit (key : Digest) : ∃ e : CellarEntry, [e].find? (fun e => e.part == 0 && e.key == key) = some e ∧
    demoSpawnp.uses.length = demoSpawnp.outs.length ∧ e.outs.length = demoSpawnp.outs.length ∧
    some (hHeader (demoSpawnp.outs.getD 0 0)) = e.outs[0]?.map (·.1) :=
  ⟨{ part := 0, slice := 0, set := 0, key := key, outs := [(hHeader tile8, 1, 0)], inserted := 0, lastHit := 0 }, by simp, rfl, rfl, rfl⟩
theorem witness_CellarSteps_read : let x := { demoSpawnp with code := some 9 }
    let o := demoOp (.spawnp x)
    (opDemo o).chip.op? 7 = some o ∧ x.code = some 9 := ⟨rfl, rfl⟩
/-- No sweep, a sweep of slice 0, an extent that is there and one that is not. -/
theorem witness_CellarSteps_sweep : ((demo []).chip.part 0).sweepLeft = [] ∧
    ((demo [] id fun c => c.modPart 0 fun q => { q with sweepLeft := [0] }).chip.part 0).sweepLeft ≠ [] ∧
    Table.get? (homeDemo (demoReq .probe .travelling) [] none).extents 1 = some demoExtent ∧
    Table.get? (homeDemo (demoReq .probe .travelling) [] none).extents 2 = none := by decide +kernel

/-- A waiting record of graph 1. -/
def demoRecord : Record :=
  { id := 50, part := 0, graph := 1, index := 2, place := 0, entry := 0x2000, args := [], modes := Modes.initial, asid := 0, pool := .die 0,
    block := [], pureTask := none, pagerOf := none, saved := none, requested := false, home := 0, waits := [] }

/-- The demo with that record waiting in the pool of die 0. -/
def waitingDemo : Chip := { (demo []).chip with records := [demoRecord] }

theorem witness_SchedulerSteps_room : ((demo []).chip.fit 0 0 false 0).isSome = true ∧
    (waitingDemo.records.find? fun r => r.pool == .die 0 && r.saved.isNone && !pNamed r.place && waitingDemo.placeable r.part r &&
      (waitingDemo.partCores r.part).any fun k => decide (k / 64 = 1) && decide (waitingDemo.freeContexts r.part k ≠ [])) =
      some demoRecord := by decide +kernel
/-- A gang of two of which none has a place yet, and one of which only the last lacks one. -/
theorem witness_SchedulerSteps_gang : ∀ g ∈ [newGang 60 0 0 2 0, { newGang 60 0 0 2 0 with reserved := [(1, 0, 0, [])] }],
    { (demo []).chip with gangs := [g] }.gangs.find? (fun x => x.id == 60) = some g ∧ { (demo []).chip with gangs := [g] }.gangMay g = true ∧
    ({ (demo []).chip with gangs := [g] }.reserveNext g).isSome = true ∧ { (demo []).chip with gangs := [g] }.gangTurn g = true ∧
    ({ (demo []).chip with gangs := [g] }.gangs.filter fun (o : Gang) => o.part == g.part && o.seq != g.seq) = [] := by decide +kernel
/-- Two gangs whose members take the eight slots of core 1: the one of higher priority is the younger. -/
theorem witness_SchedulerSteps_rivals : let g := newGang 60 0 1 2 (0x201 ||| 8 <<< 18)
    let o := newGang 61 0 0 2 (0x1201 ||| 8 <<< 18)
    let c := { (demo []).chip with gangs := [g, o] }
    c.gangMay g = true ∧ c.gangTurn g = true ∧ o.seq < g.seq ∧
    ((c.reserveNext g).map fun g' => c.contests (c.setGang g') o) = some true := by decide +kernel
/-- The scheduler's load of launch name 15: none yet, served in extent 1, or waiting at a PENDING version. -/
theorem witness_SchedulerSteps_launch : ∀ phase ∈ [Phase.served 1, .waiter],
    let r := { demoReq (.load false) phase with space := 255, index := 15, version := 0, header := launchHeader, origin := .launch, graph := 0 }
    let e : Entry := { part := 0, space := 255, index := 15, version := 0, state := .pending, uses := 1, header := launchHeader, extent := 1, digest := 0, asid := 0 }
    let c := { (demo []).chip with entries := [e], extents := [(1, demoExtent)], reqs := [r], spaces := [launchSpace 0] }
    (c.part 0).state = .running ∧ (c.reqs.find? fun r => r.origin == .launch && r.part == 0 && r.index == 15) = some r ∧
    r.header = 0x480 ∧ c.entry? r.name r.version = some e ∧ c.space? 0 255 = some (launchSpace 0) ∧ (launchSpace 0).home ≠ 2 ∧
    ((demo []).chip.reqs.find? fun r => r.origin == .launch) = none := by decide +kernel
/-- A status word at 0x100, which the device writes through the translation that it keeps. -/
theorem witness_SchedulerSteps_status : ∀ failed ∈ [true, false],
    let x : OwedStatus := { id := 1, part := 0, asid := 0, va := 0x100, value := 5, graph := 1, entry := 0, waiting := false, failed := failed }
    let chip := fun (e : Word) => { (demo []).chip with owedStatus := [x], cores := [(512, { Core.empty with tlb := [(0, 0, 0, 3, e)] })], links := [(0, { Link.empty with up := true })] }
    let c := chip 0x9F
    nextStatus c.statusAsked c.owedStatus = some x ∧ x.va.toNat % 8 = 0 ∧ c.hostLines = [] ∧ (∀ a ∈ (List.range 8).map (0x100 + ·), c.hostOnly a = false) ∧
    c.access noCore 0 0 .user .write 0x100 8 = .ok ((List.range 8).map (0x100 + ·)) none ∧
    c.poisoned ((List.range 8).map (0x100 + ·)) = false ∧ c.linksUp 2 = true ∧
    (chip 0x0020000000000C9F).access noCore 0 0 .user .write 0x100 8 = .far 2 0x100 ∧
    (chip 0x93).access noCore 0 0 .user .write 0x100 8 = .refuse .protection 0x100 := by decide +kernel
/-- A slot of period 1000 at 0 whose start 1 is due, while an instance runs or not, and another start is held or not. -/
theorem witness_SchedulerSteps_slot : ∀ running ∈ [[1], []], ∀ pending ∈ [none, some 0], ∀ policy ∈ [0, 2],
    let x : TSlot := { armed := true, start := 0, period := 1000, entry := 0, arg := 0, place := 0, policy := policy, nextK := 1,
                       running := running, pending := pending }
    let c := (demo []).chip.modPart 0 fun q => { q with slottab := 1, time := 1000, tslots := [(63, x)] }
    Table.get? (c.part 0).tslots 63 = some x ∧ (c.part 0).slottab.getLsbD 0 = true ∧ (c.part 0).state = .running ∧
    x.start.toNat + x.nextK * x.period.toNat ≤ (c.part 0).time.toNat ∧
    (c.part 0).time.toNat < x.start.toNat + (x.nextK + 1) * x.period.toNat := by decide +kernel
theorem witness_SchedulerSteps_graph : let c := { (demo []).chip with graphs := [{ demoGraph with ended := some .watchdog }] }
    let bad := { demoTrap with cause := .privilege }
    let d := (demo [] fun t => { t with stopped := true, owed := [bad] }).chip
    c.graph? 0 1 = some { demoGraph with ended := some .watchdog } ∧ c.hangs 0 1 = false ∧ d.graph? 0 1 = some demoGraph ∧
    d.hangs 0 1 = false ∧ d.fatalTrap 0 1 .privilege = some (0, bad) ∧
    { (demo []).chip with hung := [demoOp (.value 0 0)] }.hung.find? (fun x => x.id == 7 && x.part == 0 && x.task / 65536 == 1) =
      some (demoOp (.value 0 0)) := by decide +kernel

/-- A store to the absent page at 0x20000 waits, in a partition with this pager table of one entry at 0x1000 of the page at 0. -/
def faultDemo (n : Word) : State :=
  let o := { demoOp (.store 0x20000 [1]) with push := false, fault := some { va := 0x20000, write := true, fetch := false } }
  let s := opDemo o
  let c := s.chip.modPart 0 fun q => { q with pagertab := 0x1000 ||| n }
  { s with chip := { c with
      mem := (c.mem.setBytes 0x1008 (bytesOfNat 8 0x40000)).setBytes 0x1010 (bytesOfNat 8 0x3000)
      cores := [(512, { Core.empty with tlb := [(0, 0, 0, 3, 0x9F)] })] } }

theorem witness_FaultsAndSaves_fault : ((faultDemo 0).chip.op? 7).map Op.fault = some (some { va := 0x20000, write := true, fetch := false }) ∧
    ((faultDemo 0).chip.part 0).faults = [] ∧ ((faultDemo 0).chip.part 0).heldFaults = [] ∧ ((faultDemo 0).chip.pagerFor 0 0x20000 (List.range 0)).1 = none ∧
    ((faultDemo 1).chip.pagerFor 0 0x20000 (List.range 1)).1 = some 0 ∧ ((faultDemo 1).chip.op? 7).isSome = true ∧
    (faultDemo 1).chip.pagerAsks 0 = none ∧ (Chip.pagerAsks { (faultDemo 1).chip with hostLines := [(64, true)] } 0).isSome = true ∧
    (faultDemo 1).chip.pagerOk 0 (((faultDemo 1).chip.pagerWord 0 0 2).getD 0) (((faultDemo 1).chip.pagerWord 0 0 3).getD 0) = true := by
  decide +kernel
theorem witness_FaultsAndSaves_pager :
    let f : FaultRec := { rid := 1, slot := 0, thread := 0, task := 65536, asid := 0, page := 0x20000, size := 65536, perm := 2, mclass := 0,
                          pidx := 0, place := 0, entry := 0x3000, started := false, graph := 0 }
    ((demo []).chip.modPart 0 fun q => { q with faults := [f] }).part 0 |>.faults.find? (fun x => !x.started) |>.map FaultRec.rid = some 1 := by
  decide +kernel
/-- Group 0 alone, on each of whose cores a thread of priority 3 holds a slot, and a record that needs eight of a core. -/
def fullDemo : Chip :=
  { (demo []).chip with
    parts := [(0, { demoPart with layout := { demoPart.layout with groups := 1 } })]
    records := [{ demoRecord with place := 8 <<< 18 }]
    threads := (List.range 16).map fun k => (16 * k, { demoThread [] with prio := 3, slots := [0], placedAt := if k = 2 then 1 else 0 }) }

theorem witness_FaultsAndSaves_victim : let r := { demoRecord with place := 8 <<< 18 }
    let cores := (fullDemo.partCores 0).filter (fullDemo.eligible 0 r.place false)
    (fullDemo.records.find? fun x => x.id == 50) = some r ∧ fullDemo.asks r = true ∧ pAcc r.place = 8 ∧ cores ≠ [] ∧
    (∀ e ∈ fullDemo.threads, e.2.marked ≠ some 51 ∧ e.2.isSaving = false) ∧ (∀ j ∈ cores, fullDemo.roomOn r j = false) ∧
    ((fullDemo.threads.map Prod.fst).filter fun v => cores.contains (coreOf v) && fullDemo.victimOk r v).contains 32 = true := by
  decide +kernel

/-- The save record of context 0, written or not. -/
def savingDemo (done : Bool) : Chip :=
  (demo [] fun t => { t with park := .saving 0 [0] 70 done, marked := some 51 }).chip.modPart 0 fun q =>
    { q with trapsave := 20, saves := [(70, { offset := 0, size := 512 })] }

theorem witness_FaultsAndSaves_save : ((savingDemo false).thread 0).park = .saving 0 [0] 70 false ∧
    Table.get? ((savingDemo false).part 0).saves 70 = some { offset := 0, size := 512 } ∧
    ((savingDemo true).thread 0).park = .saving 0 [0] 70 true ∧ ((savingDemo true).thread 0).marked ≠ some 0 ∧
    ((savingDemo true).thread 0).gang = none ∧ (savingDemo false).ops = [] ∧ ((savingDemo false).thread 0).owed = [] ∧
    (savingDemo false).areaOk 0 = true ∧ (savingDemo false).hostLines = [] ∧ (savingDemo false).hostOnly 0x30000 = false := by decide +kernel
/-- The area at 0x30000 is reached through a translation that core 0 keeps. -/
theorem witness_FaultsAndSaves_written : let c := { savingDemo false with cores := [(0, { Core.empty with tlb := [(0, 0, 3, 3, 0x3009F)] })] }
    c.access 0 0 (c.part 0).areaAsid .sup .write (c.areaVa 0 (0x30000 + 0)) 8 = .ok ((List.range 8).map (0x30000 + ·)) none ∧
    (Chip.unitAsksHost { c with hostLines := [(3072, true)] } (.engine 0) 0 (c.part 0).areaAsid .sup .write (cutRuns 0x30000 8)).isSome = true := by
  decide +kernel
/-- A saved task whose record stands at 0x30000 of an area at 0, read through a kept translation of the page at 0x30000. -/
theorem witness_FaultsAndSaves_restore : let r := { demoRecord with saved := some 70, pool := .die 0 }
    let c := { (demo []).chip with
      records := [r], cores := [(0, { Core.empty with tlb := [(0, 0, 3, 3, 0x3009F)] })]
      parts := [(0, { demoPart with trapsave := 20, saves := [(70, { offset := 0, size := 512 })] })] }
    c.records.find? (fun x => x.id == 50) = some r ∧ (c.fit 0 r.place true 0).isSome = true ∧
    ((c.sources 0 0).find? fun x => (c.fit 0 x.place x.saved.isSome 0).isSome).map Record.id = some 50 ∧
    Table.get? (c.part 0).saves 70 = some { offset := 0, size := 512 } ∧
    c.unitAsksHost (.engine 0) 0 (c.part 0).areaAsid .sup .read (cutRuns 0x30000 512) = none ∧
    (Chip.unitAsksHost { c with hostLines := [(3072, true)] } (.engine 0) 0 (c.part 0).areaAsid .sup .read (cutRuns 0x30000 8)).isSome = true ∧
    ((c.devOpen (.engine 0) 0 (c.part 0).areaAsid .sup (c.areaVa 0 (0x30000 + 0)) 8).devRead (.engine 0) 0 (c.part 0).areaAsid .sup
      (c.areaVa 0 (0x30000 + 0)) 8).isSome = true := by decide +kernel

/-! The world outside, and the step. -/

/-- Virtual function 3 is bound; another is not; the host may reach the first 256 MiB, and holds its line 4. -/
def hostDemo : Chip :=
  { (demo []).chip with
    vfs := [(3, { VirtFn.empty with bound := some (0, 7) }), (4, VirtFn.empty)], decoders := [(0, { base := 0, size := 2 ^ 28 })]
    hostLines := [(4, true)], devLines := [(2 ^ 46 + 9, true)], snooped := [(4, true)], hostOrder := [4] }

theorem witness_HostSteps : (Table.get? hostDemo.vfs 3).map VirtFn.bound = some (some (0, 7)) ∧ Table.get? hostDemo.vfs 4 = some VirtFn.empty ∧
    VirtFn.empty.bound = none ∧ (∃ e ∈ hostDemo.decoders, e.2.base ≤ 64 * (2 ^ 22 - 1) ∧ 64 * (2 ^ 22 - 1) < e.2.base + e.2.size) ∧
    ¬(∃ e ∈ hostDemo.decoders, e.2.base ≤ 64 * 2 ^ 22 ∧ 64 * 2 ^ 22 < e.2.base + e.2.size) ∧ 64 * (2 ^ 22 - 1) + 64 ≤ 2 ^ 52 ∧
    hostDemo.hostOnly 0x100 = false ∧ hostDemo.liveDies.getLsbD (dieOfHbm (64 * (2 ^ 22 - 1))) = true ∧ Table.get? hostDemo.snooped 4 = some true ∧ Table.get? hostDemo.snooped 5 = none ∧ 4 ∈ hostDemo.hostOrder ∧ Table.get? hostDemo.devLines (2 ^ 46 + 9) = some true ∧
    (List.replicate 64 (1 : Byte)).length = 64 ∧ 2 < 3 ∧ hostDemo.unitWork = [] ∧
    { State.reset.trust with cxlOpen := true }.cxlOpen = true ∧ State.reset.trust.cxlOpen = false := by decide +kernel

/-- Bytes 0x100 to 0x107 of a partition that takes part; one that does not; an address beyond the memory. -/
theorem witness_LinkSteps_access : let c := (demo []).chip
    (c.part 0).state ≠ .undefined ∧ (c.part 0).layout.nb.getLsbD 8 = true ∧ frameInRange (classOfPa 0x100) 0x100 0 = true ∧
    c.reach 0 (classOfPa 0x100) 0x100 = none ∧ c.hostLines = [] ∧ 0x100 + 8 ≤ 2 ^ 52 ∧
    hostDemo.hostHolds ((List.range 8).map (0x100 + ·)) true = true ∧ hostDemo.poisoned ((List.range 8).map (0x100 + ·)) = false ∧
    c.reach 0 (classOfPa 0x0C0000000000) 0x0BFFFFFFFFFF = some .protection ∧ Chip.poisoned { c with poison := [4] } ((List.range 8).map (0x100 + ·)) = true ∧
    c.poisoned ((List.range 8).map (0x100 + ·)) = false ∧ (∀ a ∈ (List.range 8).map (0x100 + ·), c.hostOnly a = false) ∧ (c.part 1).state = .undefined ∧
    frameInRange (classOfPa 0x0C0000000000) 0x0C0000000000 0 = false ∧ frameInRange (classOfPa 0x0BFFFFFFFFFF) 0x0BFFFFFFFFFF 0 = true := by
  decide +kernel
/-- Requests away, a load and a probe, and an operation that has asked. -/
theorem witness_LinkSteps_answers :
    (∀ r ∈ [demoReq (.load true) .away, demoReq .probe .remote], (homeDemo r [] none).req? ((7 * 8192 + 8191) / 8192) = some r ∧
      r.abroad = true ∧ (7 * 8192 + 8191) % 8192 = 8191) ∧
    (let o := { demoOp (.load 0x100 8 false false) with asked := true }
     (opDemo o).chip.op? (7 * 8192 / 8192) = some o ∧ 7 * 8192 % 8192 ≠ 8191 ∧ Table.get? o.replies (7 * 8192 % 8192) = none) ∧
    (let w : OwedStatus := { id := 9, part := 0, asid := 0, va := 0x100, value := 5, graph := 1, entry := 0, waiting := false, failed := false }
     let c := { (demo []).chip with unitAsks := [(9, .status w)] }
     c.op? (9 * 8192 / 8192) = none ∧ Table.get? c.unitAsks (9 * 8192 / 8192) = some (.status w)) ∧
    (owingDemo.chip.ownerOf 0 = some 0 ∧ owingDemo.chip.areaOk 0 = true ∧ owingDemo.chip.queueUsed 0 < 256) ∧
    8192 / 2 ^ 13 = (demo []).chip.device.toNat ∧ handlerDemo.chip.awaits (8192 % 2 ^ 13) 0 65536 = true := by decide +kernel
/-- A gather away from its home; a posted trap of a graph; a link that falls with others up, and the last one that is up; and a
frequency change in one cycle with a width request. -/
theorem witness_LinkSteps_links : let r := { demoReq (.gather 2) .gathering with sentTo := some 9 }
    let down := (List.range 35).map fun k => (k, { Link.empty with up := false })
    let c := { (demo []).chip with links := down }
    r.abroad = true ∧ (handlerDemo.chip.thread 0).posted = some demoTrap ∧ (handlerDemo.chip.thread 0).graph ≠ 0 ∧
    (Chip.linksUp { (demo []).chip with links := Table.put (demo []).chip.links 35 { Link.empty with up := false } } 9 = true ∧
      c.linksUp 9 = true ∧ Chip.linksUp { c with links := Table.put c.links 35 { Link.empty with up := false } } 9 = false) ∧
    ((demo []).chip.links = [] ∧ Link.empty.up = true) ∧ { demo [] with inputs := [.freqChange 3 2 5] }.inputs = [.freqChange 3 2 5] ∧
    (4 : Nat) ∈ [8, 4, 2] := by decide +kernel
/-- No thread is on die 7, and one is on die 0; clocks that take samples and that take none; a running package and one in recovery. -/
theorem witness_PowerAndBoot : let c := (demo []).chip
    7 < 8 ∧ (∀ e ∈ c.threads, e.2.live = true → coreOf e.1 / 64 ≠ 7) ∧ c.records = [] ∧ c.launchPending 7 = false ∧ c.dieIdle 0 = false ∧
    ((demo [] id fun c => c.modPart 0 fun q => { q with ptpctl := 1 }).chip.part 0).ptpctl.toNat % 4 = 1 ∧ (c.part 0).ptpctl.toNat % 4 = 0 ∧
    State.reset.trust.recovery = true ∧ { State.reset.trust with recovery := false }.recovery = false := by decide +kernel
/-- What a boot finds: eight live dies, and a configuration of one partition whose layout is allowed. -/
theorem witness_PowerAndBoot_parts :
    let x : PartSpec :=
      { id := 3, groups := 1, il := 0x00FFFFFFFF000101, nb := 1, vtshare := 1, hearth := 0,
        vfs := [], supervisor := [1], loadAt := 0x1000, entry := 0, asid := 0, root := 1, frames := [] }
    let b : BootInput :=
      { device := 1, rom := [], image := [], imageEd := [], imageMl := [], version := 1, live := 0xFF, found := [],
        ports := [], config := [], configEd := [], configMl := [], parts := [x] }
    let layout : Layout := { groups := x.groups, il := x.il, nb := x.nb, vtshare := x.vtshare }
    let c := ((demo []).chip.restart b).modPart 3 fun q => { q with layout := layout }
    b.parts = [x] ∧ ((demo []).chip.restart b).layoutBad [3] layout = false ∧ coreOf 17 ∈ c.partCores 3 ∧ 17 ≠ c.supervisor 3 ∧
    (∀ e ∈ c.parts, e.2.state ≠ .quiescing) := by
  decide +kernel

/-- A thread at issue: its word NOP is read, a word is kept, its word is none, or its page cannot be reached. -/
def issueDemo (f : Thread → Thread) (word : Nat) : State :=
  let s := demo [] f fun c => { c with mem := c.mem.setBytes 0x1000 (bytesOfNat 4 word) }
  { s with issuing := some 0 }

/-- An outcome is a next state. -/
def isNext (o : Host.Outcome State Fault Refusal) : Bool := match o with
  | .next _ => true
  | _ => false

theorem isNext_exists {o : Host.Outcome State Fault Refusal} (h : isNext o = true) : ∃ t, o = .next t := by
  cases o with
  | next t => exact ⟨t, rfl⟩
  | _ => cases h

theorem witness_StepRunsDecoded_fetch : let s := issueDemo id 1
    let keys := (List.range 4).map (0x1000 + ·)
    s.issuing = some 0 ∧ (s.chip.thread 0).fetched = none ∧
    s.chip.access 0 0 0 .user .fetch 0x1000 4 = .ok keys none ∧ s.chip.poisoned keys = false ∧ s.chip.hostHolds keys true = false ∧
    s.chip.walkHeld 0 0 0 [(0x1000, 4)] = [] ∧ (∀ a ∈ keys, s.chip.hostOnly a = false) ∧ decode (keys.map s.chip.mem.byte) = .ok (.nop false, []) ∧
    (∃ e, decode (keys.map (issueDemo id 0).chip.mem.byte) = .error e) :=
  ⟨by decide, by decide, by decide +kernel, by decide, by decide, by decide, by decide, by decide +kernel, ⟨.illegalFunction, by decide +kernel⟩⟩
theorem witness_StepRunsDecoded_kept : ((issueDemo (fun t => { t with fetched := some 1 }) 0).chip.thread 0).fetched = some 1 ∧
    decodeWord 1 = .ok (.nop false) ∧ ((issueDemo (fun t => { t with pc := 0x20000 }) 0).fetch 0).1 = none ∧ (demo []).issuing = none := by
  decide +kernel
theorem witness_DecodeEncode : decodeWord 0x4A0DC140 = .ok (.ctlwr false (.n 11) .slottab) := rfl
theorem witness_NeverStops : ∀ n, (issueDemo id 1).issuing = some n → ((issueDemo id 1).chip.thread n).live = true := by
  intro n h; cases h; decide
/-- The first step of a machine that is made to fetch NOP answers a next state. -/
theorem witness_MeasurementsOnlyExtend : (∃ t, step (State.reset.withFetchWord 32 1) = .next t) ∧ State.reset.trust.unused :=
  ⟨isNext_exists (by decide +kernel), rfl, rfl, rfl⟩

/-! ### Single steps, with results that the specification states or that follow from its words by hand -/

/-- The package after an instruction. -/
def after (i : Instr) (s : State) : Chip := match exec i s with
  | .next t => t.chip
  | _ => s.chip

/-- The value and the flags that an instruction left to return. -/
def pushed (i : Instr) (s : State) : Option (Word × BitVec 5) :=
  (after i s).ops.getLast?.bind fun o => match o.body with
    | .value v f => some (v, f)
    | _ => none

/-- The causes that the issuing thread owes after an instruction. -/
def causes (i : Instr) (s : State) : List Cause := ((after i s).thread s.chip.cur).owed.map TrapRec.cause

/-- R63: add.w of the greatest 32-bit integer and 1, sign-extended. R64: division by zero, and of the most negative value by −1. -/
theorem test_add_wraps : pushed (.add true none (.n 2) (.n 3) true) (demo [(2, 0x7FFFFFFF), (3, 1)]) = some (0xFFFFFFFF80000000, 0) := by
  decide +kernel
theorem test_divu_zero : pushed (.divu true none (.n 2) (.n 3) true) (demo [(2, 9)]) = some (0xFFFFFFFFFFFFFFFF, 0) := by decide +kernel
theorem test_div_overflow : pushed (.div true none (.n 2) (.n 3) false) (demo [(2, 0x8000000000000000), (3, -1)]) =
    some (0x8000000000000000, 0) := by decide +kernel
theorem test_rem_sign : pushed (.rem true none (.n 2) (.n 3) false) (demo [(2, -7), (3, 2)]) = some (-1, 0) := by decide +kernel
theorem test_mulh_signs : pushed (.mulh true none (.n 2) (.n 3) false) (demo [(2, -1), (3, 1)]) = some (-1, 0) ∧
    pushed (.mulhu true none (.n 2) (.n 3) false) (demo [(2, -1), (3, 2)]) = some (1, 0) := by decide +kernel
theorem test_ror_w : pushed (.ror true none (.n 2) (.n 3) true) (demo [(2, 1), (3, 1)]) = some (0xFFFFFFFF80000000, 0) := by decide +kernel
theorem test_shl_amount : pushed (.shl true none (.n 2) (.n 3) false) (demo [(2, 3), (3, 65)]) = some (6, 0) := by decide +kernel
theorem test_clz_zero : pushed (.clz true none (.n 2) true) (demo []) = some (32, 0) := by decide +kernel
theorem test_sext_byte : pushed (.sext true none (.n 2) (.n 3) false) (demo [(2, 0x180), (3, 8)]) = some (0xFFFFFFFFFFFFFF80, 0) := by
  decide +kernel
theorem test_sext_zero : causes (.sext true none (.n 2) (.n 3) false) (demo [(2, 1)]) = [.illegalOperand] := by decide +kernel
theorem test_slti_signed : pushed (.slti true none (.n 2) 0x7FFF) (demo [(2, -2)]) = some (1, 0) := by decide +kernel
/-- R68: a step of −1 at index 0 wraps within the 28 bits and leaves the other fields. -/
theorem test_hidx_wraps : pushed (.hidx true none (.n 2) (.n 3)) (demo [(2, 0x0800000000000007), (3, -1)]) =
    some (0x08000FFFFFFF0007, 0) := by decide +kernel
theorem test_hmake_reserved : causes (.hmake true none (.n 2) (.n 3)) (demo [(2, 0x4000000000000000)]) = [.badHandle] := by decide +kernel
theorem test_bank : causes (.add true none (.n 2) (.n 4) false) (demo []) = [.illegalBank] := by decide +kernel
theorem test_hazard : causes (.add true none (.q 0) (.n 3) false) (demo [] fun t => { t with pushes := 1 }) = [.groupHazard] := by decide +kernel
theorem test_branch_back : ((after (.br false .ltu (.n 2) (.n 3) 0xFFF) (demo [(2, 1), (3, -1)])).thread 0).pc = 0xFFC := by decide +kernel
theorem test_call_links : ((after (.call false 2) (demo [])).ops.map fun o => (o.named, o.body)) = [(some 15, .value 0x1004 0)] ∧
    ((after (.call false 2) (demo [])).thread 0).pc = 0x1008 := by decide +kernel
theorem test_ld_align : causes (.ld true none (.n 2) .s32 2) (demo []) = [.align] ∧ causes (.ld true none (.n 2) .s16 2) (demo []) = [] := by
  decide +kernel
theorem test_local_end : causes (.stl true (.n 2) (.n 3) .b64 8) (demo [(3, 4088)]) = [.align] := by decide +kernel
theorem test_cinc_over : causes (.cinc true (.n 2) 3) (demo [(2, 256)]) = [.illegalOperand] ∧
    ((after (.cinc true (.n 2) 3) (demo [(2, 255)])).core 0).cc[3] = 255 := by decide +kernel

/-- R93: 3.5 + 8 = 11.5 in binary32; 1 ÷ 3 toward zero in binary64, inexact; 1 ÷ 0; FMIN of the zeros; R95: an unordered LE. -/
theorem test_fadd : pushed (.fadd true none (.n 2) (.n 3) .rne .f32) (demo [(2, 0x40600000), (3, 0x41000000)]) = some (0x41380000, 0) := by
  decide +kernel
theorem test_fdiv : pushed (.fdiv true none (.n 2) (.n 3) .rtz .f64) (demo [(2, 0x3FF0000000000000), (3, 0x4008000000000000)]) =
    some (0x3FD5555555555555, flagNX) := by decide +kernel
theorem test_fdiv_zero : pushed (.fdiv true none (.n 2) (.n 3) .rne .f64) (demo [(2, 0xBFF0000000000000)]) =
    some (0xFFF0000000000000, flagDZ) := by decide +kernel
theorem test_fmin_zeros : pushed (.fmin true none (.n 2) (.n 3) .f64) (demo [(3, 0x8000000000000000)]) = some (0x8000000000000000, 0) := by
  decide +kernel
theorem test_fcmp_unordered : pushed (.fcmp true none (.n 2) (.n 3) .le .f64) (demo [(2, 0x7FF8000000000000)]) = some (0, flagNV) ∧
    pushed (.fcmp true none (.n 2) (.n 3) .eq .f64) (demo [(2, 0x7FF8000000000000)]) = some (0, 0) := by decide +kernel
theorem test_fclass_subnormal : pushed (.fclass true none (.n 2) .f32) (demo [(2, 0x80000001)]) = some (4, 0) := by decide +kernel

/-- The worked block of R162: 3, −0.5, 0.1, 0, 2^−12, 2^−16, 1, −2 at rung 1 (E4M3) and at rung 0 (TS8), by VQNT. -/
theorem test_vqnt_blocks : let src : VWord := 0xC00000003F8000003780000039800000000000003DCCCCCDBF00000040400000
    let t := { demoThread [] with vec := (Vector.replicate 8 0).set 1 src }
    ((t.vrun (.vqnt true 2 1 0 .e4m3 .f32 0 false) 0 0).1.vec[2]).extractLsb' 0 64 = 0xF0680008004DE074 ∧
    ((t.vrun (.vqnt true 2 1 0 .ts8 .f32 0 false) 0 0).1.vec[2]).extractLsb' 0 64 = 0x87177777775 * 2 ^ 20 + 0x6A701 := by
  decide +kernel

/-- R224: s8 lanes wrap; R232: VCMP leaves an inactive lane's bit 0; R237: the sum of no lane. -/
theorem test_vadd_wraps : ((Thread.vrun { demoThread [] with vec := (Vector.replicate 8 0).set 1 0x7F01 } (.vaddInt true 2 1 1 .s8 0 false) 0 0).1.vec[2]) =
    0xFE02 := by decide +kernel
theorem test_vcmp_inactive : ((Thread.vrun { demoThread [] with pred := #v[0, 2, 0, 0] } (.vcmp true 2 1 3 .eq .s64 1 false) 0 0).1.pred[2]) = 2 := by
  decide +kernel
theorem test_vred_empty : (Thread.vrun (demoThread []) (.vred true 1 .max .s8 1 false) 0 0).2 = -128 := by decide +kernel

/-- "Worked readout": 1.5, 500, 2^−12 and 0.3 leave their E4M3 bytes and the conversion word. -/
theorem test_mrd : let cmd : MxCmd := .rd [0] false 1 4 5 64
    let o := { demoOp (.mx cmd) with eng := true }
    let s := opDemo o
    let acc := ([0x3FC00000, 0x43FA0000, 0x39800000, 0x3E99999A].zipIdx.map fun (v, i) => (4 * i, bytesOfNat 4 v)).foldl (fun m e => Memory.setBytes m e.1 e.2) []
    let u := { s with chip := s.chip.modCore 0 fun q => { q with acc := acc } }
    let c := after (.resultReturn 7) u
    (c.core 0).scratch.bytes 64 4 = [0x3C, 0x7E, 0x00, 0x2A] ∧ ((c.thread 0).queue.map QSlot.val) = [some 0x0000000100010700] := by
  decide +kernel

/-- R9: the SHA-512 of the three bytes of "abc" begins with these four (the example of its standard). -/
theorem test_sha : (sha512 [0x61, 0x62, 0x63]).take 4 = [0xDD, 0xAF, 0x35, 0xA1] := by decide +kernel

/-- "A worked ladder": the first attempt, at rung 2, passes its budget of 0 cancellations in its third block. -/
theorem test_ladder : let m : MulCmd := { demoMul 0x22 with fmt := 3, stride := 48, m := 1, n := 1, k := 24, budget := 0x0000000C00FFFFFF, wide := true }
    let mem := ([(0, 0x4580), (16, 0x3F80), (32, 0x4580), (1024, 0x4580), (1040, 0x3F80), (1056, 0xC580)] : List (Nat × Nat)).foldl
      (fun m e => Memory.setBytes m e.1 (bytesOfNat 2 e.2)) []
    let b := { demoBind with fmt := 3, k := 24, n := 1, rows := 24, cols := 1, olds := [mem.bytes 0 48] }
    let s := opDemo (demoOp (.mmul m none))
    let u := { s with chip := s.chip.modCore 0 fun q => { q with scratch := mem, bind := some b } }
    ((after (.mmulStart 7) u).op? 7).bind (fun o => match o.body with
      | .mmul _ (some a) => some (a.rung, a.passed, a.blocks, a.counts.can)
      | _ => none) = some (2, 3, 2, 1) := by
  decide +kernel

/-- "Worked cases" of R109 for L = 4 and H = 9: the cause of a load that finds no version, and the word of TPROBE for version 7. -/
theorem test_window : let h := demoHead 9 4
    h.window 3 = some .vdead ∧ h.window 7 = none ∧ h.window 0x8004 = none ∧ h.window 0x8005 = some .vwindow ∧ h.window 0xC000 = some .vdead := by
  decide
theorem test_tprobe : let c := { homeDemo (demoReq .probe .travelling) [demoEntry 5 .dead 0, demoEntry 6 .dead 0, demoEntry 8 .published 1,
      demoEntry 9 .published 1] (some (demoHead 9 4)) with reqs := [] }
    let n : Name := { part := 0, space := 0, index := 5 }
    c.stateWord n 7 = 0x0004000900000000 ∧ c.stateWord n 0x8005 = 0x0004000900000006 := by decide +kernel

/-- "Worked overlap": a CPY of 16 bytes from 0x100 to 0x104 reads them all before it writes one. -/
theorem test_cpy_overlap : let g : CopyGeo := { demoGeo with rows := 1, sstride := 16, dstride := 16 }
    let o := demoOp (.copy { demoCopy (.loc [0x100]) (.loc [0x104]) 0 with geo := g })
    let s := opDemo o
    let u := { s with chip := s.chip.modCore 0 fun q => { q with scratch := q.scratch.setBytes 0x100 ((List.range 16).map (BitVec.ofNat 8)) } }
    ((after (.copyUnit 7) u).core 0).scratch.bytes 0x100 20 = [0, 1, 2, 3] ++ (List.range 16).map (BitVec.ofNat 8) := by decide +kernel

/-- "Worked issue": A is always ready, B of priority 2 since slot 3 and C of priority 3 since slot 1; slot 16 goes to C, slot 2 to A. -/
theorem test_barrel : let threads := [(0, demoThread []), (1, { demoThread [] with prio := 2, readySince := 3 }),
      (2, { demoThread [] with prio := 3, readySince := 1 })]
    let picks := fun n => match exec (.barrelIssueSlot 0) (demo [] id fun c => { (c.modCore 0 fun q => { q with slot := n }) with threads := threads }) with
      | .next t => t.issuing
      | _ => none
    picks 15 = some 2 ∧ picks 1 = some 0 := by decide +kernel

/-- "Worked list": v1, v2, m1, slot a0 and 256 bytes at local 0x200; its save has the 512 bytes of a record, two vectors of 256, a slot
of 16 KiB, and the range with its 16-byte header, in units of 256. -/
theorem test_live_list : (demoThread []).listOk [0x00101206, 0x0000010000000200] = true ∧
    saveSize [0x00101206, 0x0000010000000200] = (512 + 512 + 16384 + 16 + 256 + 255) / 256 * 256 := by decide +kernel

/-- "Worked walk": the level-3 entry 0x0000_0012_0003_009B takes va 0x0000_0040_0000_1000 to pa 0x0012_0003_1000. -/
theorem test_walk : let c := (demo []).chip
    tableIndex 0x0000004000001000 0 = 0 ∧ tableIndex 0x0000004000001000 1 = 0 ∧ tableIndex 0x0000004000001000 2 = 512 ∧
    tableIndex 0x0000004000001000 3 = 0 ∧ pteBad c.device 3 0x000000120003009B = false ∧
    pteFrame 0x000000120003009B + 0x1000 = 0x001200031000 ∧ dieOfHbm 0x001200031000 = 1 := by decide +kernel

/-- "Worked split": with groups 14 and 15 still held by partition 2, CREATE of partition 5 leaves RESULT 2. -/
theorem test_create_held : let staged : Layout := { groups := 0xC000, il := 0x0000000100000110, nb := 0x10, vtshare := 4 }
    let s := demo [] id fun c => { c with sel := 5, parts := [(2, { demoPart with layout := { demoPart.layout with groups := 0xF000 } }),
                                                              (5, { Partition.empty with staged := staged })] }
    ((after .create s).part 5).result = 2 ∧ ((after .create s).part 5).state = .undefined := by decide +kernel

/-- R303: TRAP with code 0x2A stops its thread with TRAP_INSTR owed. R52: the word 0 is ILLEGAL_OPCODE. R51: TRET of a user thread. -/
theorem test_trap : (((after (.trap true 0x2A) (demo [])).thread 0).owed.map fun r => (r.cause, r.code, r.pc)) = [(.trapInstr, 0x2A, 0x1000)] ∧
    ((after (.trap true 0x2A) (demo [])).thread 0).stopped = true := by decide +kernel
theorem test_no_instruction : causes (.notAnInstruction 0) (demo []) = [.illegalOpcode] := by decide +kernel
theorem test_tret_user : causes (.tret true (.n 2)) (demo []) = [.privilege] := by decide +kernel

/-- "Worked overrun" at 1 ms: SKIP skips the start, DEFER holds k = 1. -/
theorem test_slot_overrun :
    let x : TSlot := { armed := true, start := 0, period := 1000000, entry := 0, arg := 0, place := 0, policy := 1, nextK := 1, running := [1],
                       pending := none }
    let s := demo [] id fun c => c.modPart 0 fun q => { q with slottab := 1, time := 1000000, tslots := [(0, x)] }
    (Table.get? ((after (.slotStartDue 0 0) s).part 0).tslots 0).map (fun y => (y.nextK, y.pending)) = some (2, some 1) := by decide +kernel

/-- The machine made to fetch CRD of counter 3 runs it as its next step. -/
theorem test_step_runs : (match step (State.reset.withFetchWord 32 0x32000034) with
    | .next t => (t.chip.ops.map Op.body, (t.chip.thread 15).pc)
    | _ => ([], 0)) = ([.value 0 0], 4) := by decide +kernel

end Sys2Proof.Tests
end

section
/-!
SUPPORT. Privilege at issue (R51): a thread below the level of an instruction owes the trap PRIVILEGE, whose record names the sources
that are read as it is posted (R303, R305). The statement about R51 leaves those sources out of the record, and fails for that alone.
-/

namespace Sys2Proof.Machine

/-! ### The check of the level -/

/-- The level comes first in the decoder's order (R45). -/
theorem Thread.check_of_level_lt {t : Thread} {h : Hdr} (hlt : t.level.rank < h.level.rank) : t.check h = some .privilege := by
  simp [Thread.check, hlt]

/-- A check that fails leaves its trap owed, with the sources of the instruction in its record, whatever the body. -/
theorem issue_refuses {s : State} {h : Hdr} {f : Chip → Chip} {body : Chip → Eff} {cause : Cause} (hl : s.me.live = true)
    (hk : s.me.check h = some cause) (hf : f s.chip = s.chip.issue h body) :
    ∃ t, s.issue f = .next t ∧
      Traps s (s.trapOf cause 0 (h.opA s.me) (h.opB s.me) 0 h.push h.dest (h.sw || h.ends) h.srcs) t := by
  refine ⟨_, issue_next hl f, ?_⟩
  rw [hf, Chip.issue_refused hk]
  exact traps_of_raise s cause 0 _ _ 0 h.push h.dest _ h.srcs

/-- TRET of a user thread raises PRIVILEGE, and its record names the source A. -/
theorem tret_user_raises_privilege {s : State} (sw : Bool) (a : Src) (hl : s.me.live = true) (hu : s.me.level = .user) :
    ∃ t, exec (.tret sw a) s = .next t ∧ Traps s (s.trapOf .privilege 0 (s.val a) 0 0 false none sw (some a, none)) t := by
  have hlt : s.me.level.rank < Level.sup.rank := by rw [hu]; decide
  have hk := Thread.check_of_level_lt (h := { sw := sw, pair := [a], level := .sup }) hlt
  have htraps : ∃ t, execTret sw a s = .next t ∧ _ := issue_refuses hl hk rfl
  rwa [Bool.or_false] at htraps

/-! ### One step, one record -/

/-- Two records by which one step traps are the same, where the thread owed nothing before. -/
theorem Traps.record_unique {s t : State} {r r' : TrapRec} (h : Traps s r t) (h' : Traps s r' t) (hnone : s.me.owed = []) : r = r' := by
  have howed : oweTrap r s.me.owed = oweTrap r' s.me.owed := congrArg Thread.owed (h.me.symm.trans h'.me)
  simpa [hnone, oweTrap] using howed

/-- TRET of a user thread that owes nothing leaves no record without sources. -/
theorem not_traps_without_sources_of_tret {s t : State} {sw : Bool} {a : Src} (hl : s.me.live = true) (hu : s.me.level = .user)
    (hnone : s.me.owed = []) (ht : exec (.tret sw a) s = .next t) :
    ¬ Traps s (s.trapOf .privilege 0 (s.val a) 0 0 false none sw) t := by
  intro hclaim
  obtain ⟨t', ht', htraps⟩ := tret_user_raises_privilege sw a hl hu
  obtain rfl : t = t' := Host.Outcome.next.inj (ht.symm.trans ht')
  have hsrcs : (none, none) = (some a, none) := congrArg TrapRec.srcs (hclaim.record_unique htraps hnone)
  simp at hsrcs

end Sys2Proof.Machine

namespace Sys2Proof
open Machine

/-- Refutes O40: `tret n2` of the user thread of a package that is otherwise as reset leaves it. PRIVILEGE is raised and nothing else is
done, as R51 says, but the record that the thread owes has the source n2, to be read as the record is posted (R303), and the record of
the statement has no source. -/
theorem not_privilege : ¬ Obligations.Privilege := by
  unfold Obligations.Privilege
  intro hpriv
  let s : State := State.reset.withMe fun u => { u with live := true, level := .user }
  have hl : s.me.live = true := by decide
  have hu : s.me.level = .user := by decide
  have hnone : s.me.owed = [] := by decide
  obtain ⟨hbelowSup, -⟩ := hpriv s true none (.n 2) (.n 2) 0 hl
  obtain ⟨⟨t, ht, hclaim⟩, -⟩ := hbelowSup hu
  exact not_traps_without_sources_of_tret hl hu hnone ht hclaim

end Sys2Proof
end

section
/-!
SUPPORT. The scalar instructions of two sources (R61, R93): the header that they share, and what their bodies leave.
-/

namespace Sys2Proof.Machine

/-- The header of an instruction of two sources that pushes. -/
abbrev twoSources (sw : Bool) (d : Dest) (a b : Src) : Hdr := { sw := sw, pair := [a, b], dest := d, push := true }

/-- A body of two sources that traps at no address leaves the values of both in its record (R305). -/
theorem issue_traps_twoSources {s : State} {sw : Bool} {d : Dest} {a b : Src} (hc : s.clear (twoSources sw d a b)) {f : Chip → Chip}
    {body : Chip → Eff} {cause : Cause} (hf : f s.chip = s.chip.issue (twoSources sw d a b) body) (hb : body s.chip = .trap cause 0) :
    ∃ t, s.issue f = .next t ∧ Traps s (s.trapOf cause 0 (s.val a) (s.val b) 0 true d sw) t := by
  have htraps : ∃ t, s.issue f = .next t ∧ Traps s (s.trapOf cause 0 (s.val a) (s.val b) 0 true d (sw || false)) t :=
    issue_traps hc hf hb
  rwa [Bool.or_false] at htraps

/-- The model's width and the statements' are one (R63). -/
theorem intResult_eq_atWidth (f : IntFn) (w : Bool) (x y : Word) : intResult f w x y = atWidth w f x y := by
  simp only [intResult, atWidth, BitVec.setWidth_eq_extractLsb' (show 32 ≤ 64 by decide)]

/-- A two-source integer instruction pushes its function at its width. -/
theorem int2_pushes {s : State} {sw : Bool} {d : Dest} {a b : Src} (hc : s.clear (twoSources sw d a b)) (w : Bool) (f : IntFn) :
    ∃ t, s.issue (fun c => c.int2 sw d a b w f) = .next t ∧ Pushes s d (atWidth w f (s.val a) (s.val b)) 0 t := by
  rw [← intResult_eq_atWidth]
  exact issue_pushes hc rfl rfl

end Sys2Proof.Machine
end

section
/-!
SUPPORT. Division (R64).
-/

namespace Sys2Proof.Machine

/-- The signed quotient rounds toward zero; the most negative value by −1 wraps to itself. -/
theorem sdiv_eq_ofInt_tdiv {n : Nat} (x y : BitVec n) : x.sdiv y = BitVec.ofInt n (x.toInt.tdiv y.toInt) :=
  BitVec.eq_of_toInt_eq (by rw [BitVec.toInt_sdiv, BitVec.toInt_ofInt])

/-- The signed remainder has the sign of the dividend. -/
theorem srem_eq_ofInt_tmod {n : Nat} (x y : BitVec n) : x.srem y = BitVec.ofInt n (x.toInt.tmod y.toInt) := by
  rw [← BitVec.toInt_srem, BitVec.ofInt_toInt]

theorem allOnes_eq_ofInt (n : Nat) : BitVec.allOnes n = BitVec.ofInt n (-1) := by
  simp [← BitVec.neg_one_eq_allOnes, BitVec.ofInt_neg]

theorem allOnes_eq_ofNat (n : Nat) : BitVec.allOnes n = BitVec.ofNat n (2 ^ n - 1) :=
  BitVec.eq_of_toNat_eq (by simp)

theorem divFn_eq : divFn = fun n x y => if y = 0 then BitVec.ofInt n (-1) else BitVec.ofInt n (x.toInt.tdiv y.toInt) := by
  funext n x y
  rw [divFn, allOnes_eq_ofInt, sdiv_eq_ofInt_tdiv]

theorem divuFn_eq : divuFn = fun n x y => if y = 0 then BitVec.ofNat n (2 ^ n - 1) else BitVec.ofNat n (x.toNat / y.toNat) := by
  funext n x y
  rw [divuFn, allOnes_eq_ofNat, BitVec.udiv_def]

theorem remFn_eq : remFn = fun n x y => if y = 0 then x else BitVec.ofInt n (x.toInt.tmod y.toInt) := by
  funext n x y
  rw [remFn, srem_eq_ofInt_tmod]

theorem remuFn_eq : remuFn = fun n x y => if y = 0 then x else BitVec.ofNat n (x.toNat % y.toNat) := by
  funext n x y
  rw [remuFn, BitVec.umod_def]

end Sys2Proof.Machine

namespace Sys2Proof
open Machine

/-- Settles O3: each division is a two-source integer instruction, and its function is that of R64 at every width. -/
theorem division : Obligations.Division := by
  unfold Obligations.Division
  intro s sw w d a b hc q
  refine ⟨?_, ?_, ?_, ?_⟩
  · exact divFn_eq ▸ int2_pushes hc w divFn
  · exact divuFn_eq ▸ int2_pushes hc w divuFn
  · exact remFn_eq ▸ int2_pushes hc w remFn
  · exact remuFn_eq ▸ int2_pushes hc w remuFn

end Sys2Proof
end

section
/-!
SUPPORT. Handles (R67 to R69): their fields after HIDX and HVER, the field that HFLD names, and what HMAKE refuses.
-/

namespace Sys2Proof.Machine

/-! ### Fields of words -/

/-- A field of a word is a slice of it. -/
theorem fld_eq_toNat (w : Word) (lo n : Nat) : fld w lo n = (w.extractLsb' lo n).toNat := by
  rw [fld, BitVec.extractLsb'_toNat, Nat.shiftRight_eq_div_pow]

/-- A narrow sum takes a word as the signed amount that it is. -/
theorem setWidth_eq_ofInt {n : Nat} (hn : n ≤ 64) (x : Word) : x.setWidth n = BitVec.ofInt n x.toInt := by
  rw [← BitVec.signExtend_eq_setWidth_of_le x hn, BitVec.signExtend]

/-! ### HIDX and HVER (R68) -/

/-- HIDX pushes its handle with b added to the index, and keeps the header and the version. -/
theorem hidx_pushes {s : State} {sw : Bool} {d : Dest} {a b : Src} (hc : s.clear (twoSources sw d a b)) :
    ∃ t v, execHidx sw d a b s = .next t ∧ Pushes s d v 0 t ∧ v.extractLsb' 44 20 = (s.val a).extractLsb' 44 20 ∧
      v.extractLsb' 16 28 = (s.val a).extractLsb' 16 28 + BitVec.ofInt 28 (s.val b).toInt ∧
      v.extractLsb' 0 16 = (s.val a).extractLsb' 0 16 := by
  obtain ⟨t, ht, hpush⟩ : ∃ t, execHidx sw d a b s = .next t ∧ Pushes s d _ 0 t := issue_pushes hc rfl rfl
  refine ⟨t, _, ht, hpush, ?_, ?_, BitVec.extractLsb'_append_eq_right⟩
  · rw [BitVec.extractLsb'_append_eq_of_le (by decide), BitVec.extractLsb'_append_eq_left]
    rfl
  · rw [BitVec.extractLsb'_append_eq_of_le (by decide), BitVec.extractLsb'_append_eq_right, setWidth_eq_ofInt (by decide)]
    rfl

/-- HVER pushes its handle with b added to the version, and keeps the other fields. -/
theorem hver_pushes {s : State} {sw : Bool} {d : Dest} {a b : Src} (hc : s.clear (twoSources sw d a b)) :
    ∃ t v, execHver sw d a b s = .next t ∧ Pushes s d v 0 t ∧ v.extractLsb' 16 48 = (s.val a).extractLsb' 16 48 ∧
      v.extractLsb' 0 16 = (s.val a).extractLsb' 0 16 + BitVec.ofInt 16 (s.val b).toInt := by
  obtain ⟨t, ht, hpush⟩ : ∃ t, execHver sw d a b s = .next t ∧ Pushes s d _ 0 t := issue_pushes hc rfl rfl
  refine ⟨t, _, ht, hpush, BitVec.extractLsb'_append_eq_left, ?_⟩
  rw [BitVec.extractLsb'_append_eq_right, setWidth_eq_ofInt (by decide)]
  rfl

/-! ### HFLD (R69) -/

/-- The fields of a handle in the order of their numbers: format, block length, shape, flags, index, version, and the sides that the
shape stands for. -/
def handleFields (h : Nat) : List Nat :=
  let cut := fun (hi lo : Nat) => h / 2 ^ lo % 2 ^ (hi + 1 - lo)
  [cut 63 59, cut 58 56, cut 55 52, cut 51 44, cut 43 16, cut 15 0, 8 * 2 ^ cut 55 54, 8 * 2 ^ cut 53 52]

theorem handleField_eq (h : Word) (n : Nat) : handleField h n = ((handleFields h.toNat)[n]?).map (BitVec.ofNat 64) := by
  match n with
  | 0 | 1 | 2 | 3 | 4 | 5 => rfl
  | 6 | 7 => simp [handleField, handleFields, fld, Nat.shiftLeft_eq]
  | _ + 8 => rfl

/-- HFLD pushes the field that b names, and traps where there is none. -/
theorem hfld_field {s : State} {sw : Bool} {d : Dest} {a b : Src} (hc : s.clear (twoSources sw d a b)) :
    ∃ t, execHfld sw d a b s = .next t ∧
      match (handleFields (s.val a).toNat)[(s.val b).toNat]? with
      | some v => Pushes s d (BitVec.ofNat 64 v) 0 t
      | none => Traps s (s.trapOf .illegalOperand 0 (s.val a) (s.val b) 0 true d sw) t := by
  have hfield : handleField (s.chip.src a) (s.chip.src b).toNat = _ := handleField_eq (s.val a) (s.val b).toNat
  cases hn : (handleFields (s.val a).toNat)[(s.val b).toNat]? with
  | some v =>
    rw [hn] at hfield
    exact issue_pushes hc rfl (by rw [hfield]; rfl)
  | none =>
    rw [hn] at hfield
    exact issue_traps_twoSources hc rfl (by rw [hfield]; rfl)

/-! ### HMAKE (R67) -/

/-- The handle that HMAKE forms: the header of one word, the index and the version of another. -/
def joinHandle (x y : Word) : Word := x.extractLsb' 44 20 ++ y.extractLsb' 0 44

theorem header_joinHandle (x y : Word) : (joinHandle x y).extractLsb' 44 20 = x.extractLsb' 44 20 :=
  BitVec.extractLsb'_append_eq_left

theorem name_joinHandle (x y : Word) : (joinHandle x y).extractLsb' 0 44 = y.extractLsb' 0 44 :=
  BitVec.extractLsb'_append_eq_right

/-- A field of the header is that of the word that the header comes from. -/
theorem fld_joinHandle (x y : Word) {lo n : Nat} (hlo : 44 ≤ lo) (hn : lo + n ≤ 64) : fld (joinHandle x y) lo n = fld x lo n := by
  rw [fld_eq_toNat, fld_eq_toNat, joinHandle, BitVec.extractLsb'_append_eq_of_le hlo]
  congr 1
  ext i hi
  have hlt : lo - 44 + i < 20 := by omega
  have hbit : 44 + (lo - 44 + i) = lo + i := by omega
  simp [hlt, hbit]

/-- The upper fields that R67 refuses: a reserved format, a block length that is not one, and blocks of 8 in a format without them. -/
abbrev RefusedHeader (fmt blk : Nat) : Prop :=
  fmt = 8 ∨ 16 ≤ fmt ∨ (blk ≠ 0 ∧ blk ≠ 3) ∨ (blk = 3 ∧ fmt ∉ [7, 5, 6, 12, 13])

theorem badHandle_iff (h : Word) : badHandle h = true ↔ RefusedHeader (fld h 59 5) (fld h 56 3) := by
  simp [badHandle, fmtAssigned, blockable, RefusedHeader, or_assoc, and_assoc]

theorem badHandle_joinHandle (x y : Word) :
    badHandle (joinHandle x y) = true ↔ RefusedHeader (x.toNat / 2 ^ 59) (x.toNat / 2 ^ 56 % 8) := by
  have hfmt : fld x 59 5 = x.toNat / 2 ^ 59 := Nat.mod_eq_of_lt (by omega)
  have hblk : fld x 56 3 = x.toNat / 2 ^ 56 % 8 := rfl
  rw [badHandle_iff, fld_joinHandle x y (by decide) (by decide), fld_joinHandle x y (by decide) (by decide), hfmt, hblk]

/-- HMAKE of a header that R67 refuses raises BAD_HANDLE. -/
theorem hmake_traps {s : State} {sw : Bool} {d : Dest} {a b : Src} (hc : s.clear (twoSources sw d a b))
    (hbad : RefusedHeader ((s.val a).toNat / 2 ^ 59) ((s.val a).toNat / 2 ^ 56 % 8)) :
    ∃ t, execHmake sw d a b s = .next t ∧ Traps s (s.trapOf .badHandle 0 (s.val a) (s.val b) 0 true d sw) t :=
  issue_traps_twoSources hc rfl (if_pos ((badHandle_joinHandle (s.val a) (s.val b)).2 hbad))

/-- HMAKE of any other header pushes the handle that it forms. -/
theorem hmake_pushes {s : State} {sw : Bool} {d : Dest} {a b : Src} (hc : s.clear (twoSources sw d a b))
    (hgood : ¬RefusedHeader ((s.val a).toNat / 2 ^ 59) ((s.val a).toNat / 2 ^ 56 % 8)) :
    ∃ t, execHmake sw d a b s = .next t ∧ Pushes s d (joinHandle (s.val a) (s.val b)) 0 t :=
  issue_pushes hc rfl (if_neg (mt (badHandle_joinHandle (s.val a) (s.val b)).1 hgood))

end Sys2Proof.Machine

namespace Sys2Proof
open Machine

/-- Settles O6: HIDX and HVER add to one field each, HFLD reads the list of fields, and HMAKE traps just where R67 refuses the upper
fields. -/
theorem handles : Obligations.Handles := by
  unfold Obligations.Handles
  refine ⟨fun s sw d a b hc => ⟨hidx_pushes hc, hver_pushes hc⟩, fun s sw d a b hc => hfld_field hc, ?_⟩
  intro s sw d a b hc fmt blk
  by_cases hbad : RefusedHeader fmt blk
  · obtain ⟨t, ht, htraps⟩ := hmake_traps hc hbad
    exact ⟨t, ht, by rwa [if_pos hbad]⟩
  · obtain ⟨t, ht, hpush⟩ := hmake_pushes hc hbad
    refine ⟨t, ht, ?_⟩
    rw [if_neg hbad]
    exact ⟨_, hpush, header_joinHandle _ _, name_joinHandle _ _⟩

end Sys2Proof
end

section
/-!
SUPPORT. The order of exact values (R94, R95): the model's integer comparison is that of rational numbers.
-/

namespace Sys2Proof.Machine

/-! ### Exact sums -/

/-- A significand moved to a lesser exponent has the same value. -/
theorem alignTo_mul_zpow (neg : Bool) (m : Nat) {e x : Int} (hx : x ≤ e) :
    (alignTo neg m e x : ℚ) * 2 ^ x = (FVal.fin neg m e).rat := by
  have hpow : (2 : ℚ) ^ (e - x).toNat * 2 ^ x = 2 ^ e := by
    rw [← zpow_natCast, ← zpow_add₀ two_ne_zero]
    congr 1
    omega
  simp only [alignTo, FVal.rat]
  rw [← hpow]
  push_cast
  ring

/-- An exact sum is the sum of the rational numbers. -/
theorem exactAdd_mul_zpow (n₁ : Bool) (m₁ : Nat) (x₁ : Int) (n₂ : Bool) (m₂ : Nat) (x₂ : Int) :
    ((exactAdd n₁ m₁ x₁ n₂ m₂ x₂).1 : ℚ) * 2 ^ min x₁ x₂ = (FVal.fin n₁ m₁ x₁).rat + (FVal.fin n₂ m₂ x₂).rat := by
  rw [← alignTo_mul_zpow n₁ m₁ (min_le_left x₁ x₂), ← alignTo_mul_zpow n₂ m₂ (min_le_right x₁ x₂), ← add_mul]
  simp only [exactAdd]
  push_cast
  rfl

theorem FVal.rat_fin_not (neg : Bool) (m : Nat) (x : Int) : (FVal.fin (!neg) m x).rat = -(FVal.fin neg m x).rat := by
  cases neg <;> simp [FVal.rat]

/-- The sign of an exact difference orders finite values. -/
theorem FVal.lt_fin_iff (n₁ : Bool) (m₁ : Nat) (x₁ : Int) (n₂ : Bool) (m₂ : Nat) (x₂ : Int) :
    (FVal.fin n₁ m₁ x₁).lt (.fin n₂ m₂ x₂) = true ↔ (FVal.fin n₁ m₁ x₁).rat < (FVal.fin n₂ m₂ x₂).rat := by
  have hsum := exactAdd_mul_zpow n₁ m₁ x₁ (!n₂) m₂ x₂
  rw [FVal.rat_fin_not, ← sub_eq_add_neg] at hsum
  have hpos : (0 : ℚ) < 2 ^ min x₁ x₂ := by positivity
  rw [FVal.lt, decide_eq_true_iff, ← sub_neg (a := (FVal.fin n₁ m₁ x₁).rat), ← hsum, ← not_le (a := 0) (b := _ * _),
    mul_nonneg_iff_of_pos_right hpos, not_le, Int.cast_lt_zero]

/-! ### The order -/

theorem FVal.isNan_of_below {x y : FVal} (h : x.below y) : x.isNan = false ∧ y.isNan = false := by
  match x, y with
  | .nan _, _ | .inf _, .nan _ | .fin .., .nan _ => simp [FVal.below] at h
  | .inf _, .inf _ | .inf _, .fin .. | .fin .., .inf _ | .fin .., .fin .. => exact ⟨rfl, rfl⟩

/-- Between numbers the model's comparison is the order of R95. -/
theorem FVal.lt_iff_below {x y : FVal} (hx : x.isNan = false) (hy : y.isNan = false) : x.lt y = true ↔ x.below y := by
  match x, y with
  | .inf _, .inf _ | .inf _, .fin .. | .fin .., .inf _ => simp [FVal.lt, FVal.below]
  | .fin .., .fin .. => exact FVal.lt_fin_iff ..

theorem FVal.below_asymm {x y : FVal} (h : x.below y) : ¬y.below x := by
  match x, y with
  | .nan _, _ | .inf _, .nan _ | .fin .., .nan _ => simp [FVal.below] at h
  | .inf _, .inf _ | .inf _, .fin .. | .fin .., .inf _ => simp_all [FVal.below]
  | .fin .., .fin .. => exact not_lt_of_gt h

theorem FVal.eqv_iff {x y : FVal} (hx : x.isNan = false) (hy : y.isNan = false) :
    x.eqv y = true ↔ ¬x.below y ∧ ¬y.below x := by
  rw [← FVal.lt_iff_below hx hy, ← FVal.lt_iff_below hy hx]
  cases x <;> cases y <;> simp_all [FVal.eqv, FVal.isNan]

/-! ### Signed zeros -/

/-- A finite value with the sign set is not above zero, and one without is not below. -/
theorem FVal.rat_fin_true_nonpos (m : Nat) (x : Int) : (FVal.fin true m x).rat ≤ 0 := by
  simp only [FVal.rat, if_true, neg_mul, Left.neg_nonpos_iff]
  positivity

theorem FVal.rat_fin_false_nonneg (m : Nat) (x : Int) : 0 ≤ (FVal.fin false m x).rat := by
  simp only [FVal.rat, Bool.false_eq_true, if_false, one_mul]
  positivity

/-- One number is less than another, −0 being below +0 (R94). -/
abbrev FVal.NumLess (x y : FVal) : Prop :=
  x.below y ∨ (x.rat = 0 ∧ y.rat = 0 ∧ x.finite ∧ y.finite ∧ x.sign = true ∧ y.sign = false)

/-- Numbers of which neither is less are zeros where their signs differ. -/
theorem FVal.equal_signs_iff_zeros {x y : FVal} (hx : x.isNan = false) (hy : y.isNan = false) :
    (¬x.below y ∧ ¬y.below x) ∧ x.sign = true ∧ y.sign = false ↔
      x.rat = 0 ∧ y.rat = 0 ∧ x.finite ∧ y.finite ∧ x.sign = true ∧ y.sign = false := by
  match x, y with
  | .inf _, .inf _ | .inf _, .fin .. | .fin .., .inf _ => simp_all [FVal.below, FVal.sign, FVal.finite]
  | .fin n₁ m₁ x₁, .fin n₂ m₂ x₂ =>
    constructor
    · rintro ⟨⟨hxy, hyx⟩, rfl, rfl⟩
      have heq := le_antisymm (not_lt.1 hyx) (not_lt.1 hxy)
      have hle := FVal.rat_fin_true_nonpos m₁ x₁
      have hge := FVal.rat_fin_false_nonneg m₂ x₂
      exact ⟨by linarith, by linarith, trivial, trivial, rfl, rfl⟩
    · rintro ⟨hxz, hyz, -, -, hsigns⟩
      exact ⟨⟨(hxz.trans hyz.symm).not_lt, (hyz.trans hxz.symm).not_lt⟩, hsigns⟩

end Sys2Proof.Machine
end

section
/-!
SUPPORT. FMIN, FMAX, FCMP and FCLASS (R94, R95, R97).
-/

namespace Sys2Proof.Machine

/-! ### FMIN and FMAX -/

/-- The flags of an operation that a signalling operand alone makes invalid. -/
abbrev signalFlags (x y : FVal) : FlagSet := if x.signals ∨ y.signals then flagNV else 0

theorem flagIf_or (p q : Bool) (f : FlagSet) : flagIf (p || q) f = if p ∨ q then f else 0 := by
  simp [flagIf]

theorem bne_iff_iff_false (p q : Bool) : (p != q) = true ↔ (p = true ↔ q = false) := by
  cases p <;> cases q <;> decide

section
variable (F : FFmt) (big : Bool) {a b : Nat}

theorem FFmt.minmax_flags (a b : Nat) : (F.minmax big a b).2 = signalFlags (F.value a) (F.value b) := by
  rw [signalFlags, ← flagIf_or, FFmt.minmax]
  split <;> rfl

theorem FFmt.minmax_of_nans (ha : (F.value a).isNan = true) (hb : (F.value b).isNan = true) : (F.minmax big a b).1 = F.nan := by
  simp [FFmt.minmax, ha, hb]

theorem FFmt.minmax_of_nan_left (ha : (F.value a).isNan = true) (hb : (F.value b).isNan = false) : (F.minmax big a b).1 = b := by
  simp [FFmt.minmax, ha, hb]

theorem FFmt.minmax_of_nan_right (ha : (F.value a).isNan = false) (hb : (F.value b).isNan = true) : (F.minmax big a b).1 = a := by
  simp [FFmt.minmax, ha, hb]

/-- The test of the model is the order of R94. -/
theorem FVal.numLess_iff {x y : FVal} (hx : x.isNan = false) (hy : y.isNan = false) :
    (x.lt y || (x.eqv y && x.sign && !y.sign)) = true ↔ x.NumLess y := by
  rw [FVal.NumLess, ← FVal.equal_signs_iff_zeros hx hy, ← FVal.eqv_iff hx hy, ← FVal.lt_iff_below hx hy]
  simp [and_assoc]

/-- Of two numbers FMIN takes the first where it is less, and FMAX where it is not. -/
theorem FFmt.minmax_of_numbers {first : Prop} [Decidable first] (ha : (F.value a).isNan = false) (hb : (F.value b).isNan = false)
    (hfirst : first ↔ ((F.value a).NumLess (F.value b) ↔ big = false)) : (F.minmax big a b).1 = if first then a else b := by
  have htest : ((F.value a).lt (F.value b) || ((F.value a).eqv (F.value b) && (F.value a).sign && !(F.value b).sign)) != big ↔ first := by
    rw [hfirst, ← FVal.numLess_iff ha hb]
    exact bne_iff_iff_false _ big
  simp only [FFmt.minmax, ha, hb, htest]

end

/-- FMIN or FMAX pushes the canonical NaN for two NaNs, else the first operand where the second is a NaN or the first is the one to
take, else the second; a signalling operand raises NV (R94). -/
theorem fpMinMax_pushes {s : State} {sw : Bool} {d : Dest} {a b : Src} (hc : s.clear (twoSources sw d a b)) (big : Bool) (p : Prec)
    {first : Prop} (hfirst : first ↔ ((p.value (s.val a)).NumLess (p.value (s.val b)) ↔ big = false)) :
    let x := p.value (s.val a)
    let y := p.value (s.val b)
    let pushes := fun (n : Nat) (t : State) => Pushes s d (BitVec.ofNat 64 n) (signalFlags x y) t
    ∃ t, s.issue (fun c => c.fpMinMax sw d a b big p) = .next t ∧
      (x.isNan ∧ y.isNan → pushes p.fmt.nan t) ∧ (x.isNan ∧ ¬y.isNan → pushes (p.bits (s.val b)) t) ∧
      (¬x.isNan ∧ (y.isNan ∨ first) → pushes (p.bits (s.val a)) t) ∧ (¬x.isNan ∧ ¬y.isNan ∧ ¬first → pushes (p.bits (s.val b)) t) := by
  classical
  intro x y pushes
  have hflags : (p.fmt.minmax big (p.bits (s.val a)) (p.bits (s.val b))).2 = signalFlags x y := FFmt.minmax_flags ..
  obtain ⟨t, ht, hpush⟩ : ∃ t, s.issue (fun c => c.fpMinMax sw d a b big p) = .next t ∧
      pushes (p.fmt.minmax big (p.bits (s.val a)) (p.bits (s.val b))).1 t := issue_pushes hc rfl (by rw [← hflags]; rfl)
  simp only [Bool.not_eq_true]
  refine ⟨t, ht, ?_, ?_, ?_, ?_⟩
  · rintro ⟨hx, hy⟩
    rwa [FFmt.minmax_of_nans _ _ hx hy] at hpush
  · rintro ⟨hx, hy⟩
    rwa [FFmt.minmax_of_nan_left _ _ hx hy] at hpush
  · rintro ⟨hx, htake⟩
    cases hy : y.isNan with
    | true => rwa [FFmt.minmax_of_nan_right _ _ hx hy] at hpush
    | false => rwa [FFmt.minmax_of_numbers _ _ hx hy hfirst, if_pos (htake.resolve_left (by simp [hy]))] at hpush
  · rintro ⟨hx, hy, hother⟩
    rwa [FFmt.minmax_of_numbers _ _ hx hy hfirst, if_neg hother] at hpush

/-! ### FCMP -/

theorem fcompare_eq_iff (x y : FVal) :
    (fcompare .eq x y).1 = true ↔ ¬x.isNan ∧ ¬y.isNan ∧ ¬x.below y ∧ ¬y.below x := by
  simp only [fcompare, Bool.and_eq_true, Bool.not_eq_true', Bool.or_eq_false_iff, and_assoc, Bool.not_eq_true]
  exact and_congr_right fun hx => and_congr_right fun hy => FVal.eqv_iff hx hy

theorem fcompare_lt_iff (x y : FVal) : (fcompare .lt x y).1 = true ↔ x.below y := by
  simp only [fcompare, Bool.and_eq_true, Bool.not_eq_true', Bool.or_eq_false_iff]
  constructor
  · rintro ⟨⟨hx, hy⟩, hlt⟩
    exact (FVal.lt_iff_below hx hy).1 hlt
  · intro hbelow
    obtain ⟨hx, hy⟩ := FVal.isNan_of_below hbelow
    exact ⟨⟨hx, hy⟩, (FVal.lt_iff_below hx hy).2 hbelow⟩

theorem fcompare_le_iff (x y : FVal) : (fcompare .le x y).1 = true ↔ ¬x.isNan ∧ ¬y.isNan ∧ ¬y.below x := by
  have horder : x.below y ∨ ¬x.below y ∧ ¬y.below x ↔ ¬y.below x := by
    have hasymm := @FVal.below_asymm x y
    tauto
  simp only [fcompare, Bool.and_eq_true, Bool.or_eq_true, Bool.not_eq_true', Bool.or_eq_false_iff, and_assoc, Bool.not_eq_true]
  refine and_congr_right fun hx => and_congr_right fun hy => ?_
  rw [FVal.lt_iff_below hx hy, FVal.eqv_iff hx hy, horder]

theorem fcompare_unord_iff (x y : FVal) : (fcompare .unord x y).1 = true ↔ x.isNan ∨ y.isNan :=
  Bool.or_eq_true_iff ..

theorem truth_eq_one_iff (p : Bool) : truth 64 p = 1 ↔ p = true := by
  cases p <;> simp [truth]

/-- FCMP pushes 1 or 0, and 1 just where its predicate holds. -/
theorem fcmp_pushes {s : State} {sw : Bool} {d : Dest} {a b : Src} {p : Prec} (hc : s.clear (twoSources sw d a b)) {q : FPred}
    {holds : Prop} {flags : FlagSet} (hholds : (fcompare q (p.value (s.val a)) (p.value (s.val b))).1 = true ↔ holds)
    (hflags : (fcompare q (p.value (s.val a)) (p.value (s.val b))).2 = flags) :
    ∃ t r, execFcmp sw d a b q p s = .next t ∧ Pushes s d r flags t ∧ (r = 0 ∨ r = 1) ∧ (r = 1 ↔ holds) := by
  obtain ⟨t, ht, hpush⟩ : ∃ t, execFcmp sw d a b q p s = .next t ∧ Pushes s d _ _ t := issue_pushes hc rfl rfl
  exact ⟨t, _, ht, hflags ▸ hpush, (ite_eq_or_eq ..).symm, (truth_eq_one_iff _).trans hholds⟩

/-! ### FCLASS -/

/-- The bit of the class of a value of a format (R97). -/
def FFmt.classBit (F : FFmt) : FVal → Nat
  | .inf n => if n then 0 else 7
  | .nan signals => if signals then 8 else 9
  | .fin n m _ =>
    if m = 0 then if n then 3 else 4
    else if m < 2 ^ F.f then if n then 2 else 5
    else if n then 1 else 6

theorem FFmt.classify_eq (F : FFmt) (bits : Nat) : F.classify bits = 2 ^ F.classBit (F.value bits) := by
  unfold FFmt.classify
  cases F.value bits with
  | nan signals => cases signals <;> rfl
  | inf neg => cases neg <;> rfl
  | fin neg m x => simp only [FFmt.classBit]; split_ifs <;> rfl

theorem fclass_pushes {s : State} {sw : Bool} {d : Dest} {a : Src} {p : Prec}
    (hc : s.clear { sw := sw, pair := [a], dest := d, push := true }) :
    ∃ t, execFclass sw d a p s = .next t ∧ Pushes s d (BitVec.ofNat 64 (2 ^ p.fmt.classBit (p.value (s.val a)))) 0 t :=
  issue_pushes hc rfl (by rw [Prec.value, ← FFmt.classify_eq]; rfl)

end Sys2Proof.Machine

namespace Sys2Proof
open Machine

/-- Settles O11: FMIN and FMAX take the operand that the order of exact values names, FCMP is read off the same order predicate by
predicate, and FCLASS sets the bit of the class of its value. -/
theorem fpCompareAndClass : Obligations.FpCompareAndClass := by
  unfold Obligations.FpCompareAndClass
  refine ⟨?_, ?_⟩
  · intro s sw d a b p hc x y sig any less ofBits
    refine ⟨fpMinMax_pushes hc false p (iff_true_right rfl).symm, ?_, ?_⟩
    · obtain ⟨t, ht, hnans, hnan, htakeA, htakeB⟩ := fpMinMax_pushes hc true p (iff_false_right (by decide)).symm
      exact ⟨t, ht, hnans, hnan, fun ⟨hx, hy, hless⟩ => htakeB ⟨hx, hy, not_not.2 hless⟩, htakeA⟩
    · intro q
      cases q
      case eq => exact fcmp_pushes hc (fcompare_eq_iff x y) (flagIf_or ..)
      case lt => exact fcmp_pushes hc (fcompare_lt_iff x y) (flagIf_or ..)
      case le => exact fcmp_pushes hc (fcompare_le_iff x y) (flagIf_or ..)
      case unord => exact fcmp_pushes hc (fcompare_unord_iff x y) (flagIf_or ..)
  · intro s sw d a p hc
    obtain ⟨t, ht, hpush⟩ := fclass_pushes (p := p) hc
    refine ⟨t, _, ht, hpush, ?_⟩
    cases p.value (s.val a) with
    | nan signals => rfl
    | inf neg => rfl
    | fin neg m x => simp only [FFmt.classBit]; split_ifs <;> rfl

end Sys2Proof
end
